-- ==== Sys2Proof/Word.lean ====
section
/-! DEFINITION. The word types of the T40 and their plainest arithmetic (00 R3, R4, R6). -/

namespace Sys2Proof

/-- A register (00 R6): 64 bits. -/
abbrev Word := BitVec 64
/-- One byte of memory. -/
abbrev Byte := BitVec 8
/-- A 48-bit local address (01 R26). -/
abbrev Addr := BitVec 48
/-- A 24-bit signal reference (11 R326). -/
abbrev Sref := BitVec 24
/-- The bits of an FP32 value (05 R141). -/
abbrev F32 := BitVec 32
/-- A module identifier (01 R31). -/
abbrev ModuleId := BitVec 16
/-- A status code (00 R11). -/
abbrev Code := BitVec 16

/-- A physical stall, ST00 to ST31 (00 R20). -/
abbrev Stall := Fin 32
/-- A unit site of a stall, y × 24 + x (02 R37). -/
abbrev Site := Fin 576
/-- A region number (03 R71). -/
abbrev Region := Fin 64
/-- A context slot or lane, C0 to C3 (03 R87). -/
abbrev Slot := Fin 4
/-- A manger, MG0 to MG3 (01 R21). -/
abbrev Mg := Fin 4
/-- A shed, SH0 to SH3 (01 R21). -/
abbrev Shed := Fin 4
/-- A link port, LK00 to LK15 (12 R353). -/
abbrev Port := Fin 16
/-- A mailbox slot, MB00 to MB63 (13 R392). -/
abbrev MbSlot := Fin 64
/-- A clock island of a stall (02 R37). -/
abbrev Island := Fin 16

/-- Field `[lo + len − 1 : lo]` of a number (00 R4). -/
def field (w lo len : Nat) : Nat := (w >>> lo) % 2 ^ len

/-- Bit `i` of a number. -/
def bitOf (w i : Nat) : Bool := field w i 1 = 1

/-- One if set, zero otherwise. -/
def flag (b : Bool) : Nat := if b then 1 else 0

/-- A field read as two's complement of `len` bits. -/
def signedField (w lo len : Nat) : Int :=
  let v := field w lo len
  if v < 2 ^ (len - 1) then (v : Int) else (v : Int) - (2 ^ len : Nat)

end Sys2Proof
end

