-- ==== Sys2Proof/Syntax.lean ====
section
/-! DEFINITION. The commands of the block: one constructor per row of spec/opcode_table.json, in the table's
order, and the plain data that a command carries from outside the block. -/

namespace Sys2Proof

/-- A direction of a route entry, and of a unit's queues (02 R44, 03 R99: north, east, south, west, local). -/
inductive Dir where
  | north | east | south | west | loc
  deriving DecidableEq, Repr

/-- Kind of a token (03 R68). -/
inductive TokenKind where
  | data | control | signal | config
  deriving DecidableEq, Repr

/-- A token: header fields (03 R68) and 64 B payload. Two fields are none of the header: `relayed`, the crossings' mark that
the token has come from one stall into another, so that a manger it enters takes it as relayed (02 R60); and `live`, the
payload's bits that lie inside the bounds of the tensor that a MAT stores, which alone a MEM writes (04 R121). -/
structure Token where
  route : BitVec 6
  ctx : Slot
  tag : BitVec 16
  void : Bool := false
  poison : Bool := false
  kind : TokenKind := .data
  fmt : BitVec 4
  inp : Fin 8
  acc : Bool := false
  last : Bool := false
  sig : Bool := false
  sref : Sref := 0
  payload : BitVec 512 := 0
  relayed : Bool := false
  live : BitVec 512 := BitVec.allOnes 512
  deriving DecidableEq, Repr

/-- A barrow (09 R264): die 0 to 31 are the stalls, 32 to 35 the mangers; `b` its index in the die. -/
structure BrwId where
  die : Fin 36
  b : Fin 32
  deriving DecidableEq, Repr

/-- Who sends an operation, waits, or accesses memory (10 R293, 11 R330). -/
inductive Agent where
  /-- a barrow, for a descriptor of its queue -/
  | barrow (id : BrwId)
  /-- a barrow, for a descriptor of an image list (09 R265) -/
  | image (id : BrwId)
  /-- a region's sequencer; the index says which object of the entry: 0 wait_a, 1 wait_b, 2 done -/
  | seq (r : Region) (which : Fin 3)
  /-- a claimer, waiting for its completion tally -/
  | claimer (id : BrwId)
  /-- update engine 0 to 15 -/
  | engine (e : Fin 16)
  /-- fetch barrow `4 + b` of a manger, for the fetch of a shard -/
  | fetch (m : Mg) (b : Fin 4) (set : BitVec 16) (shard : BitVec 24)
  /-- a region's window controller -/
  | window (r : Region)
  /-- a manger's move-ring server -/
  | moveRing (m : Mg)
  /-- MG0's norm agent, for a set -/
  | norm (set : BitVec 16)
  /-- MG0's agent of the global norm -/
  | gnorm
  /-- a pin-map refill (map address and entry) -/
  | pin (map : Addr) (entry : Nat)
  /-- the groom, for a mailbox command -/
  | groom
  /-- the host, through the data window -/
  | host
  /-- an agent of another module, with its transaction tag -/
  | remote (module : ModuleId) (tag : BitVec 16)
  /-- a yard unit -/
  | unit (st : Stall) (site : Site)
  deriving DecidableEq, Repr

/-- An access to the local address space (01 R36). A write carries its bytes, a read its size. -/
structure Access where
  agent : Agent
  addr : Addr
  write : Bool
  size : Nat
  data : List Byte := []
  poison : Bool := false
  /-- poison of each 64 B of a write that came over the fabric, and the signal that follows it (12 R359) -/
  marks : BitVec 64 := 0
  sref : Option Sref := none
  /-- byte offsets in the access whose loft line the memory device returns with an error that ECC corrects, and
  with one beyond it (10 R296, R318) -/
  corr : List Nat := []
  bad : List Nat := []
  deriving DecidableEq, Repr

/-- What ECC finds in a MAT's buffers as a step reads them (04 R136), with the offset in the SRAM window. -/
inductive Ecc where
  | clean | corrected (off : Nat) | uncorrected (off : Nat)
  deriving DecidableEq, Repr

/-- A fabric packet (12 R359): header, extension and data. -/
structure Packet where
  kind : BitVec 4
  ext : Bool := false
  last : Bool := false
  dmod : ModuleId
  smod : ModuleId
  hops : BitVec 4 := 0
  addr : Addr := 0
  len : BitVec 8 := 0
  tag : BitVec 16 := 0
  rstep : BitVec 8 := 0
  sref : Sref := 0
  sig : Bool := false
  pmask : BitVec 64 := 0
  rsvd : Bool := false
  data : List Byte := []
  deriving DecidableEq, Repr

/-- A flit on a link port (12 R355, R356): 256 B body, 8 B trailer, whether FEC decoded it, and how many
symbols FEC corrected. -/
structure Flit where
  body : BitVec 2048
  trailer : BitVec 64
  fecOk : Bool := true
  corrected : Nat := 0
  deriving DecidableEq, Repr

/-- A peer's boot record with its signature and the chain value sent beside it (12 R367). -/
structure BootRecord where
  serial : BitVec 128
  stepping : BitVec 8
  measurement : BitVec 256
  bootCounter : BitVec 32
  c0 : BitVec 256
  pubKey : BitVec 544
  signature : List Byte
  k : Nat
  ck : BitVec 256
  claimed : ModuleId
  deriving DecidableEq, Repr

/-- One bale of a reduction packet (05 R157, 12 R359): header and elements; none for a pre-pass entry. -/
structure Bale where
  e : BitVec 8
  sat : Bool := false
  poison : Bool := false
  mm : Bool := false
  pre : Bool := false
  elems : List (BitVec 16) := []
  deriving DecidableEq, Repr

/-- Who contributes to a flow: a local agent by ordinal, or the child port (12 R374). -/
inductive Contributor where
  | own (k : Fin 7)
  | child (p : Port)
  deriving DecidableEq, Repr

/-- What a TLP error is (13 R411). -/
inductive TlpError where
  | malformed | badBar | atomicOp | locked | tooLarge | strayCompletion
  deriving DecidableEq, Repr

/-- Requests of MCTP control (15 R452). -/
inductive MctpRequest where
  | setEid (eid : Byte) | getEid | getUuid | getVersion | getTypes | getVendor
  deriving DecidableEq, Repr

/-- Requests of PLDM (15 R452): type 0 base, a type 2 numeric sensor, the type 4 FRU record, and any other. -/
inductive PldmRequest where
  | base | sensor (id : Nat) | fru | other
  deriving DecidableEq, Repr

/-- TAP operations (15 R448, 17 R504). -/
inductive TapInstr where
  | idcode | bypass | samplePreload | extest | clamp | highz | internalScan (die : Byte) | selfTest (die : Byte)
  | other | trst
  deriving DecidableEq, Repr

/-- A failure that a self-test found (16 R486): site, memory, address, bit, kind, and whether the finding lies
within the spares of its memory. -/
structure Finding where
  site : BitVec 10
  mem : BitVec 6
  addr : BitVec 36
  bit : BitVec 8
  kind : BitVec 2
  sig : BitVec 64 := 0
  repairable : Bool := true
  deriving DecidableEq, Repr

/-- The unit status word as read over the test port (16 R478); none when unreadable. -/
abbrev StatusWord := Option (BitVec 64)

/-- The commands. -/
inductive Instr where
  | registerWrite (addr : Addr) (size : Nat) (data : Word)
  | linkServe (st : Stall) (site : Site) (out : Dir) (parity : Bool)
  | tokenArrival (st : Stall) (site : Site) (dir : Dir) (lane : Slot) (high : Bool)
  | memEntry (st : Stall) (site : Site) (inp : Fin 8) (tag : BitVec 16)
  | crossingCrcError (st : Stall) (edge : Fin 4) (i : Fin 24)
  | spareCrossingTakeover (st : Stall) (edge : Fin 4) (i : Fin 24)
  | frequencyChange (st : Stall) (island : Island) (vf : Fin 32) (droop : Bool)
  | unitFire (st : Stall) (site : Site) (tag : BitVec 16) (ecc : Ecc)
  | steerForward (st : Stall) (site : Site) (tag : BitVec 16)
  | contextSwitchRequest (st : Stall) (r : Region) (c : Slot)
  | unitSwitch (st : Stall) (site : Site)
  | contextLoad (st : Stall) (w : Word)
  | flushOnly (st : Stall) (w : Word)
  | laneOpen (st : Stall) (r : Region) (c : Slot)
  | progressWatchExpiry (r : Region)
  | extensionRefill (st : Stall) (site : Site) (dir : Dir) (lane : Slot) (high : Bool)
  | matIssue (st : Stall) (mat : Fin 256) (tag : BitVec 16)
  | tileEnd (st : Stall) (mat : Fin 256) (ecc : Ecc)
  | matRetire (st : Stall) (mat : Fin 256)
  | matTakeover (st : Stall) (mat : Fin 256)
  | statisticsFold (st : Stall) (a : Fin 16)
  | ldgFold (st : Stall)
  | ledgerAdvance
  | prePassReturn (b : BrwId) (exps : List Byte)
  | seqNop (r : Region)
  | seqRun (r : Region)
  | seqWaitsMet (r : Region)
  | seqDoneMet (r : Region)
  | seqDrain (r : Region)
  | seqMap (r : Region)
  | mapLoadRetry (r : Region) (st : Stall)
  | mapStalled (r : Region)
  | seqAdvance (r : Region)
  | seqJump (r : Region)
  | seqEnd (r : Region)
  | seqCtlGo (st : Stall) (r : Region) (w : Word)
  | seqCtlStop (st : Stall) (r : Region) (w : Word)
  | sequencerWaitLimit (r : Region)
  | claim (st : Stall) (b : Fin 32)
  | claimComplete (st : Stall) (b : Fin 32)
  | triggerPush (m : Mg) (e : Fin 4) (trig : Word)
  | updateTrigger (m : Mg) (e : Fin 4)
  | blockCommit (m : Mg) (e : Fin 4)
  | normExchange (set : BitVec 16)
  | updGnClose
  | normWaitTimeout (set : BitVec 16)
  | shardFetch (m : Mg) (b : Fin 4)
  | regenerateTrigger (m : Mg) (e : Fin 4)
  | resumeTrigger (m : Mg) (e : Fin 4)
  | engineStop (m : Mg) (e : Fin 4)
  | engineResume (m : Mg) (e : Fin 4)
  | engineFault (m : Mg) (e : Fin 4)
  | moveUpRetry (m : Mg) (e : Fin 4)
  | pinRefill (map : Addr) (entry : Nat)
  | barrowNop (b : BrwId)
  | barrowCopy (b : BrwId)
  | barrowGather (b : BrwId)
  | barrowScatter (b : BrwId)
  | barrowScatterAdd (b : BrwId)
  | barrowClose (b : BrwId)
  | queueTailWrite (b : BrwId) (tail : Word)
  | descriptorFetch (b : BrwId)
  | tileAccepted (b : BrwId)
  | writesLanded (b : BrwId)
  | barrowStop (b : BrwId)
  | barrowResume (b : BrwId)
  | barrowSkip (b : BrwId)
  | barrowFault (m : Mg) (b : Fin 8)
  | memoryAccess (a : Access)
  | peerSeekResult (set : BitVec 16) (shard : BitVec 24) (found : Bool) (master state : List Byte)
  | segmentCacheMiss (a : Agent) (name : BitVec 27)
  | moveRingRequest (m : Mg)
  | moveCutOver (m : Mg) (i : Fin 4)
  | epochTick (m : Mg)
  | ageSweep (m : Mg)
  | patrolScrub (iface : Fin 128) (line : BitVec 34) (errs : List (Fin 34 × BitVec 16))
  | interfaceLost (iface : Fin 128)
  | cxlPortFailed (p : Fin 8)
  | slowAccess (a : Access)
  | windowFill (r : Region)
  | loftWake (l : Fin 16)
  | loftSelfRefresh (l : Fin 16)
  | signal (a : Agent) (sref : Sref)
  | arrive (a : Agent) (sref : Sref)
  | arriveWait (a : Agent) (sref : Sref)
  | add (a : Agent) (sref : Sref) (n : BitVec 32)
  | sub (a : Agent) (sref : Sref) (n : BitVec 32)
  | fetchAdd (a : Agent) (sref : Sref) (n : BitVec 32)
  | waitGe (a : Agent) (sref : Sref) (n : BitVec 32)
  | take (a : Agent) (sref : Sref) (n : BitVec 32)
  | read (a : Agent) (sref : Sref)
  | waiterWake
  | waitRetry
  | flitReceive (p : Port) (f : Flit)
  | ackTimeout (p : Port)
  | retrainComplete (p : Port) (full : Bool) (lanes : List (Fin 4 × Bool)) (slow : Bool)
  | portTrainingTimeout (p : Port)
  | laneFailure (sh : Shed) (lane : Fin 18)
  | bootRecordReceive (p : Port) (rec : BootRecord)
  | fabricRead (pkt : Packet)
  | fabricWrite (pkt : Packet)
  | fabricSyncOp (pkt : Packet)
  | readData (pkt : Packet)
  | writeAck (pkt : Packet)
  | syncReply (pkt : Packet)
  | reductionUp (flow : BitVec 16) (c : Contributor) (rstep : Byte) (first : Nat) (bales : List Bale)
  | reductionDown (flow : BitVec 16) (rstep : Byte) (first : Nat) (bales : List Bale)
  | linkManagement (p : Port) (pkt : Packet)
  | takeoverRecord (p : Port) (x s : ModuleId) (sequence : BitVec 32)
  | packetForward (p : Port) (pkt : Packet)
  | routeWaitTimeout (dmod : ModuleId)
  | fabricTimeout (tag : BitVec 16)
  | shedWatchExpiry (sh : Shed)
  | mailboxPost (k : MbSlot) (w : Word)
  | controlWindowWrite (off : BitVec 26) (data : List Byte)
  | dataWindowRead (off : BitVec 36) (size : Nat)
  | dataWindowWrite (off : BitVec 36) (data : List Byte) (ep : Bool)
  | dataWindowReadTimeout (off : BitVec 36)
  | hostLinkChange (width gen : Nat) (flit up : Bool)
  | functionLevelReset
  | hotReset
  | perstAssert
  | perstRelease
  | hostTlpError (kind : TlpError) (tlpType : Byte) (requester : BitVec 16)
  | groomHeartbeat
  | lockstepMismatch (b : Bool)
  | groomTakeover
  | standbyReload (ok : Bool)
  | eventRecordEntry
  | eventVectorDelay
  | identify (k : MbSlot)
  | status (k : MbSlot)
  | distance (k : MbSlot)
  | regRead (k : MbSlot)
  | regWrite (k : MbSlot)
  | imageLoad (k : MbSlot)
  | imageOpen (k : MbSlot)
  | seqStart (k : MbSlot)
  | seqStop (k : MbSlot)
  | taskCreate (k : MbSlot)
  | taskStart (k : MbSlot)
  | taskEnd (k : MbSlot)
  | taskDestroy (k : MbSlot)
  | nameCreate (k : MbSlot)
  | nameDelete (k : MbSlot)
  | move (k : MbSlot)
  | hostwinSet (k : MbSlot)
  | hostwinClear (k : MbSlot)
  | loftMode (k : MbSlot)
  | bands (k : MbSlot)
  | tierMode (k : MbSlot)
  | quota (k : MbSlot)
  | spillAreas (k : MbSlot)
  | setTable (k : MbSlot)
  | restoreList (k : MbSlot)
  | regenerate (k : MbSlot)
  | program (k : MbSlot)
  | securePoint (k : MbSlot)
  | securePointSetRead (set : BitVec 16)
  | restore (k : MbSlot)
  | syncConfig (k : MbSlot)
  | syncFree (k : MbSlot)
  | syncSet (k : MbSlot)
  | fabId (k : MbSlot)
  | admitPeer (k : MbSlot)
  | route (k : MbSlot)
  | flow (k : MbSlot)
  | flowSelect (k : MbSlot)
  | flowFlush (k : MbSlot)
  | port (k : MbSlot)
  | takeover (k : MbSlot)
  | powerState (k : MbSlot)
  | powerCap (k : MbSlot)
  | telemetry (k : MbSlot)
  | debugUnlock (k : MbSlot)
  | scanPrepare (k : MbSlot)
  | debugLock (k : MbSlot)
  | bist (k : MbSlot)
  | bistResults (k : MbSlot)
  | fuseRepair (k : MbSlot)
  | retire (k : MbSlot)
  | fwStage (k : MbSlot)
  | fwActivate (k : MbSlot)
  | attest (k : MbSlot)
  | eventRing (k : MbSlot)
  | eventRead (k : MbSlot)
  | eventFilter (k : MbSlot)
  | inputWarning (mv10 : BitVec 16) (pwrgd : Bool)
  | inputRecovered (mv10 : BitVec 16)
  | powerFail (mv10 : BitVec 16)
  | highInput (mv10 : BitVec 16)
  | overVoltage (mv10 : BitVec 16)
  | inputRestart (mv10 : BitVec 16)
  | brownOut (ma : Nat)
  | thermalLimit (st : Stall) (inForce : Bool) (step : Fin 32)
  | thermalTrip (st : Stall)
  | overCurrent (ma10 : BitVec 16)
  | powerCapInterval (watts : BitVec 16)
  | wakeTimer
  | quiesceTimeout
  | padRelease (w : Word)
  | dynamicAddressAssignment (a : BitVec 7)
  | mctpControl (q : MctpRequest)
  | pldmRequest (q : PldmRequest)
  | wake
  | retain
  | moduleReset (serial : BitVec 32)
  | identifyLed (on : Bool)
  | coldStart (mv10 : BitVec 16) (slotId : Fin 8)
  | stallLoss (st : Stall) (cause : Fin 8)
  | rotation
  | rotationTestDone (pass : Bool) (findings : List Finding)
  | unitAudit (st : Stall) (site : Site) (seen again : StatusWord)
  | svnAdvance
  | identityRebuilt
  | cxlLinkRetrain (p : Fin 8)
  | cxlPortUp (p : Fin 8) (width rate : Nat) (flash : Bool) (frames : BitVec 22)
  | tapInstruction (i : TapInstr)
  | controlWindowRead (off : BitVec 26) (size : Nat)
  | configurationRequest (write : Bool) (off : BitVec 12) (data : BitVec 32)
  | recoveryRestart (mv10 : BitVec 16)
  | flowExtensionRefill (sh : Shed) (flow : BitVec 16) (p : Port)
  | selfTestDone (die : Byte) (findings : List Finding)
  | loftBlockTest (l : Fin 16) (findings : List Finding)
  deriving DecidableEq, Repr

end Sys2Proof
end

