-- ==== Sys2Proof/Config.lean ====
section
/-! DEFINITION. The free values: constants without a body, one for each thing that the spec leaves open while the
block goes on. Nothing can be proved of their values; a statement that mentions one holds for every value.
Each is named in a row of notes/assumptions/. -/

namespace Sys2Proof.Config

/-- The severity of an event for which no chapter states one (00 R14). -/
opaque unstatedSeverity : BitVec 16 → BitVec 8
/-- A choice among things the spec leaves equal, by the count of draws made before it. -/
opaque pick : Nat → Nat
/-- The result of an SFN function where the spec gives an error bound only (04 R130): function, operand, draw. -/
opaque sfnValue : Nat → BitVec 32 → Nat → BitVec 32
/-- A value the spec states nothing about, by what it is of and the draw. -/
opaque unstated : Nat → Nat → Nat
/-- Tokens that a unit's store holds beyond the least that the spec implies (03 R72, R74, R84): twice the type code of
03 R78 for output stores, one more for input stores. -/
opaque storeRoom : Nat → Nat
/-- What an external cryptographic function gives (17 R492): function, input. -/
opaque digest : Nat → List (BitVec 8) → BitVec 256
/-- Whether a signature verifies (17 R492): key, message, signature. -/
opaque verifies : List (BitVec 8) → List (BitVec 8) → List (BitVec 8) → Bool
/-- A signature made with the device identity key (17 R499). -/
opaque signature : Nat → List (BitVec 8) → List (BitVec 8)
/-- What the module's own fuses and flash hold when it leaves the factory (17 R493), by field and index. -/
opaque factory : Nat → Nat → Nat
/-- A measured quantity (13 R407): sensor, draw. -/
opaque telemetry : Nat → Nat → Nat
/-- What a miscorrected codeword decodes to (10 R318, 12 R355): draw. -/
opaque miscorrected : Nat → Nat

end Sys2Proof.Config
end

