-- ==== Sys2Proof/Machine/State.lean ====
section
/-! DEFINITION. The state of the block as plain data: registers, storage and every queue, buffer and record that
the spec gives the T40, the queue of waiting commands, and the state after cold start. -/

namespace Sys2Proof.Machine

/-- The block never stops with a fault: every fault the spec describes is an effect on the state. No constructor. -/
inductive Fault where
  deriving DecidableEq, Repr

/-- Refusals. -/
inductive Refusal where
  /-- A row without a meaning yet; raised by an arm of `exec` only. Safe: the model stops. -/
  | notModelled (mnemonic : String)
  deriving DecidableEq, Repr

/-- Sparse data by key, keys rising, no entry equal to the default of its key. -/
abbrev Map (α : Type) := List (Nat × α)

/-! ### Events and outputs -/

/-- An event record (00 R14). -/
structure Event where
  source : BitVec 16
  code : Code
  cycles : BitVec 48 := 0
  seq : BitVec 32 := 0
  arg0 : BitVec 48 := 0
  arg1 : BitVec 48 := 0
  severity : BitVec 8
  manual : Bool := false
  lost : Bool := false
  deriving DecidableEq, Repr

/-- Status of a PCIe completion (13 R394, R411; 15 R449). -/
inductive CplStatus where
  | success | unsupported | abort | retry
  deriving DecidableEq, Repr

/-- What the block sends outside, oldest first in `State.outbox`. -/
inductive Out where
  /-- an MSI-X message of a vector, as its table entry says (13 R402) -/
  | msix (vector address data : Nat)
  /-- a write to host memory at a bus address, with No Snoop set or not (13 R396, R397) -/
  | hostWrite (bus : Nat) (noSnoop : Bool) (data : List Byte)
  /-- a completion to the host -/
  | completion (st : CplStatus) (ep : Bool) (data : List Byte)
  /-- a packet sent through a link port, and the boot record with its chain element (12 R367) -/
  | packet (port : Port) (pkt : Packet)
  | bootRecord (port : Port) (r : BootRecord)
  /-- flits sent again from a sequence number on, a retrain begun, a port gone down (12 R357) -/
  | portReplay (port : Port) (fromSeq : Nat)
  | portRetrain (port : Port)
  | linkDown (port : Port)
  /-- a reply on the management bus (15 R453) -/
  | busReply (data : List Byte)
  /-- the instruction that the TAP has selected, and the IDCODE as it may be shifted out (15 R448) -/
  | tap (i : TapInstr)
  | tapIdcode (v : BitVec 32)
  /-- the reply of an operation or an access to its sender (11 R330, 01 R36) -/
  | reply (a : Agent) (status : Code) (result : BitVec 32)
  | readReply (a : Agent) (status : Code) (poison : Bool) (data : List Byte)
  /-- AER reports (13 R411) -/
  | aerFatal
  | aerUnexpected
  deriving DecidableEq, Repr

/-! ### The yard (02, 03, 04) -/

/-- A match entry (03 R74): a tag and the tokens held for it in arrival order. `written` counts those that a MEM
has already stored (02 R50), `ready` is the arrival that made the entry complete. -/
structure MatchEntry where
  tag : BitVec 16
  toks : List Token
  written : Nat := 0
  ready : Nat := 0
  deriving DecidableEq, Repr

/-- An open steering iteration (03 R82–R86). -/
structure SteerIter where
  slot : Slot
  tag : BitVec 16
  settled : Nat := 0
  sels : List Byte := []
  ctl : Nat := 0
  /-- which of the control tokens were poisoned -/
  bad : List Bool := []
  emitted : List Nat := []
  deriving DecidableEq, Repr

/-- A queue's extension (03 R96, R97): the blocks granted, by number in the region's spill area; the records that hold
tokens, head first, by number in the area, each with what is none of its tokens' headers (marks and bounds); and what the barrow's staging
memory holds: tokens of the head record not yet passed on, and tokens not yet written as a whole record. -/
structure Extension where
  blocks : List Nat
  used : List (Nat × List (Bool × BitVec 512)) := []
  head : List Token := []
  tail : List Token := []
  deriving DecidableEq, Repr

/-- What a MAT latches of an instruction at issue (04 R112, R118). Bale size 0 means unbaled. -/
structure MatIssue where
  instr : BitVec 512
  m : Nat
  n : Nat
  k : Nat
  bigM : Nat
  bigN : Nat
  bigK : Nat
  outer : Nat
  fa : Nat
  fb : Nat
  fc : Nat
  /-- operands whose tensors the ledger selects: their tokens say the format (05 R165) -/
  lselA : Bool
  lselB : Bool
  baleA : Nat
  baleB : Nat
  baleC : Nat
  ueA : Bool
  ueB : Bool
  ueC : Bool
  /-- C's bale axis: true when it runs along the columns of the stored tile -/
  inner : Bool
  lselC : Bool
  layer : Nat
  stats : Bool
  brec : Addr
  deriving DecidableEq, Repr

/-- A MAT's sequencer position in one context (04 R113, R117). -/
structure MatPos where
  tag : BitVec 16
  instr : Nat := 0
  tile : Nat := 0
  step : Nat := 0
  issue : Option MatIssue := none
  void : Bool := false
  poison : Bool := false
  /-- a wait under way that MAT_STARVE or MAT_DRAINW counts: whether for a drain, and the island's count at its start -/
  wait : Option (Bool × Nat) := none
  deriving DecidableEq, Repr

/-- The operand set that a half of a MAT's operand buffer and scale store holds, or is being loaded with (04 R105, R115,
R117): its context and tag, and the order of its claim. -/
structure MatHalf where
  ctx : Slot
  tag : BitVec 16
  since : Nat
  deriving DecidableEq, Repr

/-- A line of a contribution held in a MEM's reduction stage (05 R156). One that was moved to the spill area has its
data there: the record's number and the slot in the record. -/
structure Staged where
  port : Bool
  slot : Slot
  tag : BitVec 16
  inp : Fin 8
  index : Nat
  line : Nat
  data : BitVec 512
  poison : Bool
  void : Bool
  sref : Option Sref := none
  place : Option (Nat × Nat) := none
  deriving DecidableEq, Repr

/-- A unit of the yard. Queues are keyed by direction × 8 + lane × 2 + priority, inputs and outputs by
slot × 8 + index. A configuration is the 512 B record of 03 R77. -/
structure UnitSt where
  active : Slot := 0
  pendSwitch : Option Slot := none
  cfg : Map (BitVec 4096) := []
  queues : Map (List Token) := []
  exts : Map Extension := []
  inputs : Map (List MatchEntry) := []
  outs : Map (List Token) := []
  steer : List SteerIter := []
  staged : List Staged := []
  /-- queues whose head has been recorded in a fault event, and those of them whose head has no route: their lanes
  halt at the unit (02 R67) -/
  faulted : List Nat := []
  routeless : List Nat := []
  /-- lane served last, by output × 2 + priority -/
  rr : Map Nat := []
  bp : Map Nat := []
  fires : Map Nat := []
  drops : Map Nat := []
  voids : Map Nat := []
  disc : Map Nat := []
  /-- tags released to a source unit, by slot, and the last tag it originated -/
  released : Map (List (BitVec 16)) := []
  lastTag : Map (BitVec 16) := []
  mat : Map MatPos := []
  /-- MAT: what the two halves of the operand buffer hold, and the scale store: 64 lines of 64 B a half, A's from 0 and
  B's from 32 (04 R105) -/
  halves : Map MatHalf := []
  scales : Map (BitVec 512) := []
  /-- tokens accepted so far: the order in which match entries became ready (03 R73) -/
  arrivals : Nat := 0
  /-- sequences of a feed unit that a stop identifier has ended (08 R243, R248) -/
  stopped : List Nat := []
  /-- sequences that a feed unit has fed under the RUN entry under way, and those that a stall's loss has ended, each with the
  tag fed last (08 R253) -/
  fed : Map (BitVec 16) := []
  lost : Map (BitVec 16) := []
  deriving DecidableEq, Repr

/-- A crossing (02 R46, R67): replays of the token at hand, whether it failed, and which spare serves it. -/
structure Crossing where
  replays : Nat := 0
  failed : Bool := false
  spare : Option (Fin 2) := none
  deriving DecidableEq, Repr

/-- The limits in force on an island (02 R53, 14 R436). -/
structure IslLimit where
  vf : Fin 32 := 31
  droop : Bool := false
  thermal : Option (Fin 32) := none
  current : Fin 32 := 31
  module : Fin 32 := 31
  cause : Fin 7 := 0
  /-- cycles × 160 at `since`, for the island's cycle count (02 R54) -/
  cyc : Nat := 0
  since : Nat := 0
  deriving DecidableEq, Repr

/-- A stall's condition (02 R62, 14 R416). -/
inductive StallState where
  | inService | relay | failed | shifting
  deriving DecidableEq, Repr

structure Yard where
  units : Map UnitSt := []
  crossings : Map Crossing := []
  /-- tokens at the yard ports of mangers (0 to 3) and sheds (4 to 7) -/
  ports : Map (List Token) := []
  /-- tokens of each kind that a manger's port has taken in the round at hand, by port × 2, plus 1 for relayed ones
  (02 R60) -/
  grants : Map Nat := []
  /-- crossing served last at a shed's port, by port (02 R60) -/
  shedTurn : Map Nat := []
  /-- when the stalls last came up together: at a cold start or an exit from HUSH or DORM (02 R54) -/
  upAt : Nat := 0
  /-- physical column of each row that carries no position (01 R34) -/
  outCol : List (Fin 8) := [7, 7, 7, 7]
  /-- stalls declared failed, and stalls in relay because their row has lost its continuity (16 R467) -/
  failed : List Stall := []
  relayed : List Stall := []
  mapver : BitVec 16 := 0
  limits : Map IslLimit := []
  /-- time of a region's last firing or of its watch's re-arming (03 R94) -/
  lastFire : Map Nat := []
  /-- regions that the watch holds halted, with the status of the halt (03 R98), and the stalls of such a region whose
  active slot has been loaded since, by stall × 64 + region -/
  halts : Map Nat := []
  reloaded : List Nat := []
  deriving DecidableEq, Repr

/-! ### Sequencers and claimers (06) -/

inductive SeqPhase where
  | idle | waiting | running | draining | mapping | stopped | halted
  deriving DecidableEq, Repr

/-- A region's sequencer (06 R182–R189); its registers stand in `State.regs`. -/
structure SeqSt where
  phase : SeqPhase := .idle
  /-- the current entry, none until it has been read -/
  entry : Option (BitVec 256) := none
  metA : Bool := false
  metB : Bool := false
  /-- whether done has been registered, and met -/
  asked : Bool := false
  metDone : Bool := false
  waitEvent : Bool := false
  /-- when the wait under way began, and up to when its cycles are counted -/
  since : Nat := 0
  counted : Nat := 0
  stopReq : Bool := false
  /-- the region fills under the current entry -/
  held : Bool := false
  /-- the slot that the region left for its fill slot -/
  back : Option Slot := none
  /-- the entry read ahead: its index, and its words where they could be read (06 R185 step 1) -/
  ahead : Option (Nat × Option Nat) := none
  /-- the slot that the last RUN switched to, and the tallies that the RUN entries of that slot have taken: while one of them
  is a pin map's rtally, a rollout batch runs (08 R251, R252) -/
  batch : Option (Slot × List Sref) := none
  /-- stalls whose MAP load was refused as occupied, and when the MAP began -/
  mapLeft : List Stall := []
  mapSince : Nat := 0
  deriving DecidableEq, Repr

/-- A claim of a claimer (06 R193). -/
structure Claim where
  pool : Addr
  index : BitVec 32
  /-- the MAT site that runs the tile, and the tag under which it gets it -/
  site : Site
  tag : BitVec 16
  /-- the claimer's TAKE for this claim has been met -/
  met : Bool := false
  deriving DecidableEq, Repr

/-- A claimer: whether it has read its list in this step, the pools it has not quit, and its claims, oldest first. -/
structure Claimer where
  opened : Bool := false
  pools : List Addr := []
  claims : List Claim := []
  nextTag : BitVec 16 := 0
  deriving DecidableEq, Repr

/-! ### Ledger and update engines (05, 07) -/

/-- A statistics accumulator (05 R162): the counts of R159 for one layer. -/
structure StatAcc where
  layer : Nat
  /-- island of the conversion that took it, the sub-source of its events (05 R177) -/
  island : Island := 0
  step : Nat
  used : Nat
  elems : Nat := 0
  zeros : Nat := 0
  uf4 : Nat := 0
  uf5 : Nat := 0
  st8 : Nat := 0
  sat : Nat := 0
  zbales : Nat := 0
  hist : Map Nat := []
  deriving DecidableEq, Repr

/-- Why a shard is parked (07 R220, R231; 10 R320; 16 R472). -/
inductive ParkReason where
  | norm | trial | early | point | suspect
  deriving DecidableEq, Repr

/-- A shard's update on an engine (07 R224, R228). -/
structure UpdRun where
  set : BitVec 16
  shard : BitVec 24
  step : Nat
  /-- parts of the pre-pass whose exchange is over: 1 the norm part, 2 the trial part -/
  stage : Nat := 0
  /-- lr, clip factor and journal have been written (step 4) -/
  begun : Bool := false
  cursor : Nat := 0
  weightOnly : Bool := false
  lr : F32 := 0
  clipf : F32 := 0
  deriving DecidableEq, Repr

structure Parked where
  run : UpdRun
  reason : ParkReason
  released : Bool := false
  deriving DecidableEq, Repr

/-- An update engine (07 R222): its ring, the update it runs, its parked shards, the names whose moves it awaits, the
shards whose fetch signals are not all acknowledged. -/
structure EngSt where
  ring : List Word := []
  run : Option UpdRun := none
  parked : List Parked := []
  moves : List (BitVec 27) := []
  sigWait : List (BitVec 16 × BitVec 24) := []
  deriving DecidableEq, Repr

/-- A set's norm exchange, or the global norm's (07 R220, R221): which part, the shards done, the sums, whether the cells
were written and MG0's TAKE met, and the clip factor it fixed. -/
structure NormSt where
  step : Nat
  part : ParkReason
  done : List (BitVec 24) := []
  gsq : F32 := 0
  dsq : F32 := 0
  wsq : F32 := 0
  sent : Bool := false
  met : Bool := false
  clipf : Option F32 := none
  deriving DecidableEq, Repr

/-- A fetch held by a fetch barrow (07 R225), or a refresh (07 R226): the step it awaits, whether its TAKE is met, the
owner's journal as read, and what it has read of the owner's copies. -/
structure Fetch where
  set : BitVec 16
  shard : BitVec 24
  step : Option Nat := none
  met : Bool := false
  refresh : Bool := false
  journal : Option (BitVec 512) := none
  asked : Nat := 0
  data : List (Nat × List Byte × Bool) := []
  deriving DecidableEq, Repr

/-- Staging allocated for a shard's reduced gradient (07 R232). -/
structure Staging where
  set : BitVec 16
  shard : BitVec 24
  addr : Addr
  segs : Nat
  spill : Bool
  bsz : Nat := 32
  filled : Nat := 0
  tstep : BitVec 16 := 0
  deriving DecidableEq, Repr

structure Updates where
  engines : Map EngSt := []
  norms : Map NormSt := []
  /-- the global norm's exchange, and the step whose sum is open (07 R221) -/
  gn : Option NormSt := none
  gnStep : Nat := 0
  /-- sums closed while an exchange runs, which are exchanged after it -/
  gnNext : List NormSt := []
  fetches : Map (List Fetch) := []
  /-- key of the shard each fetch barrow registered last, and the step last fetched of each shard -/
  fetchPos : Map Nat := []
  fetched : Map Nat := []
  staging : List Staging := []
  /-- gradients that wait for staging: set, shard, low bits of the step (07 R232, R235) -/
  stgWait : List (BitVec 16 × BitVec 24 × BitVec 16) := []
  /-- triggers of Ivain, and of engines that failed, that wait for room in the ring of an engine -/
  trigs : List (Fin 16 × Word) := []
  /-- names moved up and pinned for the update of a shard (07 R233) -/
  upPins : List (BitVec 16 × BitVec 24 × BitVec 27) := []
  /-- poisoned bales that the update under way of a shard has met, by the shard's key (07 R235) -/
  badBales : Map Nat := []
  /-- adjustments of a set's bale records in the step at hand: raised, lowered, invalidated (05 R177) -/
  adjusts : Map (Nat × Nat × Nat) := []
  /-- step of the ratio a layer record holds (05 R171) -/
  ratios : Map Nat := []
  /-- shards whose master or state is suspect (10 R320) -/
  suspects : List (BitVec 16 × BitVec 24) := []
  /-- pin maps of which an entry has been refilled -/
  pinMaps : List Addr := []
  /-- pin-map entries whose refill waits on a gate: map, entry, whether the gate has released (08 R245) -/
  pins : List (Addr × Nat × Bool) := []
  deriving DecidableEq, Repr

/-! ### Barrows (09) -/

/-- A tensor descriptor with its extension (09 R255, R258). Sizes and strides are listed for six dimensions; stride 0
of dimension 0 is 1. -/
structure Tensor where
  addr : Nat
  rank : Nat
  fmt : Nat
  dist : Bool
  bale : Nat
  baxis : Nat
  sfmt : Nat
  sat : Bool
  size : List Nat
  stride : List Int
  ppol : Nat
  ipol : Nat
  lsel : Bool
  hasExt : Bool
  saddr : Nat := 0
  brec : Nat := 0
  layer : Nat := 0
  stats : Bool := false
  sstride : List Int := []
  /-- added to every owner-table entry's addr (10 R313) -/
  boff : Nat := 0
  deriving DecidableEq, Repr

/-- What a transfer reads and writes, as checked when it started (09 R261, R267). -/
structure Plan where
  src : Option Tensor := none
  dst : Option Tensor := none
  idx : Option Tensor := none
  deriving DecidableEq, Repr

/-- A barrow's share of a window fill: the buffer offset, added to every owner-table entry's addr, the region and the
entry (10 R313, R314). -/
structure WinFill where
  boff : Nat
  region : Region
  entry : Nat
  deriving DecidableEq, Repr

/-- A transfer in progress on a barrow: its descriptor, the firing it belongs to (none for a queue
descriptor), and its tiles (09 R271). -/
structure BrwJob where
  desc : BitVec 512
  addr : Addr
  firing : Option (Slot × BitVec 16)
  rest : List (Option (BitVec 512) × Addr) := []
  waitMet : Bool := false
  waitSince : Nat := 0
  /-- its tensors, none until it has started -/
  plan : Option Plan := none
  /-- the indices it uses, each with whether its token was poisoned (09 R274) -/
  indices : List (Int × Bool) := []
  /-- first of the free choices of what remains where writes meet (09 R257, R274) -/
  draw : Nat := 0
  /-- the issue checks and the reading of the indices are over: its tiles are known -/
  started : Bool := false
  tiles : Nat := 0
  issued : Nat := 0
  accepted : Nat := 0
  /-- since when it stands at its lead limit -/
  leadSince : Option Nat := none
  prepass : Option (List Byte) := none
  agreed : Option (List Byte) := none
  /-- poisoned 64 B it has read, and contributions it has dropped (09 R282, R283) -/
  badLines : List Nat := []
  dropped : Nat := 0
  /-- lines fetched from other modules: module, address, bytes, poison -/
  remote : List (ModuleId × Nat × List Byte × Bool) := []
  /-- tags of its writes to other modules -/
  writes : List (BitVec 16) := []
  /-- status of the first access of the transfer that was refused -/
  failed : BitVec 16 := 0
  /-- the window fill it is a share of -/
  fill : Option WinFill := none
  /-- the failed barrow of the manger whose queue it comes from, none for the barrow's own (09 R288) -/
  queue : Option (Fin 8) := none
  deriving DecidableEq, Repr

structure BrwSt where
  /-- descriptors fetched and not yet run; none where the read failed -/
  fetched : List (Option (BitVec 512) × Addr) := []
  /-- its shares of window fills: descriptor, where it lies, and which fill (10 R314) -/
  fills : List (BitVec 512 × Addr × WinFill) := []
  job : Option BrwJob := none
  preempted : Option BrwJob := none
  /-- descriptors of the firing's block whose last read has been issued, oldest first (09 R269) -/
  landing : List BrwJob := []
  /-- the queue has stopped, also while firings run (09 R285) -/
  stopped : Bool := false
  stopReq : Bool := false
  /-- failed barrows of the manger whose queues it serves, each with whether the descriptor at its head has had its wait met;
  and the queue that the fetched descriptors come from (09 R288) -/
  adopted : List (Fin 8 × Bool) := []
  turn : Option (Fin 8) := none
  /-- what the 32 banks of the staging memory hold of the sub-tiles transposed last, by bank × 512 + word (09 R272) -/
  banks : Map (BitVec 40) := []
  deriving DecidableEq, Repr

/-! ### Homes and lofts (10) -/

/-- A home-table record (10 R302). -/
structure HomeRec where
  tier : Fin 6
  move : Fin 3 := 0
  pin : Bool := false
  prot : Fin 4 := 0
  suspect : Bool := false
  policy : Bool := false
  task : BitVec 16
  frame : Nat
  age : BitVec 16 := 0
  dtier : Fin 6 := 0
  dframe : Nat := 0
  deriving DecidableEq, Repr

/-- A move in progress (10 R305). -/
structure MoveJob where
  name : Nat
  owner : Fin 4
  pinAfter : Option Bool := none
  done : Sref := 0
  hasDone : Bool := false
  forEngine : Option (Fin 16) := none
  /-- the MOVE command it belongs to (13 R407) -/
  slot : Option MbSlot := none
  /-- the old frame is retired, not freed (10 R318, R319) -/
  retire : Bool := false
  /-- writes held at their issuers until cut-over (10 R306) -/
  held : List Access := []
  deriving DecidableEq, Repr

/-- A window controller: whether it has registered the wait of the entry at hand, and whether it was met. -/
structure WinSt where
  /-- entries whose fill has been started or that were reused in this pass -/
  issued : Nat := 0
  asked : Bool := false
  met : Bool := false
  /-- entries being filled, each with how many barrows still work on it -/
  left : Map Nat := []
  deriving DecidableEq, Repr

/-- A host-window entry (13 R396). -/
structure HostWin where
  pool : Bool
  ro : Bool
  ns : Bool
  haddr : BitVec 43
  task : BitVec 16
  deriving DecidableEq, Repr

structure Homes where
  table : Map HomeRec := []
  moves : List MoveJob := []
  /-- names waiting for a move slot (10 R305: at most four a manger) -/
  moveQueue : List (MoveJob × Fin 6) := []
  /-- tier-1 frames of the host-tier poison bitmaps, by group of 512 entries (10 R298), and frames retired
  (10 R307, R319) -/
  bitmaps : Map Nat := []
  retired : List (Nat × Nat) := []
  hostwin : Map HostWin := []
  /-- the segment caches (10 R293), most recent first -/
  caches : List (Agent × List Nat) := []
  /-- corrected lines of the current patrol pass, by interface and row, and the rows hit of each column (10 R297) -/
  rowCorr : Map Nat := []
  colRows : List (Nat × Nat) := []
  /-- mangers whose TAKE on the ring tally has been met while the slot at the ring's head is not yet written -/
  ringMet : List Mg := []
  /-- window controllers, by region (10 R314) -/
  windows : Map WinSt := []
  /-- 64 B lines of lost blocks that have been rewritten whole in their substitutes (10 R318, R319), by place -/
  lostClean : Map Unit := []
  /-- time of the last access to a loft awake in TRIM (14 R419) -/
  awake : Map Nat := []
  restoreLists : Map (List ModuleId) := []
  cxlDownSince : Map Nat := []
  cxlWasUp : List Nat := []
  /-- uncorrectable and corrected line times for 16 R470 -/
  uncTimes : Map (List Nat) := []
  held : List Access := []
  areas : List (BitVec 16 × Nat × Nat × Nat) := []
  deriving DecidableEq, Repr

/-! ### Gates and tallies (11) -/

inductive ObjKind where
  | free | gate | tally
  deriving DecidableEq, Repr

inductive WaitKind where
  | gate | ge | take
  deriving DecidableEq, Repr

structure Waiter where
  agent : Agent
  kind : WaitKind
  n : BitVec 32 := 0
  deriving DecidableEq, Repr

/-- A sync object (11 R327–R329, R339). -/
structure SyncObj where
  kind : ObjKind := .free
  latch : Bool := false
  open0 : Bool := false
  count : BitVec 16 := 0
  task : BitVec 16 := 0
  value : BitVec 32 := 0
  arrivals : BitVec 16 := 0
  gen : Bool := false
  isOpen : Bool := false
  rel : BitVec 16 := 0
  lost : Bool := false
  manual : Bool := false
  /-- the initial value it was configured with, for a rebuild (11 R347) -/
  init : BitVec 32 := 0
  own : List Waiter := []
  ovf : List Waiter := []
  deriving DecidableEq, Repr

/-- A release token on its way (11 R341). -/
structure Wake where
  agent : Agent
  status : Code := 0
  result : BitVec 32 := 0
  deriving DecidableEq, Repr

/-- A refused wait held in its agent (11 R340). -/
structure Retry where
  agent : Agent
  kind : WaitKind
  sref : Sref
  n : BitVec 32
  interval : BitVec 8
  deriving DecidableEq, Repr

/-- What a task-start record keeps of an object (11 R345), by its reference: whether the task found it so at its start,
or configured it later. -/
structure ObjRecord where
  sref : Sref
  found : Bool
  kind : ObjKind
  value : BitVec 32
  arrivals : BitVec 16
  isOpen : Bool
  latch : Bool
  open0 : Bool
  count : BitVec 16
  deriving DecidableEq, Repr

structure SyncSt where
  /-- objects by physical stall × 8,192 + index -/
  objs : Map SyncObj := []
  wakes : List Wake := []
  retries : List Retry := []
  tasks : List (BitVec 16) := []
  started : List (BitVec 16 × List ObjRecord) := []
  /-- time of the last wait-refused event of a stall (11 R340) -/
  refusedAt : Map Nat := []
  deriving DecidableEq, Repr

/-! ### The fabric (12) -/

/-- A reduction-up packet in a receive queue or in an extension: its bales not yet accepted, and the blocks it holds. -/
structure RedPkt where
  flow : BitVec 16
  rstep : Byte
  first : Nat
  bales : List Bale
  blocks : Nat
  deriving DecidableEq, Repr

/-- A flit body that waits for a credit of its channel, with the packet whose last body it is. -/
structure TxBody where
  vc : Fin 4
  body : BitVec 2048
  pkt : Option Packet
  deriving DecidableEq, Repr

/-- A link port's link-level state (12 R357, R358, R362, R367, R380). -/
structure PortSt where
  txSeq : BitVec 11 := 0
  acked : BitVec 11 := 0x7FF
  /-- flits sent and not acknowledged, oldest first -/
  replay : List Flit := []
  rxLast : BitVec 11 := 0x7FF
  nak : Bool := false
  /-- credits this side holds, and credits the peer holds, by channel -/
  credits : Map Nat := []
  granted : Map Nat := []
  /-- flits that have left a receive queue and whose credits, returned in fours, are not yet returned, by channel -/
  owed : Map Nat := []
  /-- bodies that wait for credits, and packets that wait for a block of the staging (12 R364) -/
  txq : List TxBody := []
  hold : List Packet := []
  txMoved : Nat := 0
  /-- bytes of a packet not yet whole, and the blocks they hold, by channel -/
  parse : Map (List Byte) := []
  parseBlocks : Map Nat := []
  /-- packets received, with the blocks they hold -/
  queue : List (Packet × Nat) := []
  /-- reduction packets that wait for a window -/
  red : List RedPkt := []
  redMoved : Nat := 0
  /-- the state before a retrain, 0 on a first training -/
  was : Nat := 0
  /-- the lane map learnt in the link-control exchange: for each lane of the port in the peer's order, the lane that carries it
  here and whether its polarity is inverted (15 R442) -/
  laneMap : List (Fin 4 × Bool) := []
  /-- the boot record accepted from the peer, and the chain element last accepted -/
  bootOk : Bool := false
  bootDigest : BitVec 256 := 0
  chainK : Nat := 0
  chainC : BitVec 256 := 0
  violations : List Nat := []
  lastMalformed : Option Nat := none
  dropped : Nat := 0
  deriving DecidableEq, Repr

/-- A request waiting for its response (12 R361, R372). -/
structure Outstanding where
  tag : BitVec 16
  agent : Agent
  kind : BitVec 4
  addr : Addr
  size : Nat
  dmod : ModuleId
  deriving DecidableEq, Repr

/-- A flow element (12 R375): contributions held in the window, the accepted set of the step (16 R466), the extension
(12 R378), and local contributions that wait. -/
structure FlowEl where
  window : List (Nat × Contributor × Bale) := []
  delivered : Nat := 0
  seen : List (Nat × Contributor) := []
  ext : List (Port × RedPkt) := []
  extBlocks : Nat := 0
  waiting : List (Contributor × BitVec 8 × Nat × List Bale) := []
  halted : Bool := false
  dropped : Nat := 0
  prepass : List (Nat × Contributor × BitVec 8) := []
  deriving DecidableEq, Repr

structure Fabric where
  ports : Map PortSt := []
  outstanding : List Outstanding := []
  nextTag : BitVec 16 := 0
  flows : Map FlowEl := []
  admission : List (BitVec 256 × ModuleId) := []
  /-- takeover records received: X, S and the sequence -/
  takeovers : List Nat := []
  takeoverSeq : BitVec 32 := 0
  /-- packets waiting for a port of their entry (12 R370) -/
  waiting : List (Packet × Nat) := []
  /-- failed lanes, as shed × 18 + lane, each with the spare that serves it, 2 where none does -/
  failedLanes : List (Nat × Nat) := []
  /-- discoveries made since the chain was drawn (12 R367) -/
  discoveries : Nat := 0
  chainDrawn : Nat := 0
  /-- the one-time index that signed the boot record, and the image it measures (12 R367) -/
  bootIndex : Nat := 0
  bootMeasure : BitVec 256 := 0
  linkRecords : List (Port × List Byte) := []
  /-- most blocks of each shed's pool in use since reset (12 R383) -/
  poolPeak : Map Nat := []
  deriving DecidableEq, Repr

/-! ### Host port, mailboxes and events (13) -/

/-- A mailbox slot (13 R398). -/
structure MbSt where
  owner : Word := 0
  cmd : Word := 0
  res : Word := 0
  cookie : Word := 0
  data : Map Byte := []
  /-- begun when a reset came: its completion raises no interrupt (13 R390) -/
  quiet : Bool := false
  /-- progress of a class C command (13 R401): pieces committed, and the status that ends it -/
  count : Nat := 0
  stat : Nat := 0
  deriving DecidableEq, Repr

/-- The copy ring of the event log in host memory (13 R403). -/
structure RingCfg where
  entry : Nat
  records : Nat
  vector : Nat
  deriving DecidableEq, Repr

structure HostPort where
  slots : Map MbSt := []
  /-- slots posted and not begun, in the order their posts arrived (13 R400) -/
  posted : List MbSlot := []
  msix : Map (BitVec 128) := []
  pba : Word := 0
  evq : List Event := []
  dropped : Bool := false
  log : List Event := []
  nextSeq : BitVec 32 := 0
  evSeq : BitVec 32 := 0
  evLost : BitVec 32 := 0
  /-- a record was dropped at the log itself (14 R422) -/
  logDropped : Bool := false
  ring : Option RingCfg := none
  filter : BitVec 8 := 0
  lastRaise : Option Nat := none
  deferred : Bool := false
  heartbeat : BitVec 48 := 0
  /-- last access event of the mailboxes, and of the rest of the control window (13 R393) -/
  accessMb : Option Nat := none
  accessCw : Option Nat := none
  highAt : Option Nat := none
  ready : Bool := true
  cfgReady : Bool := true
  cfgFrom : Nat := 0
  inReset : Bool := false
  cfgSpace : Map (BitVec 32) := []
  /-- data-window accesses waiting for the fabric or for a move (13 R395) -/
  heldWrites : List (ModuleId × Access) := []
  pendingReads : List (BitVec 36 × Addr) := []
  deriving DecidableEq, Repr

/-- Where a groom stands (13 R408). -/
inductive GroomState where
  | active | standby | out | failed
  deriving DecidableEq, Repr

structure Grooms where
  a : GroomState := .active
  b : GroomState := .standby
  failsA : Nat := 0
  failsB : Nat := 0
  takeover : Bool := false
  journal : List MbSlot := []
  deriving DecidableEq, Repr

/-! ### Power, start-up and management bus (14, 15) -/

/-- An entry in progress (14 R427). -/
structure PwrEntry where
  slot : MbSlot
  target : Fin 4
  mask : Word
  seqs : List Region
  queues : List BrwId
  engines : List (Fin 16)
  /-- the flow sets selected before the request took the module out of its flows -/
  fsel : List Word
  /-- a wake met since the last abort point: 0 I3C, 1 PERST#, 2 timer, 3 command -/
  wake : Option (Fin 4) := none
  deriving DecidableEq, Repr

structure Power where
  /-- whether the module's rails are on (14 R420: OFF otherwise) -/
  on : Bool := true
  entry : Option PwrEntry := none
  warnSince : Option Nat := none
  recoverSince : Option Nat := none
  lowest : BitVec 16 := 0
  pwrgd : Bool := true
  tripped : Bool := false
  bootFail : Bool := false
  hushRecords : Nat := 0
  dynAddr : Option (BitVec 7) := none
  eid : Byte := 0
  tapInstr : TapInstr := .idcode
  perst : Bool := false
  cause : Fin 6 := 0
  /-- the SLOT_ID pins as last sampled -/
  strap : Fin 8 := 0
  tested : Bool := false
  /-- when each die's domain came up, for its 1 GHz count (00 R17): stalls 0 to 31, mangers 32 to 35, sheds 36 to 39,
  the always-on island 40 -/
  dieUp : Map Nat := []
  deriving DecidableEq, Repr

/-! ### Continuity and self-test (16) -/

/-- A repair record (16 R487). -/
structure Repair where
  kind : Fin 11
  die : BitVec 8
  fused : Bool
  loc : BitVec 48
  held : BitVec 8 := 0
  deriving DecidableEq, Repr

/-- A test running on a die (16 R484): kind, and the slot to complete when it ends. -/
structure TestRun where
  die : BitVec 8
  kind : Fin 4
  slot : Option MbSlot
  inService : Bool
  /-- blocks of an in-service loft test, and whether the test runs as a rotation -/
  blocks : Nat := 0
  rotated : Bool := false
  deriving DecidableEq, Repr

structure Replay where
  regions : List Region
  started : Nat
  dups : Nat := 0
  deriving DecidableEq, Repr

/-- A rotation in progress (16 R468). -/
structure Rotation where
  row : Fin 4
  leaving : Stall
  deriving DecidableEq, Repr

/-- A section entry of a secure-point image (16 R473). -/
structure Section where
  kind : Nat
  set : BitVec 16
  off : Nat
  len : Nat
  dig : BitVec 256
  deriving DecidableEq, Repr

/-- A secure point, being taken or kept (16 R471–R474): identifier, step, the module and the address that hold its image. -/
structure Point where
  id : Word
  step : Nat := 0
  module : ModuleId
  target : Nat
  slot : Option MbSlot := none
  /-- whether the step is fixed, the sets not yet read, and the steps at which sets stood at phase 3 when it began -/
  fixed : Bool := false
  setsLeft : List (BitVec 16) := []
  stood : List (BitVec 16 × Nat) := []
  nsec : Nat := 0
  sections : List Section := []
  /-- where the next section goes, and whether the complete header has been written -/
  next : Nat := 0
  closed : Bool := false
  /-- status of the first write that was refused -/
  failed : BitVec 16 := 0
  deriving DecidableEq, Repr

/-- A RESTORE that reads its image from another module (16 R475): the bytes asked for, and those that came. -/
structure RestoreRun where
  slot : MbSlot
  id : Word
  module : ModuleId
  base : Nat
  asked : Nat
  got : List (Nat × List Byte) := []
  failed : Bool := false
  deriving DecidableEq, Repr

structure Service where
  repairs : List Repair := []
  /-- load records by (position × 64 + region) × 4 + slot (16 R463) -/
  loads : Map Addr := []
  fuses : Map Nat := []
  replay : Option Replay := none
  rotation : Option Rotation := none
  /-- hours from `rotationSet` to the next rotation -/
  rotationDue : Nat := 42
  rotationSet : Nat := 0
  nextRow : Fin 4 := 0
  tests : List TestRun := []
  results : Map (List Finding) := []
  pending : Bool := false
  contLost : Bool := false
  point : Option Point := none
  points : List Point := []
  restore : Option RestoreRun := none
  pointsTaken : Nat := 0
  /-- a partition failed that only the module path serves (16 R482) -/
  due : Bool := false
  /-- time of each die's last complete logic and memory test -/
  testedAt : Map Nat := []
  orderly : Bool := true
  /-- dies to be tested at their first leaving of service, after a stop that was not orderly -/
  untested : List (BitVec 8) := []
  deriving DecidableEq, Repr

/-! ### Security (17) -/

/-- A firmware image slot (17 R494): what of its header the module reports. -/
structure Image where
  version : BitVec 32
  svn : BitVec 8
  digest : BitVec 256
  deriving DecidableEq, Repr

structure Security where
  slot0 : Option Image := none
  slot1 : Option Image := none
  running : Bool := false
  staged : Option Bool := none
  pref : Bool := false
  latch : Option Bool := none
  svn : Nat := 0
  resv : Nat := 1
  next : Nat := 0
  signed : Nat := 0
  tokenSeq : Option (BitVec 32) := none
  /-- number of the reservation burned at the start: the boot counter (17 R500) -/
  boot : Nat := 0
  scope1 : Bool := false
  /-- unlock tokens accepted since the start, in order (17 R503) -/
  tokens : List (List Byte) := []
  /-- addresses of the last reports, oldest first (17 R502) -/
  reports : List Addr := []
  runSince : Nat := 0
  deriving DecidableEq, Repr

/-! ### The whole block -/

structure State where
  /-- commands that wait, first in, first out -/
  pending : List Instr := []
  /-- the model's clock, ns since the start -/
  time : Nat := 0
  /-- free values drawn so far (the model's own field) -/
  draws : Nat := 0
  /-- registers by local address; an unlisted register holds its reset value (`Machine/Registers.lean`) -/
  regs : Map Word := []
  /-- bytes by place of storage; an unlisted byte reads 0 -/
  mem : List Host.Cell := []
  /-- poisoned 64 B lines, by place of storage div 64, rising (09 R281) -/
  poison : Map Unit := []
  /-- BX16 exponent tags of MEM lines with tag-valid set (05 R156) -/
  tags : Map Byte := []
  /-- lines of BX16 bales whose saturation flag is set (02 R51) -/
  satLines : Map Unit := []
  yard : Yard := {}
  seqs : Map SeqSt := []
  claimers : Map Claimer := []
  stats : Map StatAcc := []
  upd : Updates := {}
  barrows : Map BrwSt := []
  homes : Homes := {}
  sync : SyncSt := {}
  fab : Fabric := {}
  host : HostPort := {}
  groom : Grooms := {}
  power : Power := {}
  svc : Service := {}
  sec : Security := {}
  outbox : List Out := []
  deriving DecidableEq, Repr

/-- The start record (00 R18, 14 R433): the start-cause event of an input applied, with nothing retained. Its severity,
information, is the model's choice: 14 R439 states none for the start-cause event (DESIGN CHOICE, log entry 119). -/
def startRecord : Event := { source := 0x503F, code := 0x0685, severity := 0 }

/-- The image with which the module comes, in both slots (15 R460; 17 R496): its header is not stated. -/
def factoryImage : Image :=
  { version := BitVec.ofNat 32 (Config.factory 1 0), svn := BitVec.ofNat 8 (Config.factory 1 1 % 65)
    digest := BitVec.ofNat 256 (Config.factory 1 2) }

/-- A word of an update program (07 R214): operation, destination, operands a and b, constant. -/
def programWord (op d a b k : Nat) : Word := BitVec.ofNat 64 (op + d <<< 8 + a <<< 13 + b <<< 18 + k <<< 28)

/-- The words before END of the five supplied programs (07 R217). Those of slot 4 are the spec's; of the others the spec
gives the rule, and its words are the model's. -/
def suppliedSlots : List (List Word) :=
  [ [programWord 0x0E 1 1 0 4, programWord 0x0F 1 0 1 1],
    [programWord 0x09 4 0 0 0, programWord 0x0E 1 1 0 4, programWord 0x0F 1 4 1 1],
    [programWord 0x0F 2 2 0 16, programWord 0x01 0 0 0 0, programWord 0x0E 1 1 0 4, programWord 0x0F 1 2 1 1],
    [programWord 0x0E 2 2 0 16, programWord 0x0F 2 0 2 20, programWord 0x01 0 0 0 0, programWord 0x09 4 2 0 0,
     programWord 0x0E 1 1 0 4, programWord 0x0F 1 4 1 1],
    [programWord 0x0E 2 2 0 16, programWord 0x0F 2 0 2 20, programWord 0x0E 3 3 0 17, programWord 0x10 4 0 0 0,
     programWord 0x0F 3 4 3 21, programWord 0x01 0 0 0 0, programWord 0x0E 5 2 0 2, programWord 0x0E 6 3 0 3,
     programWord 0x07 6 6 0 0, programWord 0x12 6 6 0 18, programWord 0x06 5 5 6 0, programWord 0x0E 1 1 0 4,
     programWord 0x0F 1 5 1 1] ]

/-- The program memories of the four mangers as Ivain writes them at cold start (07 R213). -/
def suppliedPrograms : Map Word :=
  (List.range 4).flatMap (fun m => (suppliedSlots.zipIdx).flatMap (fun p => (p.1.zipIdx).map (fun w =>
    (0xFF4000301000 + m * 0x100000000 + 8 * (64 * p.2 + w.2), w.1))))

/-- The block right after cold start (00 R9, 15 R454): every register at its reset value, storage clear, the
default map, groom A active with B standby, and the start record alone in the log. -/
def State.reset : State :=
  { regs := suppliedPrograms, host := { log := [startRecord], nextSeq := 1, evSeq := 0 }, sec := { slot0 := some factoryImage, slot1 := some factoryImage, next := 1, signed := 1 }
    fab := { bootMeasure := factoryImage.digest } }

end Sys2Proof.Machine
end

