-- ==== Sys2Proof/Machine/Store.lean ====
section
/-! DEFINITION. Sparse maps with rising keys, and bytes in memory kept as one: the canonical form, reading, and
writing (00 R4 for byte order). -/

namespace Sys2Proof.Machine

/-- The entry of a key, if listed. -/
def mfind {α : Type} (m : Map α) (k : Nat) : Option α :=
  match m with
  | [] => none
  | (j, v) :: t => if j = k then some v else mfind t k

/-- The value of a key, `d` where it is not listed. -/
def mget {α : Type} (m : Map α) (d : α) (k : Nat) : α := (mfind m k).getD d

/-- List a value under its key, keeping keys rising. -/
def mput {α : Type} (m : Map α) (k : Nat) (v : α) : Map α :=
  match m with
  | [] => [(k, v)]
  | (j, w) :: t => if k < j then (k, v) :: (j, w) :: t else if j = k then (k, v) :: t else (j, w) :: mput t k v

/-- Take a key out. -/
def mdel {α : Type} (m : Map α) (k : Nat) : Map α := m.filter (fun e => e.1 ≠ k)

/-- Set a key, listing no entry equal to its default `d`. -/
def mset {α : Type} [DecidableEq α] (m : Map α) (d : α) (k : Nat) (v : α) : Map α :=
  if v = d then mdel m k else mput m k v

/-- Change the value of a key. -/
def mupd {α : Type} [DecidableEq α] (m : Map α) (d : α) (k : Nat) (f : α → α) : Map α :=
  mset m d k (f (mget m d k))

/-- Keys rise strictly. -/
def risingFrom (lo : Nat) : List Nat → Bool
  | [] => true
  | k :: t => decide (lo ≤ k) && risingFrom (k + 1) t

/-- The canonical form: keys strictly rising, no value equal to the default of its key. -/
def mcanon {α : Type} [DecidableEq α] (d : α) (m : Map α) : Bool :=
  risingFrom 0 (m.map Prod.fst) && m.all (fun e => decide (e.2 ≠ d))

/-! ### Memory -/

/-- The canonical form of memory: addresses strictly rising and no byte listed that reads 0 anyway. -/
def Memory.wf (m : List Host.Cell) : Bool := mcanon (0 : Byte) m

/-- The byte at a place; a place that nothing has written reads 0 (the model's choice). -/
def readByte (s : State) (p : Nat) : Byte := mget s.mem 0 p

/-- Write one byte. -/
def memPut (m : List Host.Cell) (p : Nat) (b : Byte) : List Host.Cell := mset m 0 p b

/-- Write bytes at rising places. -/
def memWrite (m : List Host.Cell) (p : Nat) : List Byte → List Host.Cell
  | [] => m
  | b :: t => memWrite (memPut m p b) (p + 1) t

/-- The bytes at `n` places from `p`. -/
def readBytes (s : State) (p n : Nat) : List Byte := (List.range n).map (fun i => readByte s (p + i))

/-- Store bytes. -/
def putBytes (s : State) (p : Nat) (d : List Byte) : State := { s with mem := memWrite s.mem p d }

/-- A number from bytes, byte 0 lowest (00 R4). -/
def ofBytes : List Byte → Nat
  | [] => 0
  | b :: t => b.toNat + 256 * ofBytes t

/-- The `n` bytes of a number, byte 0 lowest. -/
def toBytes : Nat → Nat → List Byte
  | 0, _ => []
  | n + 1, v => BitVec.ofNat 8 v :: toBytes n (v / 256)

/-- A number stored in `n` bytes. -/
def readNat (s : State) (p n : Nat) : Nat := ofBytes (readBytes s p n)

/-- Store a number in `n` bytes. -/
def putNat (s : State) (p n v : Nat) : State := putBytes s p (toBytes n v)

/-! ### Poison marks (09 R281), by 64 B of storage -/

/-- Whether the 64 B that hold a place are poisoned. -/
def poisonedAt (s : State) (p : Nat) : Bool := (mfind s.poison (p / 64)).isSome

/-- Set or clear the mark of the 64 B that hold a place. -/
def markPoison (s : State) (p : Nat) (on : Bool) : State :=
  { s with poison := if on then mput s.poison (p / 64) () else mdel s.poison (p / 64) }

/-- The 64 B lines touched by `n` bytes at `p`, by the first place of each. -/
def linesOf (p n : Nat) : List Nat :=
  if n = 0 then [] else (List.range ((p + n - 1) / 64 - p / 64 + 1)).map (fun i => (p / 64 + i) * 64)

/-- Whether any byte read is poisoned. -/
def poisonedIn (s : State) (p n : Nat) : Bool := (linesOf p n).any (poisonedAt s)

/-- Apply a step for each element of a list, in order. -/
def each {α : Type} (l : List α) (f : State → α → State) (s : State) : State := l.foldl f s

end Sys2Proof.Machine
end

