-- ==== Sys2Proof/Machine/Registers.lean ====
section
/-! DEFINITION. The register maps of every chapter as one table: which registers exist, their fields, access codes
and reset values (00 R6–R9), what a written value is stored as, and the hardware's own reads and writes of fields. -/

namespace Sys2Proof.Machine

/-- Access codes (00 R7). -/
inductive Acc where
  | rw | ro | wo | w1c | rwl
  deriving DecidableEq, Repr

/-- A field of a register. -/
structure Fld where
  lo : Nat
  len : Nat
  acc : Acc
  reset : Nat := 0
  deriving DecidableEq, Repr

/-- A register's place: the die and the offset in its register space (01 R30). -/
inductive RegPlace where
  | stall (n : Stall) (off : Nat)
  | manger (m : Mg) (off : Nat)
  | shed (s : Shed) (off : Nat)
  | aon (off : Nat)
  deriving DecidableEq, Repr

/-- The first address of the register space (00 R6). -/
def regSpace : Nat := 0xFF0000000000

/-- Where an address of the register space lies; none in space not assigned to a die (01 R30). -/
def regPlace (a : Nat) : Option RegPlace :=
  if a < regSpace then none else
  let i := (a - regSpace) / 2 ^ 32
  let off := a % 2 ^ 32
  if h : i < 32 then some (.stall ⟨i, h⟩ off)
  else if h : 0x40 ≤ i ∧ i < 0x44 then some (.manger ⟨i - 0x40, by omega⟩ off)
  else if h : 0x80 ≤ i ∧ i < 0x84 then some (.shed ⟨i - 0x80, by omega⟩ off)
  else if i = 0xF0 then some (.aon off)
  else none

def stallReg (n : Stall) (off : Nat) : Nat := regSpace + n.val * 2 ^ 32 + off
def mangerReg (m : Mg) (off : Nat) : Nat := regSpace + (0x40 + m.val) * 2 ^ 32 + off
def shedReg (s : Shed) (off : Nat) : Nat := regSpace + (0x80 + s.val) * 2 ^ 32 + off
def aonReg (off : Nat) : Nat := regSpace + 0xF0 * 2 ^ 32 + off

def RegPlace.addr : RegPlace → Nat
  | .stall n o => stallReg n o
  | .manger m o => mangerReg m o
  | .shed s o => shedReg s o
  | .aon o => aonReg o

/-- Index of an offset in an array of registers. -/
def arr (off base stride n : Nat) : Option Nat :=
  if base ≤ off ∧ off < base + stride * n ∧ (off - base) % stride = 0 then some ((off - base) / stride) else none

def ro (lo len : Nat) (reset : Nat := 0) : Fld := ⟨lo, len, .ro, reset⟩
def rw (lo len : Nat) (reset : Nat := 0) : Fld := ⟨lo, len, .rw, reset⟩
def wo (lo len : Nat) : Fld := ⟨lo, len, .wo, 0⟩
def w1c (lo len : Nat) : Fld := ⟨lo, len, .w1c, 0⟩

/-! ### The stall's registers (02 R61–R65, 03 R99–R102, 04 R137–R139, 05 R175, 06 R203, 09 R284–R286,
10 R324, 11 R349, 16 R489) -/

def yrdSpec (n : Nat) (off : Nat) : Option (List Fld) :=
  match off with
  | 0x000 => some [ro 0 5 n, ro 8 8 0xFF, ro 16 2 1]
  | 0x008 => some [ro 0 16]
  | 0x010 => some [ro 0 32]
  | 0x018 => some [ro 0 32, ro 32 16, ro 48 16]
  | 0x020 => some [ro 0 1, ro 1 1, ro 2 4, ro 6 1]
  | 0x400 => some [wo 0 6, wo 8 2]
  | 0x408 => some [rw 0 6, rw 8 2, rw 12 1, rw 13 1, rw 14 1, wo 16 1, ro 17 1, ro 32 16]
  | 0x410 => some [rw 0 48]
  | 0x418 => some [ro 0 32, ro 32 32]
  | 0x420 => some [wo 0 6, wo 8 2]
  | 0x428 => some [rw 0 5 0x14, rw 8 1 1, rw 9 1 1]
  | 0x430 => some [ro 0 16, ro 16 16, ro 32 16, ro 48 1]
  | 0x438 => some [rw 0 10, rw 10 3, rw 16 2, rw 18 1]
  | 0x440 => some [ro 0 48]
  | 0x448 => some [ro 0 48]
  | 0x450 => some [ro 0 16, ro 16 16, ro 32 16, ro 48 16]
  | 0x458 => some [ro 0 32, ro 32 32]
  | 0x460 => some [ro 0 48]
  | _ =>
    if (arr off 0x100 8 16).isSome then
      some [ro 0 5 0x1F, rw 8 5 0x1F, ro 16 1, ro 17 1, ro 18 1, ro 19 1]
    else if (arr off 0x180 8 16).isSome then some [ro 0 48]
    else if (arr off 0x200 8 4).isSome then some [ro 0 24, ro 24 2, ro 32 16, ro 48 16]
    else if (arr off 0x600 8 64).isSome then
      some [ro 0 2, ro 2 4, ro 6 4 0xF, ro 10 1, ro 11 1, ro 12 1, ro 13 1, ro 14 1, ro 16 16]
    else if (arr off 0x800 8 64).isSome then some [ro 0 27, ro 32 11, ro 43 21]
    else if (arr off 0xA00 8 64).isSome then some [rw 5 43, rw 48 16]
    else if (arr off 0xC00 8 64).isSome then
      some [rw 0 1, wo 1 1, wo 2 1, rw 3 1, rw 4 2 3, rw 6 1 1, rw 8 5 0x1C, rw 16 16]
    else if (arr off 0xE00 8 64).isSome then some [ro 0 16, ro 16 3, ro 32 16, ro 48 16]
    else if (arr off 0x1000 8 64).isSome then some [ro 0 48]
    else if (arr off 0x1200 8 64).isSome then some [ro 0 48]
    else if (arr off 0x1400 8 64).isSome then some [ro 0 16, ro 16 1]
    else if (arr off 0x1600 8 64).isSome then some [rw 6 42, rw 48 1]
    else if (arr off 0x1800 8 64).isSome then some [ro 0 16, ro 32 16]
    else none

def matSpec (off : Nat) : Option (List Fld) :=
  if off < 0x4000 then
    match off % 0x40 with
    | 0x00 => some [ro 0 3, ro 3 2, ro 5 2, ro 8 24, ro 32 16, ro 48 2]
    | 0x08 => some [ro 0 16, ro 16 16]
    | 0x10 | 0x18 | 0x20 | 0x28 => some [ro 0 48]
    | 0x30 => some [rw 0 4 4]
    | _ => none
  else if (arr off 0x10000 8 16).isSome then some [ro 0 8, ro 8 1, ro 9 1, ro 10 1, ro 12 4]
  else if off = 0x10100 then some [wo 0 8, wo 8 1]
  else none

def sfnSpec (off : Nat) : Option (List Fld) :=
  if off < 0x1000 then
    match off % 0x40 with
    | 0x00 => some [rw 0 64]
    | 0x08 => some [rw 0 48]
    | 0x10 | 0x18 => some [ro 0 48]
    | 0x20 => some [ro 0 32, ro 32 32]
    | _ => none
  else if (arr off 0x10000 8 256).isSome then some [rw 0 32, rw 32 32]
  else if (arr off 0x10800 8 2).isSome then some [rw 0 32, rw 32 32]
  else none

def brwSpec (off : Nat) : Option (List Fld) :=
  match off % 0x80 with
  | 0x00 => some [rw 6 42, rw 48 4]
  | 0x08 => some [rw 0 12]
  | 0x10 => some [ro 0 12]
  | 0x18 => some [rw 0 1 1, wo 1 1, wo 2 1, wo 3 1]
  | 0x20 => some [ro 0 3, ro 3 1, ro 8 5, ro 32 16]
  | 0x28 | 0x30 | 0x38 | 0x50 | 0x58 => some [ro 0 48]
  | 0x40 | 0x48 => some [ro 0 32, ro 32 32]
  | _ => none

/-- BST registers (16 R489, R490); BST_CFG and BST_ROT stand in SH0 only. -/
def bstSpec (sh0 : Bool) (off : Nat) : Option (List Fld) :=
  match off with
  | 0x000 => some [ro 0 3, ro 3 1, ro 16 16, ro 32 16]
  | 0x008 => some [ro 0 16, ro 16 16]
  | 0x010 => some [ro 0 16, ro 16 16, ro 32 16]
  | 0x018 => some [ro 0 32]
  | 0x100 => if sh0 then some [rw 0 1 1, rw 4 4 3, rw 16 16 0xA] else some []
  | 0x108 => if sh0 then some [rw 0 16 0x2A, ro 16 2, ro 32 16 0x2A] else some []
  | _ => none

def stallSpec (n : Nat) (off : Nat) : Option (List Fld) :=
  if off < 0x10000 then yrdSpec n off
  else if 0x100000 ≤ off ∧ off < 0x120000 then matSpec (off - 0x100000)
  else if 0x120000 ≤ off ∧ off < 0x140000 then sfnSpec (off - 0x120000)
  else if (arr off 0x140000 8 16).isSome then some [ro 0 12, ro 12 1, ro 13 1, ro 16 48]
  else if off = 0x140080 then some [wo 0 1]
  else if off = 0x140088 then some [ro 0 32, ro 32 32]
  else if 0x160000 ≤ off ∧ off < 0x160000 + 0x10 * 208 ∧ off % 8 = 0 then some [ro 0 32, ro 32 32]
  else if 0x180000 ≤ off ∧ off < 0x180000 + 0x80 * 32 then brwSpec (off - 0x180000)
  else if off = 0x1A0000 then some [rw 0 8 0x10]
  else if off = 0x1A0008 then some [ro 0 11, ro 16 11, ro 32 32]
  else if off = 0x1A0010 then some [ro 0 48]
  else if off = 0x1A0018 then some [ro 0 16, ro 16 16, ro 32 16, ro 48 16]
  else if off = 0x1A0020 then some [ro 0 14]
  else if off = 0x1A0028 then some [ro 0 32]
  else if 0xF00000 ≤ off ∧ off < 0xF01000 then bstSpec false (off - 0xF00000)
  else none

/-! ### The manger's registers (02 R66, 05 R176, 07 R236, R237, 09 R284, 10 R321, R322, 16 R489) -/

def updSpec (off : Nat) : Option (List Fld) :=
  match off with
  | 0x000 => some [rw 8 40, rw 48 16]
  | 0x008 | 0x010 => some [rw 0 27, rw 32 11]
  | 0x018 => some [rw 0 64]
  | 0x020 => some [ro 0 32, ro 32 16, ro 48 1]
  | 0x028 => some [rw 0 48, rw 48 12]
  | 0x030 => some [rw 0 24, rw 24 12]
  | 0x038 => some [wo 0 1]
  | 0x040 => some [ro 0 16, ro 16 16, ro 32 16]
  | 0x048 => some [ro 0 32, ro 32 32]
  | _ =>
    if 0x100 ≤ off ∧ off < 0x200 then
      match off % 0x40 with
      | 0x00 => some [rw 0 1 1, wo 1 1, wo 2 1]
      | 0x08 => some [ro 0 3, ro 4 2, w1c 6 1, ro 8 8, ro 16 5, ro 32 16]
      | 0x10 => some [wo 0 64]
      | 0x18 | 0x20 => some [ro 0 48]
      | 0x28 => some [ro 0 24, ro 24 8, ro 32 16, ro 48 16]
      | _ => none
    else if (arr off 0x1000 8 512).isSome then some [rw 0 64]
    else none

def lftSpec (off : Nat) : Option (List Fld) :=
  match off with
  | 0x000 => some [ro 0 1, ro 1 1]
  | 0x008 => some [ro 0 13 3, ro 32 16]
  | 0x010 => some [rw 0 8 0xC]
  | 0x018 => some [ro 0 6, ro 32 32]
  | _ =>
    if (arr off 0x100 8 32).isSome then some [ro 0 2, ro 8 16, ro 24 16, ro 40 8, ro 48 8, ro 56 1]
    else if (arr off 0x200 8 64).isSome then some [ro 0 34, ro 34 5, ro 40 2, ro 42 1, ro 43 2, ro 48 16]
    else none

/-- First protected frame of each manger's share of the home table, as Ivain sets it at cold start (10 R302,
R322: the value is not stated; DESIGN CHOICE). -/
def homShare (m : Nat) : Nat := m * 64

def homSpec (m : Nat) (off : Nat) : Option (List Fld) :=
  match off with
  | 0x000 => some [ro 0 32 (homShare m), ro 32 16 64]
  | 0x008 => some [ro 0 16, rw 32 16 0x3E8]
  | 0x010 => some [rw 6 42, rw 48 16]
  | 0x018 => some [rw 16 32]
  | 0x020 => some [rw 0 24]
  | 0x028 => some [ro 0 3, ro 16 10, ro 32 32]
  | _ =>
    if (arr off 0x048 8 5).isSome then some [rw 0 1, rw 8 8 2, rw 16 8 4, ro 32 16]
    else if (arr off 0x088 8 5).isSome then some [ro 0 32, ro 32 32]
    else if (arr off 0x0C8 8 5).isSome then some [ro 0 32, ro 32 32]
    else none

def mangerSpec (m : Nat) (off : Nat) : Option (List Fld) :=
  if off = 0x100 then some [rw 0 4 3, rw 4 4 1]
  else if 0x200000 ≤ off ∧ off < 0x201000 then
    match off - 0x200000 with
    | 0x000 => some [rw 0 48, rw 48 12, rw 60 1]
    | 0x008 => some [ro 0 48]
    | 0x010 => some [wo 0 1]
    | 0x018 => some [ro 0 1, ro 1 1 1, ro 16 16, ro 32 32]
    | 0x020 => some [rw 0 32 0x3A83126F, rw 32 32 0x38D1B717]
    | 0x028 => some [rw 0 32 0x3A83126F]
    | 0x030 => some [rw 0 4 2, rw 4 4 4]
    | 0x038 => some [ro 0 24, ro 24 24, ro 48 16]
    | _ => none
  else if 0x300000 ≤ off ∧ off < 0x310000 then updSpec (off - 0x300000)
  else if 0x400000 ≤ off ∧ off < 0x400400 then brwSpec (off - 0x400000)
  else if 0x500000 ≤ off ∧ off < 0x510000 then lftSpec (off - 0x500000)
  else if 0x600000 ≤ off ∧ off < 0x610000 then homSpec m (off - 0x600000)
  else if 0xF00000 ≤ off ∧ off < 0xF01000 then bstSpec false (off - 0xF00000)
  else none

/-! ### The shed's registers (10 R323, 12 R383, R384, 13 R412, 15 R456, 16 R489, 17 R508) -/

def fabSpec (off : Nat) : Option (List Fld) :=
  match off with
  | 0x000 => some [ro 0 16 0xFFFF, ro 16 16 0xFFFF, ro 32 2]
  | 0x008 => some [ro 0 18, ro 18 18, ro 36 18]
  | 0x010 => some [rw 0 18 0x18000]
  | 0x018 => some [rw 0 5 0xE, rw 8 1 1, rw 9 1 1]
  | 0x020 => some [ro 0 27, ro 32 11, ro 43 21]
  | 0x028 => some [rw 0 16 0x40, rw 16 8 0xA]
  | 0x030 | 0x038 | 0x040 | 0x048 => some [rw 0 64]
  | _ =>
    if 0x1000 ≤ off ∧ off < 0x1100 then
      match off % 0x40 with
      | 0x00 => some [ro 0 3, ro 3 2, ro 5 1, ro 6 2, ro 8 16, ro 32 16]
      | 0x08 => some [rw 0 11 0x320, rw 12 8 0x30, rw 20 8 0x40, rw 28 8 0x40, rw 36 8 0x10]
      | 0x10 => some [ro 0 16, ro 16 16, ro 32 16, ro 48 16]
      | 0x18 => some [ro 0 48]
      | _ => none
    else if (arr off 0x1000000 8 65536).isSome then some [ro 0 64]
    else if (arr off 0x2000000 8 1048576).isSome then some [ro 0 64]
    else none

def hifSpec (off : Nat) : Option (List Fld) :=
  match off with
  | 0x000 => some [ro 0 5, ro 4 4, ro 8 1, ro 9 1]
  | 0x008 => some [ro 0 16, ro 16 16, ro 32 16, ro 48 16]
  | 0x010 => some [ro 0 32, ro 32 32]
  | 0x018 => some [ro 0 16, ro 16 16, ro 32 32]
  | _ =>
    match arr off 0x040 8 8 with
    | some i => some [rw 0 32 (0x01010101 * (2 * i)), rw 32 32 (0x01010101 * (2 * i + 1))]
    | none => if (arr off 0x080 8 16).isSome then some [rw 0 1, rw 1 1, rw 21 27, rw 48 16] else none

def shedSpec (s : Nat) (off : Nat) : Option (List Fld) :=
  if 0x100000 ≤ off ∧ off < 0x100080 then
    match off % 0x40 with
    | 0x00 => some [ro 0 3, ro 4 4, ro 8 4, ro 12 1, ro 24 22]
    | 0x08 => some [⟨0, 1, .rwl, 0⟩, ⟨8, 1, .rwl, 0⟩]
    | 0x10 => some [ro 0 16, ro 16 16, ro 32 16]
    | 0x18 => some [ro 0 48]
    | _ => none
  else if s = 0 ∧ 0x200000 ≤ off ∧ off < 0x201000 then hifSpec (off - 0x200000)
  else if s = 0 ∧ 0x300000 ≤ off ∧ off < 0x301000 then
    match off - 0x300000 with
    | 0x000 => some [ro 0 4, ro 4 1, ro 8 4 10, ro 12 3]
    | 0x008 => some [ro 0 32, ro 32 32]
    | 0x010 => some [ro 0 1, ro 1 1, ro 2 1, ro 3 1, ro 4 1, ro 5 1, ro 6 1, ro 7 1]
    | 0x018 => some [ro 0 1, ro 1 1, w1c 2 1, rw 8 1 1, rw 9 1 1]
    | _ => none
  else if s = 0 ∧ 0x400000 ≤ off ∧ off < 0x401000 then
    match off - 0x400000 with
    | 0x000 => some [ro 0 2, ro 2 1, ro 3 1, ro 4 1, ro 5 1, ro 6 1, ro 8 8, ro 32 16]
    | 0x008 => some [ro 0 20, ro 20 13, ro 40 24]
    | 0x010 => some [ro 0 7, ro 8 8, ro 16 8, ro 24 1, ro 32 16]
    | 0x018 => some [ro 0 32]
    | _ => none
  else if 0xF00000 ≤ off ∧ off < 0xF01000 then bstSpec (s = 0) (off - 0xF00000)
  else fabSpec off

/-- Stall cores that the default map puts in service: columns 0 to 6 of each row (01 R34). -/
def defaultCores : Nat := 0x7F7F7F7F

/-! ### The always-on island's registers (14 R438) -/

def aonSpec (off : Nat) : Option (List Fld) :=
  match off with
  | 0x000 => some [ro 0 3, ro 3 3, ro 6 1, ro 7 1, ro 8 3]
  | 0x008 => some [ro 0 32 defaultCores, ro 32 4 0xF, ro 36 16 0xFFFF]
  | 0x010 => some [ro 0 16, ro 16 16, ro 32 16, ro 48 3]
  | 0x018 => some [rw 0 16 7000]
  | 0x020 => some [rw 0 1 1, rw 1 1 1, rw 2 1]
  | 0x028 => some [rw 0 32]
  | 0x030 => some [w1c 0 4]
  | 0x038 => some [w1c 0 4]
  | 0x040 => some [ro 0 16, ro 16 16, ro 32 16, ro 48 16]
  | 0x048 => some [rw 0 16 100]
  | _ => none

/-- The fields of a register; none where no register stands. -/
def placeSpec : RegPlace → Option (List Fld)
  | .stall n o => stallSpec n o
  | .manger m o => mangerSpec m o
  | .shed s o => shedSpec s o
  | .aon o => aonSpec o

/-- The registers that act for the whole module in MG0 or SH0 and are read there from every die
(05 R176, 07 R236, 10 R321, R322, 12 R383). -/
def moduleWide : RegPlace → Bool
  | .manger _ o =>
      decide ((0x200000 ≤ o ∧ o ≤ 0x200030) ∨ (0x300000 ≤ o ∧ o ≤ 0x300048 ∧ o ≠ 0x300018) ∨
        o = 0x500000 ∨ o = 0x500008 ∨ o = 0x600010 ∨ (0x600048 ≤ o ∧ o ≤ 0x600068))
  | .shed _ o => decide (o = 0 ∨ o = 0x28 ∨ (0x30 ≤ o ∧ o ≤ 0x48))
  | _ => false

/-- Where the value of a register is kept. -/
def RegPlace.keep (p : RegPlace) : RegPlace :=
  if moduleWide p then
    match p with
    | .manger _ o => .manger 0 o
    | .shed _ o => .shed 0 o
    | q => q
  else p

/-- A write through another die than the keeper's is ignored. -/
def RegPlace.writable (p : RegPlace) : Bool := decide (p.keep = p)

/-- Mask of the fields with one of the access codes. -/
def maskOf (fs : List Fld) (want : Acc → Bool) : Nat :=
  fs.foldl (fun m f => if want f.acc then m ||| ((2 ^ f.len - 1) <<< f.lo) else m) 0

/-- The reset value of a register (00 R9). -/
def specReset (fs : List Fld) : Word := BitVec.ofNat 64 (fs.foldl (fun v f => v ||| (f.reset <<< f.lo)) 0)

/-- The reset value of the register at an address; 0 where none stands. -/
def resetOf (a : Nat) : Word :=
  match regPlace a with
  | none => 0
  | some p => match placeSpec p with
    | none => 0
    | some fs => specReset fs

/-- Put a value into a field of a word. -/
def setBits (w lo len v : Nat) : Nat :=
  w - (field w lo len) <<< lo + (v % 2 ^ len) <<< lo

/-- The value held by the register at an address. -/
def getReg (s : State) (a : Nat) : Word := mget s.regs (resetOf a) a

/-- Hold a value in the register at an address. -/
def setReg (s : State) (a : Nat) (v : Word) : State := { s with regs := mset s.regs (resetOf a) a v }

/-- A field of a register. -/
def getF (s : State) (a lo len : Nat) : Nat := field (getReg s a).toNat lo len

/-- The hardware's own write of a field. -/
def setF (s : State) (a lo len v : Nat) : State :=
  setReg s a (BitVec.ofNat 64 (setBits (getReg s a).toNat lo len v))

/-- Add to a counter that saturates at its maximum. -/
def satF (s : State) (a lo len n : Nat) : State := setF s a lo len (min (getF s a lo len + n) (2 ^ len - 1))

/-- Add to a counter that wraps. -/
def addF (s : State) (a lo len n : Nat) : State := setF s a lo len (getF s a lo len + n)

/-! ### What a written value is stored as -/

def clampF (w lo len a b : Nat) : Nat := setBits w lo len (max a (min b (field w lo len)))
def oneF (w lo len : Nat) : Nat := if field w lo len = 0 then setBits w lo len 1 else w

/-- HIF_MBVEC: a byte above 59 is stored as 59 (13 R412). -/
def vecClamp (w : Nat) : Nat :=
  (List.range 8).foldl (fun v j => clampF v (8 * j) 8 0 59) w

/-- The value stored for the bits written to a register. -/
def normReg (p : RegPlace) (w : Nat) : Nat :=
  match p with
  | .stall _ o =>
    if (arr o 0x100 8 16).isSome then clampF w 8 5 7 31
    else if o = 0x428 then clampF w 0 5 10 30
    else if 0x180000 ≤ o ∧ o < 0x181000 ∧ o % 0x80 = 0 then clampF w 48 4 4 12
    else if o = 0x1A0000 then oneF w 0 8
    else w
  | .manger _ o =>
    if o = 0x200030 then clampF w 0 4 1 8
    else if 0x400000 ≤ o ∧ o < 0x400400 ∧ o % 0x80 = 0 then clampF w 48 4 4 12
    else if o = 0x600008 then oneF w 32 16
    else if (arr o 0x600048 8 5).isSome then
      if field w 16 8 < field w 8 8 then setBits w 16 8 (field w 8 8) else w
    else w
  | .shed s o =>
    if o = 0x10 then clampF w 0 18 0 120448
    else if o = 0x18 then clampF w 0 5 10 24
    else if o = 0x28 then oneF w 16 8
    else if 0x1000 ≤ o ∧ o < 0x1100 ∧ o % 0x40 = 8 then
      let v := oneF w 36 8
      let sum := field v 12 8 + field v 20 8 + field v 28 8 + field v 36 8
      if field v 0 11 < sum then setBits v 0 11 sum else v
    else if s = 0 ∧ (arr o 0x200040 8 8).isSome then vecClamp w
    else if s = 0 ∧ o = 0xF00100 then oneF w 16 16
    else if s = 0 ∧ o = 0xF00108 then oneF w 0 16
    else w
  | .aon o =>
    if o = 0x18 then clampF w 0 16 1500 7000
    else if o = 0x48 then oneF w 0 16
    else w

/-- Whether the block's lock bit holds the RWL fields of a register (00 R7, 10 R323). -/
def locked (s : State) : RegPlace → Bool
  | .shed i o => decide ((o = 0x100008 ∨ o = 0x100048) ∧ getF s (shedReg i o) 8 1 = 1)
  | _ => false

/-- The bits that a write of `data` under `lanes` leaves in a register of fields `fs` holding `old` (00 R7, R8). -/
def writtenBits (p : RegPlace) (fs : List Fld) (lock : Bool) (old data lanes : Nat) : Nat :=
  let rwm := maskOf fs (fun a => a = .rw || (a = .rwl && !lock)) &&& lanes
  let w1m := maskOf fs (fun a => a = .w1c) &&& lanes
  let clear := data &&& w1m
  normReg p ((old - (old &&& (rwm ||| clear))) + (data &&& rwm))

end Sys2Proof.Machine
end

