-- ==== Sys2Proof/Machine/Ops.lean ====
section
/-! DEFINITION. The operations that every meaning shares: clocks, event records, the block's outputs, free choices,
and the end of a command. -/

namespace Sys2Proof.Machine

/-! ### Clocks (00 R17, 02 R52–R54) -/

def islandKey (st : Stall) (i : Island) : Nat := st.val * 16 + i.val
def islandOf (site : Site) : Island := ⟨(site.val / 24 / 6) * 4 + site.val % 24 / 6, by omega⟩
def limitOf (s : State) (st : Stall) (i : Island) : IslLimit := mget s.yard.limits {} (islandKey st i)

/-- PWR_INPUT.sup shows a warning in force from the warning until the recovery completes (14 R434). -/
def inputWarn (s : State) : Bool := decide (getF s (aonReg 0x10) 48 3 = 1 ∨ getF s (aonReg 0x10) 48 3 = 2)

/-- The software cap of an island (02 R63). -/
def islandCap (s : State) (st : Stall) (i : Island) : Nat := getF s (stallReg st (0x100 + 8 * i.val)) 8 5

/-- The step at which an island runs: the lowest of its limits (02 R53, 14 R436). -/
def islandStep (s : State) (st : Stall) (i : Island) : Nat :=
  let l := limitOf s st i
  let th := match l.thermal with | none => 31 | some t => t.val
  let inp := if inputWarn s then 15 else 31
  [l.vf.val, inp, th, l.current.val, l.module.val, islandCap s st i].foldl min 31

/-- The cause of an island's limit, numbered as in the frequency event (14 R439): the first in the event's order
among the limits that equal the step in force. -/
def islandCause (s : State) (st : Stall) (i : Island) : Nat :=
  let l := limitOf s st i
  let x := islandStep s st i
  if inputWarn s && x == 15 then 1
  else if (match l.thermal with | none => false | some t => t.val == x) then 2
  else if l.droop && l.vf.val == x then 3
  else if l.current.val == x && x != 31 then 4
  else if l.module.val == x && x != 31 then 5
  else if islandCap s st i == x && x != 31 then 6
  else 0

/-- From when an island's count goes on: its last change of step, or the stalls' coming up after it (02 R54). -/
def countFrom (s : State) (l : IslLimit) : Nat := max l.since s.yard.upAt

/-- An island's cycle count (02 R54): 160 cycles pass in 9 × (step + 1) ns / 56.25 MHz. -/
def islandCycles (s : State) (st : Stall) (i : Island) : Nat :=
  let l := limitOf s st i
  (l.cyc + (s.time - countFrom s l) * 9 * (islandStep s st i + 1)) / 160 % 2 ^ 48

/-- Keep an island's count up to now, before its step changes. -/
def closeCount (s : State) (st : Stall) (i : Island) : IslLimit :=
  let l := limitOf s st i
  { l with cyc := l.cyc + (s.time - countFrom s l) * 9 * (islandStep s st i + 1), since := s.time }

/-- The die that records an event of a source (00 R15, R17): a loft's events are its manger's, groom A's those of SH0
and groom B's those of SH2. -/
def sourceDie (src : Nat) : Nat :=
  let i := field src 6 6
  match field src 12 4 with
  | 0 => i
  | 1 => 32 + i
  | 2 => 36 + i
  | 3 => 32 + i / 4
  | 4 => 36 + 2 * i
  | _ => 40

/-- The 1 GHz reference count that a die keeps from the power-up of its domain (00 R17). -/
def refCycles (s : State) (die : Nat) : Nat := (s.time - mget s.power.dieUp 0 die) % 2 ^ 48

/-! ### Sources of events (00 R15, R16) -/

def srcStall (st : Stall) (sub : Nat) : BitVec 16 := BitVec.ofNat 16 (st.val * 64 + sub)
def srcIsland (st : Stall) (site : Site) : BitVec 16 := srcStall st (islandOf site).val
def srcManger (m : Mg) (sub : Nat) : BitVec 16 := BitVec.ofNat 16 (0x1000 + m.val * 64 + sub)
def srcShed (x : Shed) (sub : Nat) : BitVec 16 := BitVec.ofNat 16 (0x2000 + x.val * 64 + sub)
def srcLoft (l : Fin 16) (sub : Nat) : BitVec 16 := BitVec.ofNat 16 (0x3000 + l.val * 64 + sub)
def srcAon : BitVec 16 := 0x503F
/-- The active groom: 0 for groom A, 1 for groom B (00 R15, 13 R408). -/
def activeGroom (s : State) : Nat := if s.groom.b = .active then 1 else 0
def srcGroom (s : State) : BitVec 16 := BitVec.ofNat 16 (0x403F + 64 * activeGroom s)
/-- A fabric port's source: shed q div 4, sub-source q mod 4. -/
def srcPort (p : Port) : BitVec 16 := srcShed ⟨p.val / 4, by omega⟩ (p.val % 4)

/-- The clock that an event's cycles field counts (00 R17). -/
def eventCycles (s : State) (src : BitVec 16) : Nat :=
  let k := field src.toNat 12 4
  let i := field src.toNat 6 6
  let sub := field src.toNat 0 6
  if h : k = 0 ∧ i < 32 ∧ sub < 16 then islandCycles s ⟨i, h.2.1⟩ ⟨sub, h.2.2⟩ else refCycles s (sourceDie src.toNat)

/-! ### Event records (00 R14) -/

/-- Severities that the chapters state with the code, and 0x00 information to 0x04 unit lost. -/
def statedSeverity : List (Nat × Nat) :=
  [(0x0287, 0), (0x01C1, 0), (0x08C0, 0), (0x08C4, 0), (0x08C6, 0), (0x028C, 0), (0x028D, 1), (0x0884, 0),
   (0x0887, 4), (0x0889, 3), (0x0290, 0), (0x0182, 3), (0x0183, 1), (0x0185, 4), (0x0384, 4), (0x0385, 0),
   (0x0386, 0), (0x0388, 4), (0x038A, 0), (0x0481, 1), (0x0483, 1), (0x0484, 0), (0x0486, 4), (0x0583, 4),
   (0x0586, 0), (0x058B, 0), (0x0985, 4), (0x0681, 0), (0x0682, 1), (0x0683, 0), (0x0684, 4), (0x0686, 0),
   (0x0688, 1), (0x0A82, 2), (0x0B81, 4), (0x0B82, 0), (0x0B83, 2), (0x0B84, 1), (0x0B85, 0), (0x0B86, 0),
   (0x0B88, 0), (0x0B89, 0), (0x0B8A, 4), (0x0784, 1), (0x0785, 0), (0x0786, 0)]

/-- The severity of an event of a code: as its chapter states it, else a free one of the five that R14 gives. -/
def severityOf (code : Nat) : BitVec 8 :=
  match mfind statedSeverity code with
  | some v => BitVec.ofNat 8 v
  | none => BitVec.ofNat 8 ((Config.unstatedSeverity (BitVec.ofNat 16 code)).toNat % 5)

/-- Hand an event record to the event queue (13 R403); `finish` drops what finds the queue full. -/
def emitRec (s : State) (e : Event) : State :=
  { s with host := { s.host with evq := s.host.evq ++ [{ e with lost := s.host.dropped }], dropped := false } }

/-- Record an event of a source with its arguments, stamped with its source's clock. -/
def emitSev (s : State) (sev : BitVec 8) (manual : Bool) (src : BitVec 16) (code a0 a1 : Nat) : State :=
  emitRec s { source := src, code := BitVec.ofNat 16 code, cycles := BitVec.ofNat 48 (eventCycles s src),
              arg0 := BitVec.ofNat 48 a0, arg1 := BitVec.ofNat 48 a1, severity := sev, manual := manual }

def emit (s : State) (src : BitVec 16) (code a0 a1 : Nat) : State :=
  emitSev s (severityOf code) false src code a0 a1

/-- An event that records a write made by hand through the management path. -/
def emitManual (s : State) (src : BitVec 16) (code a0 a1 : Nat) : State :=
  emitSev s (severityOf code) true src code a0 a1

/-! ### Outputs and choices -/

def send (s : State) (o : Out) : State := { s with outbox := s.outbox ++ [o] }

/-- Draw a free choice below `n`. -/
def pick (s : State) (n : Nat) : Nat × State :=
  (Config.pick s.draws % n, { s with draws := s.draws + 1 })

/-- Draw a value the spec states nothing about. -/
def unstated (s : State) (what : Nat) : Nat × State :=
  (Config.unstated what s.draws, { s with draws := s.draws + 1 })

/-- The event codes that the chapters define (00 R12, R13), as runs: the first code and how many follow on. -/
def eventCodes : List Nat :=
  ([(0x0181, 5), (0x01C0, 2), (0x0281, 17), (0x0381, 10), (0x0481, 6), (0x0581, 11), (0x0681, 8), (0x0781, 6),
   (0x0881, 10), (0x08C0, 7), (0x0981, 7), (0x0A81, 3), (0x0B81, 10)] : List (Nat × Nat)).flatMap (fun r => (List.range r.2).map (r.1 + ·))

/-- A write made by hand is recorded with manual = 1 (04 R137, 09 R285, 13 R407); the spec gives the record neither
code nor arguments: the code is a free one of those that the chapters define, with the severity of that code, and the
arguments are free. -/
def handRecord (s : State) (src : BitVec 16) : State :=
  let v (k : Nat) : Nat := Config.unstated 0x14 (s.draws + k)
  emitManual { s with draws := s.draws + 3 } src (eventCodes.getD (v 0 % eventCodes.length) 0x0981) (v 1) (v 2)

/-! ### The end of a command -/

/-- Records that find the input queue of 4,096 full are dropped and counted, and the next one is marked (13 R403). -/
def capEvents (s : State) : State :=
  if s.host.evq.length ≤ 4096 then s
  else { s with host := { s.host with
          evq := s.host.evq.take 4096, dropped := true,
          evLost := s.host.evLost + BitVec.ofNat 32 (s.host.evq.length - 4096) } }

/-- Whether more than the always-on island is powered: not in DORM, nor with the rails off (14 R416, R420). -/
def poweredUp (s : State) : Bool := s.power.on && decide (getF s (aonReg 0x000) 0 3 ≠ 3)

/-- The state in which a command that began in `s` ends, from what its effect made of it: the queue and the clock stand as
they did. -/
def ended (s t : State) : State := capEvents { t with pending := s.pending, time := s.time }

/-- A command of the always-on island ends. -/
def finishAon (s t : State) : Host.Outcome State Fault Refusal := .next (ended s t)

/-- A command of any other part ends; a part without power does nothing. -/
def finish (s t : State) : Host.Outcome State Fault Refusal := finishAon s (if poweredUp s then t else s)

/-- Apply a change under a condition. -/
def when (c : Bool) (f : State → State) (s : State) : State := if c then f s else s

end Sys2Proof.Machine
end

