-- ==== Sys2Proof/Machine/Numerics.lean ====
section
/-! DEFINITION. The fifteen formats (05 R141), exact arithmetic on their values with one rounding, conversion (R143–R146),
packing (R147), bales (R148–R151), BX16 (R153–R155, R157), the counts of R161 and stochastic rounding (R173). -/

namespace Sys2Proof.Machine

/-- A value: NaN, an infinity, or (−1)^neg × m × 2^e exactly. -/
inductive Val where
  | nan
  | inf (neg : Bool)
  | fin (neg : Bool) (m : Nat) (e : Int)
  deriving DecidableEq, Repr

def vZero : Val := .fin false 0 0
def vInt (i : Int) : Val := .fin (i < 0) i.natAbs 0

/-- `m × 2^e` as a multiple of `2^q`, rounded to nearest even. -/
def rneTo (m : Nat) (e q : Int) : Nat :=
  if q ≤ e then m <<< (e - q).toNat
  else
    let k := (q - e).toNat
    let d := m >>> k
    let r := m % 2 ^ k
    if 2 * r < 2 ^ k then d else if 2 ^ k < 2 * r then d + 1 else d + d % 2

/-- The same, rounded up. -/
def ceilTo (m : Nat) (e q : Int) : Nat :=
  if q ≤ e then m <<< (e - q).toNat
  else
    let k := (q - e).toNat
    (m >>> k) + (if m % 2 ^ k = 0 then 0 else 1)

/-- Layout of a floating format: exponent bits, mantissa bits, bias, and the codes, sign left out, of its largest
finite value, its infinity and the NaN that conversion gives. -/
structure Flt where
  eb : Nat
  mb : Nat
  bias : Nat
  top : Nat
  inf : Option Nat
  nan : Option Nat
  deriving DecidableEq, Repr

def fltOf (fmt : Nat) : Option Flt :=
  match fmt with
  | 0x0 => some ⟨8, 31, 127, 0x7F7FFFFFFF, some 0x7F80000000, some 0x7FC0000000⟩
  | 0x1 => some ⟨8, 23, 127, 0x7F7FFFFF, some 0x7F800000, some 0x7FC00000⟩
  | 0x2 => some ⟨8, 7, 127, 0x7F7F, some 0x7F80, some 0x7FC0⟩
  | 0x3 => some ⟨5, 10, 15, 0x7BFF, some 0x7C00, some 0x7E00⟩
  | 0x4 => some ⟨5, 2, 15, 0x7B, some 0x7C, some 0x7F⟩
  | 0x5 => some ⟨4, 3, 7, 0x7E, none, some 0x7F⟩
  | 0x6 => some ⟨3, 2, 3, 0x1F, none, none⟩
  | 0x7 => some ⟨2, 3, 1, 0x1F, none, none⟩
  | 0x8 => some ⟨2, 1, 1, 0x7, none, none⟩
  | 0xE => some ⟨4, 3, 7, 0x7E, none, some 0x7F⟩
  | _ => none

/-- Width of an element in bits (05 R141). -/
def fmtBits (fmt : Nat) : Nat :=
  match fmt with
  | 0x0 => 40 | 0x1 => 32 | 0xB => 32
  | 0x2 => 16 | 0x3 => 16 | 0xC => 16
  | 0x6 => 6 | 0x7 => 6
  | 0x8 => 4 | 0xA => 4
  | _ => 8

/-- Exponent of the lowest bit of a format's subnormals. -/
def Flt.low (f : Flt) : Int := 1 - (f.bias : Int) - (f.mb : Int)

/-- The value of a floating code. -/
def fltVal (f : Flt) (c : Nat) : Val :=
  let neg := bitOf c (f.eb + f.mb)
  let mag := field c 0 (f.eb + f.mb)
  if f.inf = some mag then .inf neg
  else if f.top < mag then .nan
  else
    let ex := mag >>> f.mb
    let m := mag % 2 ^ f.mb
    if ex = 0 then .fin neg m f.low else .fin neg (m + 2 ^ f.mb) (f.low + ((ex : Int) - 1))

/-- Magnitude code of a finite value under round to nearest even; it may exceed `f.top`. -/
def fltRound (f : Flt) (m : Nat) (e : Int) : Nat :=
  if m = 0 then 0 else
  let q := max (e + (Nat.log2 m : Int) - (f.mb : Int)) f.low
  (q - f.low).toNat * 2 ^ f.mb + rneTo m e q

def fltSign (f : Flt) (neg : Bool) : Nat := if neg then 2 ^ (f.eb + f.mb) else 0

/-- Encoding as IEEE 754 does: overflow to infinity, the canonical NaN (05 R143). -/
def fltIeee (f : Flt) (v : Val) : Nat :=
  match v with
  | .nan => f.nan.getD 0
  | .inf n => fltSign f n + f.inf.getD f.top
  | .fin n m e =>
    let c := fltRound f m e
    fltSign f n + (if f.top < c then f.inf.getD f.top else c)

def fp32 : Flt := ⟨8, 23, 127, 0x7F7FFFFF, some 0x7F800000, some 0x7FC00000⟩
def fp40 : Flt := ⟨8, 31, 127, 0x7F7FFFFFFF, some 0x7F80000000, some 0x7FC0000000⟩
def bf16 : Flt := ⟨8, 7, 127, 0x7F7F, some 0x7F80, some 0x7FC0⟩
def ue4m3 : Flt := ⟨4, 3, 7, 0x7E, none, some 0x7F⟩

def val32 (x : F32) : Val := fltVal fp32 x.toNat
def to32 (v : Val) : F32 := BitVec.ofNat 32 (fltIeee fp32 v)
def val40 (x : BitVec 40) : Val := fltVal fp40 x.toNat
def to40 (v : Val) : BitVec 40 := BitVec.ofNat 40 (fltIeee fp40 v)

/-! ### Exact arithmetic -/

def sgnM (n : Bool) (m : Nat) : Int := if n then -(m : Int) else (m : Int)

def vNeg : Val → Val
  | .nan => .nan
  | .inf n => .inf (!n)
  | .fin n m e => .fin (!n) m e

def vAbs : Val → Val
  | .nan => .nan
  | .inf _ => .inf false
  | .fin _ m e => .fin false m e

def vAdd : Val → Val → Val
  | .nan, _ => .nan
  | _, .nan => .nan
  | .inf a, .inf b => if a = b then .inf a else .nan
  | .inf a, .fin _ _ _ => .inf a
  | .fin _ _ _, .inf b => .inf b
  | .fin a m e, .fin b n g =>
    let q := min e g
    let x := sgnM a (m <<< (e - q).toNat) + sgnM b (n <<< (g - q).toNat)
    if x = 0 then .fin (a && b) 0 0 else .fin (x < 0) x.natAbs q

def vSub (a b : Val) : Val := vAdd a (vNeg b)

def vIsZero : Val → Bool
  | .fin _ m _ => m == 0
  | _ => false

def vMul : Val → Val → Val
  | .nan, _ => .nan
  | _, .nan => .nan
  | .inf a, .inf b => .inf (a != b)
  | .inf a, .fin b n _ => if n = 0 then .nan else .inf (a != b)
  | .fin a m _, .inf b => if m = 0 then .nan else .inf (a != b)
  | .fin a m e, .fin b n g => .fin (a != b) (m * n) (e + g)

/-- Quotient with 80 more bits than the operands and a sticky last bit: one later rounding to at most 32 bits of
mantissa is then the rounding of the exact quotient. -/
def vDiv : Val → Val → Val
  | .nan, _ => .nan
  | _, .nan => .nan
  | .inf _, .inf _ => .nan
  | .inf a, .fin b _ _ => .inf (a != b)
  | .fin a _ _, .inf b => .fin (a != b) 0 0
  | .fin a m e, .fin b n g =>
    if n = 0 then (if m = 0 then .nan else .inf (a != b))
    else
      let k := 80 + (Nat.log2 n + 1)
      let d := (m <<< k) / n
      .fin (a != b) (2 * d + (if (m <<< k) % n = 0 then 0 else 1)) (e - g - (k : Int) - 1)

/-- Integer square root by bits from `k`. -/
def isqrtFrom (n : Nat) : Nat → Nat → Nat
  | 0, r => r
  | k + 1, r => if (r + 2 ^ k) * (r + 2 ^ k) ≤ n then isqrtFrom n k (r + 2 ^ k) else isqrtFrom n k r

def isqrt (n : Nat) : Nat := isqrtFrom n (Nat.log2 n / 2 + 1) 0

/-- Square root with a sticky last bit, as `vDiv`. -/
def vSqrt : Val → Val
  | .nan => .nan
  | .inf n => if n then .nan else .inf false
  | .fin n m e =>
    if m = 0 then .fin n 0 0 else if n then .nan
    else
      let (m, e) := if e % 2 = 0 then (m, e) else (2 * m, e - 1)
      let x := m <<< 160
      let r := isqrt x
      .fin false (2 * r + (if r * r = x then 0 else 1)) (e / 2 - 80 - 1)

/-- `a < b`; false when either is NaN. -/
def vLt : Val → Val → Bool
  | .nan, _ => false
  | _, .nan => false
  | .inf a, .inf b => a && !b
  | .inf a, .fin _ _ _ => a
  | .fin _ _ _, .inf b => !b
  | .fin a m e, .fin b n g =>
    let q := min e g
    sgnM a (m <<< (e - q).toNat) < sgnM b (n <<< (g - q).toNat)

def vEq : Val → Val → Bool
  | .nan, _ => false
  | _, .nan => false
  | a, b => !vLt a b && !vLt b a

def vLe (a b : Val) : Bool := vLt a b || vEq a b

def vNan : Val → Bool
  | .nan => true
  | _ => false

def vFinite : Val → Bool
  | .fin _ _ _ => true
  | _ => false

/-- Scale by a power of two. -/
def vShift (v : Val) (k : Int) : Val :=
  match v with
  | .fin n m e => .fin n m (e + k)
  | w => w

/-- Round to an integer, ties to even, and clamp; none for NaN. -/
def vToInt (v : Val) (lo hi : Int) : Option Int :=
  match v with
  | .nan => none
  | .inf n => some (if n then lo else hi)
  | .fin n m e => some (max lo (min hi (sgnM n (rneTo m e 0))))

/-- One FP32 operation: exact, then one rounding. -/
def add32 (a b : F32) : F32 := to32 (vAdd (val32 a) (val32 b))
def sub32 (a b : F32) : F32 := to32 (vSub (val32 a) (val32 b))
def mul32 (a b : F32) : F32 := to32 (vMul (val32 a) (val32 b))
def div32 (a b : F32) : F32 := to32 (vDiv (val32 a) (val32 b))
def sqrt32 (a : F32) : F32 := to32 (vSqrt (val32 a))
def fma32 (a b c : F32) : F32 := to32 (vAdd (vMul (val32 a) (val32 b)) (val32 c))
def lt32 (a b : F32) : Bool := vLt (val32 a) (val32 b)
def le32 (a b : F32) : Bool := vLe (val32 a) (val32 b)

/-! ### Elements -/

/-- An n-bit two's complement code as an integer. -/
def signedOf (bits c : Nat) : Int := signedField c 0 bits

/-- The value of an unbaled element (05 R141, R145). BX16 elements need their bale. -/
def elemVal (fmt c : Nat) : Val :=
  match fltOf fmt with
  | some f => fltVal f c
  | none =>
    match fmt with
    | 0x9 => vInt (signedOf 8 c)
    | 0xA => vInt (signedOf 4 c)
    | 0xB => vInt (signedOf 32 c)
    | 0xD => if c % 256 = 0xFF then .nan else .fin false 1 ((c % 256 : Nat) - 127)
    | _ => .nan

def isIntFmt (f : Nat) : Bool := f == 0x9 || f == 0xA

/-- The value of a scale of a bale (05 R148): 0xE UE4M3, else E8M0. -/
def scaleVal (sfmt c : Nat) : Val := if sfmt = 0xE then elemVal 0xE (c % 128) else elemVal 0xD c

/-- Power of two by which a baled integer element is divided (05 R145). -/
def intFrac (fmt : Nat) : Int := if fmt = 0x9 then -6 else if fmt = 0xA then -2 else 0

/-- The value of a baled element (05 R151): NaN under a NaN scale, +0 under a zero scale. -/
def baledVal (fmt sfmt scale c : Nat) : Val :=
  match scaleVal sfmt scale with
  | .nan => .nan
  | x => if vIsZero x then vZero else vShift (vMul (elemVal fmt c) x) (intFrac fmt)

/-- A BX16 element (05 R153). -/
def bxVal (e c : Nat) : Val :=
  if e = 0xFF then .nan else vShift (vInt (signedOf 16 c)) ((e : Int) - 141)

/-- What one element's conversion gives: its code, whether it saturated, and whether its bale's scale becomes NaN or,
unbaled, its token is poisoned. -/
structure Conv where
  code : Nat
  sat : Bool := false
  bad : Bool := false
  nan : Bool := false
  deriving DecidableEq, Repr

def twos (bits : Nat) (i : Int) : Nat := (i % (2 ^ bits : Nat)).toNat

/-- Conversion of a value into an element that is not BX16; `v` is already divided by the scale (05 R143–R145).
`mode` is the saturation mode. -/
def convElem (fmt : Nat) (baled mode : Bool) (v : Val) : Conv :=
  match fmt with
  | 0x9 => match vToInt v (-127) 127 with
    | none => { code := 0, bad := true, nan := true }
    | some i => { code := twos 8 i, sat := vLe (.fin false 255 (-1)) (vAbs v) }
  | 0xA => match vToInt v (-7) 7 with
    | none => { code := 0, bad := true, nan := true }
    | some i => { code := twos 4 i, sat := vLe (.fin false 15 (-1)) (vAbs v) }
  | 0xB => match vToInt v (-(2 ^ 31)) (2 ^ 31 - 1) with
    | none => { code := 0, nan := true }
    | some i => { code := twos 32 i }
  | _ =>
    match fltOf fmt with
    | none => { code := 0, bad := true }
    | some f =>
      if fmt ≤ 0x3 then { code := fltIeee f v }
      else
        let overTop (n : Bool) : Conv :=
          if !mode then { code := fltSign f n + f.top, sat := true }
          else match fmt with
            | 0x4 => { code := fltSign f n + 0x7C, sat := true }
            | 0x5 => { code := fltSign f n + 0x7F, sat := true }
            | _ => if baled then { code := 0, sat := true, bad := true } else { code := fltSign f n + f.top, sat := true }
        match v with
        | .nan =>
          match f.nan with
          | some c => { code := c }
          | none => { code := 0, bad := true, nan := true }
        | .inf n => if fmt = 0x4 then { code := fltSign f n + 0x7C, sat := true } else overTop n
        | .fin n m e => let c := fltRound f m e; if f.top < c then overTop n else { code := fltSign f n + c }

def ceilDiv (a b : Nat) : Nat := (a + b - 1) / b

/-! ### Packing (05 R147) -/

/-- Codes of a given width as bytes; the last byte is filled with zeros. -/
def packNat (w : Nat) : List Nat → Nat
  | [] => 0
  | c :: t => c % 2 ^ w + 2 ^ w * packNat w t

def packBytes (w : Nat) (cs : List Nat) : List Byte := toBytes ((w * cs.length + 7) / 8) (packNat w cs)

/-- The first `n` codes of a run of bytes. -/
def unpackNat (w : Nat) : Nat → Nat → List Nat
  | 0, _ => []
  | n + 1, x => x % 2 ^ w :: unpackNat w n (x / 2 ^ w)

def unpackBytes (w n : Nat) (b : List Byte) : List Nat := unpackNat w n (ofBytes b)

/-- Elements that one 64 B token holds, whole (05 R147). -/
def perToken (fmt : Nat) : Nat := 512 / fmtBits fmt

/-- Cut a list into runs of `n`; fuel is the list's length. -/
def runsOf {α : Type} (n : Nat) : Nat → List α → List (List α)
  | 0, _ => []
  | _, [] => []
  | k + 1, l => l.take n :: runsOf n k (l.drop n)

def chunk {α : Type} (n : Nat) (l : List α) : List (List α) := runsOf n l.length l

/-- Bytes in tokens of 64 B, the last filled with zeros (05 R147). -/
def tokensOf (b : List Byte) : List (BitVec 512) := (chunk 64 b).map (fun r => BitVec.ofNat 512 (ofBytes r))

def bytesOf (p : BitVec 512) : List Byte := toBytes 64 p.toNat

/-! ### Bales (05 R148–R151, R153–R155) -/

/-- The largest magnitude of a run; NaN when it holds a NaN or an infinity. -/
def amax (l : List Val) : Val :=
  l.foldl (fun a v => if vNan a || !vFinite v then .nan else if vLt a (vAbs v) then vAbs v else a) vZero

/-- floor(log2 x) of a positive finite value. -/
def floorLog (v : Val) : Int :=
  match v with
  | .fin _ m e => e + (Nat.log2 m : Int)
  | _ => 0

/-- emax of R149. -/
def emaxOf (fmt : Nat) : Int :=
  match fmt with
  | 0x4 => 15 | 0x5 => 8 | 0x6 => 4 | 0x7 => 2 | 0x8 => 2 | _ => 0

/-- Largest finite value of an element format, for UE4M3 scales (05 R150). -/
def topVal (fmt : Nat) : Val :=
  match fmt with
  | 0x9 => .fin false 127 (-6)
  | 0xA => .fin false 7 (-2)
  | _ => match fltOf fmt with | some f => fltVal f f.top | none => .fin false 1 0

/-- The E8M0 code of a bale from its own values (05 R149). -/
def scaleE8 (fmt : Nat) (l : List Val) : Nat :=
  match amax l with
  | .nan => 0xFF
  | .inf _ => 0xFF
  | .fin _ 0 _ => 0x7F
  | v => (max 0 (min 0xFE (floorLog v - emaxOf fmt + 127))).toNat

/-- The UE4M3 code of a bale: amax over the largest finite value, rounded up (05 R150). -/
def scaleUe (fmt : Nat) (l : List Val) : Nat :=
  match amax l with
  | .nan => 0x7F
  | .inf _ => 0x7F
  | .fin _ 0 _ => 0x38
  | v =>
    match vDiv v (topVal fmt) with
    | .fin _ m e =>
      let q := max (e + (Nat.log2 m : Int) - 3) ue4m3.low
      min 0x7E (max 1 ((q - ue4m3.low).toNat * 8 + ceilTo m e q))
    | _ => 0x7F

def scaleOf (fmt sfmt : Nat) (l : List Val) : Nat := if sfmt = 0xE then scaleUe fmt l else scaleE8 fmt l

def scaleIsNan (sfmt c : Nat) : Bool := if sfmt = 0xE then c == 0x7F else c == 0xFF

/-- A converted bale: scale, codes, elements saturated, NaN results. -/
structure BaleOut where
  scale : Nat
  codes : List Nat
  sat : Nat
  nans : Nat
  poison : Bool := false
  deriving DecidableEq, Repr

/-- Convert one bale with a scale computed from its values (05 R144, R145, R149–R151). -/
def convBale (fmt sfmt : Nat) (mode : Bool) (l : List Val) : BaleOut :=
  let sc := scaleOf fmt sfmt l
  if scaleIsNan sfmt sc then { scale := sc, codes := l.map (fun _ => 0), sat := (l.filter (fun v => !vFinite v && !vNan v)).length, nans := (l.filter vNan).length }
  else
    let x := scaleVal sfmt sc
    let cs := l.map (fun v => convElem fmt true mode (vShift (vDiv v x) (-(intFrac fmt))))
    let sat := (cs.filter (·.sat)).length
    if cs.any (·.bad) then
      { scale := if sfmt = 0xE then 0x7F else 0xFF, codes := l.map (fun _ => 0), sat := sat, nans := (cs.filter (·.nan)).length }
    else { scale := sc, codes := cs.map (·.code), sat := sat, nans := (cs.filter (·.nan)).length }

/-- The own-values exponent of a BX16 bale (05 R154). -/
def bxOwn (l : List Val) : Nat :=
  match amax l with
  | .nan => 0xFF
  | .inf _ => 0xFF
  | .fin _ 0 _ => 0x7F
  | v => (max 0 (min 0xFE (floorLog v + 127))).toNat

def sat16 (i : Int) : Int := max (-32768) (min 32767 i)

/-- Quantise one value to a BX16 element of exponent `e` (05 R155), with whether it was clamped. -/
def bxElem (e : Nat) (v : Val) : Nat × Bool :=
  match vShift v (141 - (e : Int)) with
  | .fin n m x => let i := sgnM n (rneTo m x 0); (twos 16 (sat16 i), decide (sat16 i ≠ i))
  | _ => (0, false)

/-- A BX16 bale with an exponent of its own, or with an agreed one (05 R154). -/
def convBx (agreed : Option Nat) (l : List Val) : BaleOut :=
  let bad := l.any (fun v => !vFinite v)
  let e := agreed.getD (bxOwn l)
  if bad then { scale := if agreed.isSome then e else 0xFF, codes := l.map (fun _ => 0), sat := 0, nans := 0, poison := agreed.isSome }
  else
    let cs := l.map (bxElem e)
    { scale := e, codes := cs.map Prod.fst, sat := (cs.filter (·.2)).length, nans := 0 }

/-- Add two BX16 elements (05 R155), with whether the sum was clamped. -/
def bxAdd (a b : Nat) : Nat × Bool :=
  let i := signedOf 16 a + signedOf 16 b
  (twos 16 (sat16 i), decide (sat16 i ≠ i))

/-- Add the 32 int16 elements of two 64 B payloads; true when any clamped (02 R50). -/
def bxAdd512 (a b : BitVec 512) : BitVec 512 × Bool :=
  let cs := (unpackNat 16 32 a.toNat).zipWith bxAdd (unpackNat 16 32 b.toNat)
  (BitVec.ofNat 512 (packNat 16 (cs.map Prod.fst)), cs.any (·.2))

/-- Add the 16 FP32 elements of two 64 B payloads with round to nearest even (02 R50). -/
def fpAdd512 (a b : BitVec 512) : BitVec 512 :=
  let cs := (unpackNat 32 16 a.toNat).zipWith (fun x y => (add32 (BitVec.ofNat 32 x) (BitVec.ofNat 32 y)).toNat)
    (unpackNat 32 16 b.toNat)
  BitVec.ofNat 512 (packNat 32 cs)

/-- A router's sum of two bales of a reduction (05 R157). -/
def baleAdd (a b : Bale) : Bale :=
  if a.pre || b.pre then { e := if a.e.toNat < b.e.toNat then b.e else a.e, pre := true }
  else if a.e ≠ b.e then { a with poison := true, mm := true, sat := a.sat || b.sat }
  else if a.poison || b.poison then { a with poison := true, mm := a.mm || b.mm, sat := a.sat || b.sat }
  else
    let cs := a.elems.zipWith (fun x y => bxAdd x.toNat y.toNat) b.elems
    { a with elems := cs.map (fun c => BitVec.ofNat 16 c.1), sat := a.sat || b.sat || cs.any (·.2) }

/-! ### Statistics of a converted bale (05 R161) -/

/-- The counts of one conversion. -/
structure Counts where
  elems : Nat := 0
  zeros : Nat := 0
  uf4 : Nat := 0
  uf5 : Nat := 0
  st8 : Nat := 0
  sat : Nat := 0
  zbales : Nat := 0
  hist : Map Nat := []
  deriving DecidableEq, Repr

/-- Histogram counter of a non-zero bale (05 R159). -/
def histIndex (f : Int) : Nat := (max 0 (min 31 ((f + 56) / 2))).toNat

/-- Counts of one bale (05 R161): its values, how many were written as zero and how many saturated. A bale that holds an
infinity or a NaN has no f in the sense of 05 R149, and the spec states none of uf4, uf5, st8, zbales and hist for it: the
model counts its elements, zeros and saturations and leaves the others as they are (DESIGN CHOICE, log entry 128). -/
def countBale (l : List Val) (zeros sat : Nat) : Counts :=
  match amax l with
  | .fin _ 0 _ => { elems := l.length, zeros := zeros, sat := sat, zbales := 1 }
  | .fin n m e =>
    let f := floorLog (.fin n m e)
    let nz := l.filter (fun v => !vIsZero v)
    { elems := l.length, zeros := zeros, sat := sat
      uf4 := (nz.filter (fun v => vLe (vAbs v) (.fin false 1 (f - 18)))).length
      uf5 := (nz.filter (fun v => vLe (vAbs v) (.fin false 1 (f - 32)))).length
      st8 := (nz.filter (fun v => vLt (.fin false 7 (f - 2)) (vAbs v))).length
      hist := [(histIndex f, 1)] }
  | _ => { elems := l.length, zeros := zeros, sat := sat }

def addCounts (a b : Counts) : Counts :=
  { elems := a.elems + b.elems, zeros := a.zeros + b.zeros, uf4 := a.uf4 + b.uf4, uf5 := a.uf5 + b.uf5
    st8 := a.st8 + b.st8, sat := a.sat + b.sat, zbales := a.zbales + b.zbales
    hist := b.hist.foldl (fun h e => mupd h 0 e.1 (· + e.2)) a.hist }

/-! ### Philox-4×32 with 10 rounds (05 R173). The multipliers and key steps are the generator's published ones. -/

def philoxRound (k0 k1 : BitVec 32) (c : List (BitVec 32)) : List (BitVec 32) :=
  match c with
  | [a, b, x, y] =>
    let p := 0xD2511F53 * a.toNat
    let q := 0xCD9E8D57 * x.toNat
    [BitVec.ofNat 32 (q / 2 ^ 32) ^^^ b ^^^ k0, BitVec.ofNat 32 q,
     BitVec.ofNat 32 (p / 2 ^ 32) ^^^ y ^^^ k1, BitVec.ofNat 32 p]
  | _ => c

def philoxRun : Nat → BitVec 32 → BitVec 32 → List (BitVec 32) → List (BitVec 32)
  | 0, _, _, c => c
  | n + 1, k0, k1, c => philoxRun n (k0 + 0x9E3779B9) (k1 + 0xBB67AE85) (philoxRound k0 k1 c)

/-- The four words for a key and a 128-bit counter. -/
def philox (key : Word) (ctr : Nat) : List (BitVec 32) :=
  philoxRun 10 (BitVec.ofNat 32 key.toNat) (BitVec.ofNat 32 (key.toNat / 2 ^ 32))
    [BitVec.ofNat 32 ctr, BitVec.ofNat 32 (ctr / 2 ^ 32), BitVec.ofNat 32 (ctr / 2 ^ 64), BitVec.ofNat 32 (ctr / 2 ^ 96)]

def philoxWord (key : Word) (ctr k : Nat) : BitVec 32 := (philox key ctr).getD (k % 4) 0

/-- Stochastic rounding of FP32 to BF16 with a 16-bit random value (05 R173). -/
def srBf16 (x : F32) (r : BitVec 16) : BitVec 16 :=
  let mag := x.toNat % 2 ^ 31
  if 0x7F800000 ≤ mag then BitVec.ofNat 16 (x.toNat / 2 ^ 16 + flag (0x7F800000 < mag && x.toNat / 2 ^ 16 % 128 == 0))
  else
    let c := min 0x7F7F ((mag + r.toNat) / 2 ^ 16)
    BitVec.ofNat 16 (c + x.toNat / 2 ^ 31 * 2 ^ 15)

end Sys2Proof.Machine
end

