-- ==== Sys2Proof/Machine/Frames.lean ====
section
/-! DEFINITION. Names, frames and their places (10 R291–R299, 13 R396), which stall serves (01 R34, R36), frame accounting
(10 R292, R308–R311), and moving between tiers. -/

namespace Sys2Proof.Machine

/-! ### Stalls and positions (01 R33, R34) -/

def stallRow (st : Stall) : Fin 4 := ⟨st.val / 8, by omega⟩
def stallCol (st : Stall) : Nat := st.val % 8
def mkStall (row : Fin 4) (col : Fin 8) : Stall := ⟨row.val * 8 + col.val, by omega⟩

/-- The column of a row that carries no position. -/
def outColumn (s : State) (row : Fin 4) : Fin 8 := s.yard.outCol.getD row.val 7

/-- The condition of a stall (02 R62). -/
def stallState (s : State) (st : Stall) : StallState :=
  if st ∈ s.yard.failed then .failed
  else if st ∈ s.yard.relayed then .relay
  else if (outColumn s (stallRow st)).val = stallCol st then .relay
  else .inService

/-- The logical position a stall carries; none when out of service. -/
def stallLp (s : State) (st : Stall) : Option Nat :=
  if stallState s st = .inService then
    let o := (outColumn s (stallRow st)).val
    let c := stallCol st
    if c = 7 ∧ o = 7 then none
    else some ((stallRow st).val * 7 + (if c < o then c else c - 1))
  else none

/-- The stall that carries a logical position; none when it is not carried (a second loss in its row). -/
def lpStall (s : State) (lp : Nat) : Option Stall :=
  if h : lp < 28 then
    let row : Fin 4 := ⟨lp / 7, by omega⟩
    let c := lp % 7
    let o := (outColumn s row).val
    let st := mkStall row (if c < o then ⟨c, by omega⟩ else ⟨c + 1, by omega⟩)
    if stallState s st = .inService then some st else none
  else none

/-! ### Power (14 R416–R421, R438) -/

/-- PWR_STATE.state: 0 RUN, 1 TRIM, 2 HUSH, 3 DORM. -/
def pstate (s : State) : Nat := getF s (aonReg 0x000) 0 3

/-- PWR_DOM bit of a stall core. -/
def coreOn (s : State) (st : Stall) : Bool := getF s (aonReg 0x008) st.val 1 = 1
def engineDomOn (s : State) (m : Mg) : Bool := getF s (aonReg 0x008) (32 + m.val) 1 = 1
def loftOn (s : State) (l : Nat) : Bool := getF s (aonReg 0x008) (36 + l) 1 = 1

/-- Whether mangers and stalls are up at all. -/
def fullOn (s : State) : Bool := s.power.on && decide (pstate s ≤ 1)

/-! ### Loft layout (10 R294, R295, R299) -/

def segSize : Nat := 0x200000

def protBands (s : State) : Nat := getF s (mangerReg 0 0x500008) 0 13
def mangerLocal (s : State) : Bool := getF s (mangerReg 0 0x500000) 0 1 = 1

/-- The module interface that holds block `b` of tier-1 frame `f`. -/
def blockIface (s : State) (f b : Nat) : Nat :=
  if mangerLocal s then
    let g := (f % 245760) * 512 + b
    (f / 245760) * 32 + (g % 4) * 8 + (g / 4) % 8
  else
    let g := f * 512 + b
    (g % 4) * 32 + (g / 4 % 4) * 8 + (g / 16) % 8

/-- The offset on that interface. -/
def blockOffset (s : State) (f b : Nat) : Nat :=
  if mangerLocal s then ((f % 245760) * 512 + b) / 32 * 4096 else (f * 512 + b) / 128 * 4096

/-- The interface that holds block `b` of protected frame `pf` (10 R299): group of band `k` in loft `l`, parity on
interface `k mod 8`. -/
def protIface (pf b : Nat) : Nat :=
  let k := pf / 112
  let l := pf % 112 / 7
  let j := pf % 7
  let d := (b + j) % 7
  l * 8 + (if d < k % 8 then d else d + 1)

/-- LFT_IFC of a module interface. -/
def ifcReg (g : Nat) : Nat := mangerReg ⟨g / 32 % 4, by omega⟩ (0x500100 + 8 * (g % 32))
def ifaceLost (s : State) (g : Nat) : Bool := getF s (ifcReg g) 0 2 = 2

/-- CXP_STAT of a CXL port. -/
def cxpReg (p : Nat) (off : Nat) : Nat := shedReg ⟨p / 2 % 4, by omega⟩ (0x100000 + 0x40 * (p % 2) + off)
def cxlState (s : State) (p : Nat) : Nat := getF s (cxpReg p 0) 0 3
def cxlFrames (s : State) (p : Nat) : Nat := getF s (cxpReg p 0) 24 22
/-- A port serves tier 4 when its device or its configuration says flash-backed (10 R317). -/
def cxlFlash (s : State) (p : Nat) : Bool := getF s (cxpReg p 0) 12 1 = 1 || getF s (cxpReg p 8) 0 1 = 1

/-! ### Places of storage -/

def tier2Base : Nat := 2 ^ 52
def cxlBase : Nat := 2 ^ 53
def hostBase : Nat := 2 ^ 60
def hostMarks : Nat := 2 ^ 61

/-- Where an address leads. -/
inductive Loc where
  /-- storage: the byte's place, the place its poison mark is kept under, tier and name (0 for tier 0) -/
  | mem (p mark tier name : Nat)
  | sync (st : Stall) (off : Nat)
  | reg
  | refused (code : Nat)
  deriving DecidableEq, Repr

/-- A byte of a frame (10 R289, R292). -/
def framePlace (s : State) (tier frame off name : Nat) : Loc :=
  match tier with
  | 1 => .mem (frame * segSize + off) (frame * segSize + off) 1 name
  | 2 => .mem (tier2Base + frame * segSize + off) (tier2Base + frame * segSize + off) 2 name
  | 5 =>
    match mfind s.homes.hostwin frame with
    | some w => .mem (hostBase + w.haddr.toNat * segSize + off) (hostMarks + frame * segSize + off) 5 name
    | none => .refused 0x0301
  | t => .mem (cxlBase + frame * segSize + off) (cxlBase + frame * segSize + off) t name

/-- Whether an offset of a stall's SRAM window is populated (01 R28). -/
def sramPopulated (off : Nat) : Bool :=
  decide ((off / 0x100000 < 208 ∧ off % 0x100000 < 0xC0000) ∨ (0x10000000 ≤ off ∧ off < 0x12000000))

/-- The access of a stall's window (01 R36, 14 R421, R348). -/
def windowCode (s : State) (st : Stall) : Nat :=
  if pstate s ≥ 2 then 0x0606
  else if stallState s st ≠ .inService || !coreOn s st then 0x0301
  else 0

/-- Translation of a local address (01 R26–R30, R36; 10 R291, R292; 13 R396). -/
def locate (s : State) (a : Nat) : Loc :=
  if a < 0x400000000000 then
    if pstate s ≥ 2 then .refused 0x0606
    else if 0x220000000000 ≤ a then
      let i := (a - 0x220000000000) / segSize
      match mfind s.homes.hostwin i with
      | some w => if w.pool then .refused 0x0301 else framePlace s 5 i (a % segSize) (a / segSize)
      | none => .refused 0x0301
    else
      let cxlOk := if 0x020000000000 ≤ a then
          let p := (a - 0x020000000000) / 0x040000000000
          decide (cxlState s p = 2 ∧ (a - 0x020000000000) % 0x040000000000 / segSize < cxlFrames s p)
        else decide (a < 0x01E000000000)
      if !cxlOk then .refused 0x0301 else
      match mfind s.homes.table (a / segSize) with
      | some r => framePlace s r.tier.val r.frame (a % segSize) (a / segSize)
      | none => .refused 0x0301
  else if h : 0xF00000000000 ≤ a ∧ a < 0xF02000000000 then
    let st : Stall := ⟨(a - 0xF00000000000) / 0x100000000, by omega⟩
    let c := windowCode s st
    if c ≠ 0 then .refused c
    else if sramPopulated (a % 0x100000000) then .mem a a 0 0 else .refused 0x0301
  else if h : 0xF80000000000 ≤ a ∧ a < 0xF80002000000 then
    let st : Stall := ⟨(a - 0xF80000000000) / 0x100000, by omega⟩
    let c := windowCode s st
    if c ≠ 0 then .refused c else .sync st (a % 0x100000)
  else if 0xFF0000000000 ≤ a ∧ a < 0x1000000000000 then .reg
  else .refused 0x0301

/-- Local address of an SRAM window byte. -/
def sramAddr (st : Stall) (off : Nat) : Nat := 0xF00000000000 + st.val * 0x100000000 + off
def memAddr (st : Stall) (m off : Nat) : Nat := sramAddr st (m * 0x100000 + off)
def matAddr (st : Stall) (k off : Nat) : Nat := sramAddr st (0x10000000 + k * 0x20000 + off)

/-! ### Frames of a tier (10 R292, R294, R299) -/

/-- The frames a tier has, as ranges (first, count). In manger-local mode `only` restricts tier 1 to one manger. -/
def tierRanges (s : State) (t : Nat) (only : Option Nat) : List (Nat × Nat) :=
  match t with
  | 1 =>
    if mangerLocal s then
      ([0, 1, 2, 3].filter (fun m => match only with | none => true | some k => m == k)).map
        (fun m => (m * 245760, 245760 - 32 * protBands s))
    else [(0, 983040 - 128 * protBands s)]
  | 2 => [(0, 112 * protBands s)]
  | 5 => (s.homes.hostwin.filter (fun e => e.2.pool)).map (fun e => (e.1, 1))
  | _ =>
    ((List.range 8).filter (fun p => cxlState s p == 2 && (cxlFlash s p == (t == 4)))).map
      (fun p => (p * 2097152, cxlFrames s p))

def tierCap (s : State) (t : Nat) : Nat := (tierRanges s t none).foldl (fun n r => n + r.2) 0

/-- Frames taken in a tier: by names, by moves under way, by Ivain, and retired. -/
def usedFrames (s : State) (t : Nat) : List Nat :=
  s.homes.table.filterMap (fun e => if e.2.tier.val = t then some e.2.frame else none)
  ++ s.homes.table.filterMap (fun e => if e.2.move ≠ 0 ∧ e.2.dtier.val = t then some e.2.dframe else none)
  ++ (if t = 1 then s.homes.bitmaps.map Prod.snd else [])
  ++ s.homes.retired.filterMap (fun e => if e.1 = t then some e.2 else none)
  ++ (if t = 2 then List.range 336 else [])

def tierFree (s : State) (t : Nat) : Nat := tierCap s t - (usedFrames s t).length

/-- The `k`-th frame of some ranges. -/
def nthFrame : List (Nat × Nat) → Nat → Option Nat
  | [], _ => none
  | (b, n) :: t, k => if k < n then some (b + k) else nthFrame t (k - n)

/-- The first frame not used, searching cyclically from index `k`; the fuel is one more than the frames used. -/
def seekFree (rs : List (Nat × Nat)) (cap : Nat) (used : List Nat) : Nat → Nat → Option Nat
  | 0, _ => none
  | fuel + 1, k =>
    if cap = 0 then none else
    match nthFrame rs (k % cap) with
    | none => none
    | some f => if f ∈ used then seekFree rs cap used fuel (k + 1) else some f

/-- Take a free frame of a tier. Which one is a free choice: the spec gives no rule. -/
def takeFrame (s : State) (t : Nat) (only : Option Nat) : Option (Nat × State) :=
  let rs := tierRanges s t only
  let cap := rs.foldl (fun n r => n + r.2) 0
  let used := usedFrames s t
  match seekFree rs cap used (used.length + 1) (Config.pick s.draws) with
  | none => none
  | some f => some (f, { s with draws := s.draws + 1 })

/-- Changing parts of the state. -/
def onYard (s : State) (f : Yard → Yard) : State := { s with yard := f s.yard }
def onUpd (s : State) (f : Updates → Updates) : State := { s with upd := f s.upd }
def onHomes (s : State) (f : Homes → Homes) : State := { s with homes := f s.homes }
def onSync (s : State) (f : SyncSt → SyncSt) : State := { s with sync := f s.sync }
def onFab (s : State) (f : Fabric → Fabric) : State := { s with fab := f s.fab }
def onHost (s : State) (f : HostPort → HostPort) : State := { s with host := f s.host }
def onGroom (s : State) (f : Grooms → Grooms) : State := { s with groom := f s.groom }
def onPower (s : State) (f : Power → Power) : State := { s with power := f s.power }
def onSvc (s : State) (f : Service → Service) : State := { s with svc := f s.svc }
def onSec (s : State) (f : Security → Security) : State := { s with sec := f s.sec }

def nameRec (s : State) (n : Nat) : Option HomeRec := mfind s.homes.table n
def putRec (s : State) (n : Nat) (r : HomeRec) : State := onHomes s (fun h => { h with table := mput h.table n r })
def delRec (s : State) (n : Nat) : State := onHomes s (fun h => { h with table := mdel h.table n })

/-- Whether every name of a spill area is valid and pinned; one that is not counts as exhausted (10 R315). -/
def areaValid (s : State) (base n : Nat) : Bool :=
  (List.range n).all (fun i => match nameRec s (base + i) with
    | some r => r.pin
    | none => false)

/-- HOM registers of a manger and the module-wide tier registers. -/
def homEpoch (s : State) (m : Mg) : Nat := getF s (mangerReg m 0x600008) 0 16
def homTier (t : Nat) : Nat := mangerReg 0 (0x600040 + 8 * t)
def homPin (t : Nat) : Nat := mangerReg 0 (0x6000C0 + 8 * t)
def nameManger (n : Nat) : Mg := ⟨n % 4, by omega⟩
def quotaMode (s : State) (t : Nat) : Bool := getF s (homTier t) 0 1 = 1

/-- Idle time of a name (10 R312). -/
def idleTime (s : State) (n : Nat) (r : HomeRec) : Nat :=
  min 32767 ((homEpoch s (nameManger n) + 65536 - r.age.toNat) % 65536)

/-- The order in which tiers stand below one another for eviction (10 R309): 1, 3, 4, 5, and 2 evicts to 3. -/
def lowerTiers (t : Nat) : List Nat :=
  match t with
  | 1 => [3, 4, 5]
  | 2 => [3, 4, 5]
  | 3 => [4, 5]
  | 4 => [5]
  | _ => []

def nextLower (s : State) (t : Nat) : Option Nat := (lowerTiers t).find? (fun u => tierCap s u != 0)

def asTier (t : Nat) : Fin 6 := ⟨t % 6, by omega⟩

/-- Copy a whole frame, poison marks carried (10 R305). -/
def copyFrame (s : State) (src dst : Loc) : State :=
  match src, dst with
  | .mem p mp _ _, .mem q mq _ _ =>
    let data := s.mem.filter (fun c => p ≤ c.1 && c.1 < p + segSize)
    let marks := s.poison.filter (fun c => mp / 64 ≤ c.1 && c.1 < mp / 64 + segSize / 64)
    let clearM := s.mem.filter (fun c => !(q ≤ c.1 && c.1 < q + segSize))
    let clearP := s.poison.filter (fun c => !(mq / 64 ≤ c.1 && c.1 < mq / 64 + segSize / 64))
    { s with mem := data.foldl (fun m c => memPut m (c.1 - p + q) c.2) clearM
             poison := marks.foldl (fun m c => mput m (c.1 - mp / 64 + mq / 64) ()) clearP }
  | _, _ => s

/-- Poison every line of a frame. -/
def poisonFrame (s : State) (l : Loc) : State :=
  match l with
  | .mem _ mark _ _ =>
    { s with poison := (List.range (segSize / 64)).foldl (fun m i => mput m (mark / 64 + i) ()) s.poison }
  | _ => s

/-- A task's quota entry (10 R310): quota, policy spill, use, from the table at HOM_QTBL; tasks beyond it have none. -/
def quotaPlace (s : State) (task : Nat) : Option Nat :=
  let q := getReg s (mangerReg 0 0x600010)
  if field q.toNat 48 16 < task then none
  else match locate s (field q.toNat 0 48 + 64 * task) with
    | .mem p _ _ _ => some p
    | _ => none

def quotaOf (s : State) (task t : Nat) : Nat :=
  match quotaPlace s task with
  | none => 0
  | some p => readNat s (p + 4 * (t - 1)) 4

def quotaSpill (s : State) (task : Nat) : Bool :=
  match quotaPlace s task with
  | none => false
  | some p => readNat s (p + 20) 1 % 2 == 1

/-- Frames of a tier that a task's names hold. -/
def taskFrames (s : State) (task t : Nat) : Nat :=
  (s.homes.table.filter (fun e => e.2.task.toNat == task && (e.2.tier.val == t || (e.2.move != 0 && e.2.dtier.val == t)))).length

/-- Ivain keeps a task's use of each tier in its entry (10 R310). -/
def keepQuota (s : State) (task : Nat) : State :=
  match quotaPlace s task with
  | none => s
  | some p => [1, 2, 3, 4, 5].foldl (fun s t => putNat s (p + 24 + 4 * (t - 1)) 4 (taskFrames s task t)) s

/-- Give a name a new frame with its data at once: reads before see the source, after it the destination
(10 R305 steps 1 to 6 for a name nothing writes meanwhile). -/
def rehouse (s : State) (n : Nat) (r : HomeRec) (t f : Nat) : State :=
  let s := copyFrame s (framePlace s r.tier.val r.frame 0 n) (framePlace s t f 0 n)
  keepQuota (putRec s n { r with tier := asTier t, frame := f, move := 0, dtier := 0, dframe := 0 }) r.task.toNat

/-- The unpinned, settled name of a tier in one manger's share that has gone untouched longest, of those not to be skipped;
ties go to the lower name (10 R309, R312). -/
def oldestIn (s : State) (t m : Nat) (skip : List Nat) : Option (Nat × HomeRec) :=
  (s.homes.table.filter (fun e => e.1 % 4 == m && e.2.tier.val == t && !e.2.pin && e.2.move == 0 && !skip.contains e.1)).foldl
    (fun best e => match best with
      | none => some e
      | some b => if idleTime s b.1 b.2 < idleTime s e.1 e.2 then some e else some b) none

/-- The candidate of the share whose turn it is, or of the next that has one (10 R312). -/
def oldest (s : State) (t turn : Nat) (skip : List Nat) : Option (Nat × HomeRec) :=
  ([0, 1, 2, 3].map (fun i => oldestIn s t ((turn + i) % 4) skip)).findSome? id

/-- How a name is given a frame in a tier: the tier that gave it, the frame and the state; or the refusal's status. -/
abbrev Placing := State → Nat → HomeRec → Nat → Except Nat (Nat × Nat × State)

/-- Evict one name to the next lower populated tier, placed there under that tier's accounting, with its event; one that is
refused a place is skipped. None without a candidate (10 R309, R310). -/
def evictOne (place : Placing) (s : State) (t turn : Nat) (skip : List Nat) : Option (State × List Nat) :=
  match oldest s t turn skip, nextLower s t with
  | some (n, r), some u =>
    match place s n r u with
    | .error _ => some (s, n :: skip)
    | .ok (v, f, s) =>
      let s := satF (rehouse s n r v f) (homPin t) 32 32 1
      some (emit s (srcManger (nameManger n) 0x3F) 0x0386 n (t + 8 * v), skip)
  | _, _ => none

/-- Evict until the high watermark is reached or no candidate is left. -/
def evictTo (place : Placing) (s : State) (t turn : Nat) (skip : List Nat) : Nat → State
  | 0 => s
  | fuel + 1 =>
    if getF s (homTier t) 16 8 * tierCap s t / 256 ≤ tierFree s t then s
    else match evictOne place s t turn skip with
      | none => s
      | some (s', skip) => evictTo place s' t (turn + 1) skip fuel

/-- Eviction at an allocation or move into a POOL tier below its low watermark (10 R309). -/
def evictPool (place : Placing) (s : State) (t : Nat) : State :=
  if quotaMode s t then s
  else if tierFree s t < getF s (homTier t) 8 8 * tierCap s t / 256 then evictTo place s t 0 [] (s.homes.table.length + 1)
  else s

/-- In manger-local mode a name of manger m's part of the loft range takes frames of manger m only (10 R295). -/
def nameOnly (s : State) (n t : Nat) : Option Nat :=
  if mangerLocal s && t == 1 && decide (n * segSize < 0x01E000000000) then some (n * segSize / 0x007800000000) else none

/-- A frame for a task in a tier under the tier's accounting (10 R308–R310), or the refusal's status. -/
def allocIn (s : State) (task : Nat) (spill : Bool) (only : Option Nat) : Nat → Nat → Except Nat (Nat × Nat × State)
  | 0, _ => .error 0x0304
  | fuel + 1, t =>
    if quotaMode s t && task != 0xFFFF && decide (quotaOf s task t ≤ taskFrames s task t) then
      if spill then
        match nextLower s t with
        | none => .error 0x0303
        | some u => allocIn s task spill none fuel u
      else .error 0x0303
    else
      let s := evictPool (fun s n r u => allocIn s r.task.toNat r.policy (nameOnly s n u) fuel u) s t
      match takeFrame s t only with
      | some (f, s) => .ok (t, f, s)
      | none => .error 0x0304

/-- Whether a pin leaves its tier with too many pinned frames, or exceeds the quota (10 R311). -/
def pinRefused (s : State) (task t extra : Nat) : Bool :=
  let pinned := (s.homes.table.filter (fun e => e.2.pin && e.2.tier.val == t)).length + extra
  decide (tierCap s t - getF s (homTier t) 8 8 * tierCap s t / 256 < pinned) ||
  (quotaMode s t && task != 0xFFFF &&
    decide (quotaOf s task t < (s.homes.table.filter (fun e => e.2.pin && e.2.tier.val == t && e.2.task.toNat == task)).length + extra))

/-- Whether a name's frame was lost with its CXL port. -/
def frameLost (s : State) (n : Nat) : Bool :=
  match nameRec s n with
  | some r => (r.tier == 3 || r.tier == 4) && cxlState s (r.frame / 2097152) == 3
  | none => false

/-- A name whose frame was lost with its CXL port is re-homed on access in the next lower tier, under that tier's
accounting; its blocks read poisoned until rewritten (10 R318). -/
def rehome (s : State) (n : Nat) : State :=
  match nameRec s n with
  | some r =>
    if !frameLost s n || r.move != 0 then s else
    match nextLower s r.tier.val with
    | none => s
    | some u =>
      match allocIn s r.task.toNat r.policy (nameOnly s n u) 6 u with
      | .error _ => s
      | .ok (v, f, s) =>
        let s := poisonFrame s (framePlace s v f 0 n)
        keepQuota (putRec s n { r with tier := asTier v, frame := f, suspect := true }) r.task.toNat
  | none => s

/-- A touch writes the current epoch of the name's manger into its age (10 R312). -/
def touchName (s : State) (n : Nat) : State :=
  match nameRec s n with
  | some r => putRec s n { r with age := BitVec.ofNat 16 (homEpoch s (nameManger n)) }
  | none => s

end Sys2Proof.Machine
end

