-- ==== Sys2Proof/Machine/Sites.lean ====
section
/-! DEFINITION. Unit sites (02 R37–R39), a unit's state and its configuration records (03 R77, R78), regions and
their home stalls (03 R71), and where a link output leads (02 R45–R49). -/

namespace Sys2Proof.Machine

/-! ### Sites -/

inductive SiteType where
  | mat | mem | sfn | iou | spare
  deriving DecidableEq, Repr

/-- The site of a column and a row. -/
def siteAt (x y : Nat) : Site := ⟨(y % 24) * 24 + x % 24, by omega⟩

/-- The type of a site (02 R38). -/
def siteType (site : Site) : SiteType :=
  let x := site.val % 24
  let y := site.val / 24
  let lx := x % 6
  let ly := y % 6
  if (y = 0 ∨ y = 23) ∧ (lx = 2 ∨ lx = 3) then .iou
  else if (x = 0 ∨ x = 23) ∧ (ly = 2 ∨ ly = 3) then .iou
  else if lx = 2 ∧ ly = 2 then .spare
  else if (lx = 1 ∨ lx = 4) ∧ (ly = 1 ∨ ly = 4) then .sfn
  else if (lx = 1 ∨ lx = 4) ≠ (ly = 1 ∨ ly = 4) then .mat
  else .mem

/-- The header's type code: 0 MAT, 1 MEM, 2 SFN, 3 IOU; a spare MAT site holds no record (03 R78, R79). -/
def typeCode : SiteType → Nat
  | .mat => 0 | .mem => 1 | .sfn => 2 | .iou => 3 | .spare => 4

/-- Sites of a type in row `y` left of column `x`. -/
def rowCount (t : SiteType) (y x : Nat) : Nat :=
  ((List.range x).filter (fun i => siteType (siteAt i y) == t)).length

/-- Sites of a type below a site: the unit's index (02 R39). -/
def siteIndex (site : Site) : Nat :=
  ((List.range (site.val / 24)).map (fun y => rowCount (siteType site) y 24)).foldl (· + ·) 0
    + rowCount (siteType site) (site.val / 24) (site.val % 24)

/-- The column of the `i`-th site of a type in row `y`. -/
def rowFind (t : SiteType) (y i : Nat) : Nat :=
  ((List.range 24).filter (fun x => siteType (siteAt x y) == t)).getD i 0

def siteFrom (t : SiteType) : Nat → Nat → Nat → Site
  | 0, _, _ => 0
  | fuel + 1, y, i =>
    let n := rowCount t y 24
    if i < n then siteAt (rowFind t y i) y
    else siteFrom t fuel (y + 1) (i - n)

/-- The site of a type's `i`-th unit. -/
def siteOf (t : SiteType) (i : Nat) : Site := siteFrom t 24 0 i

/-- The IOU of a barrow: the first eight IOUs lie on the top edge, the last eight on the bottom edge, the others on
the left and right edges in rising rows (02 R38, R39). -/
def iouSite (b : Fin 32) : Site :=
  if b.val < 8 then siteAt (6 * (b.val / 2) + 2 + b.val % 2) 0
  else if b.val < 24 then siteAt ((b.val - 8) % 2 * 23) (6 * ((b.val - 8) / 4) + 2 + (b.val - 8) % 4 / 2)
  else siteAt (6 * ((b.val - 24) / 2) + 2 + b.val % 2) 23

def matSite (k : Fin 256) : Site := siteOf .mat k.val

/-! ### Units -/

def unitKey (st : Stall) (site : Site) : Nat := st.val * 576 + site.val
def unitOf (s : State) (st : Stall) (site : Site) : UnitSt := mget s.yard.units {} (unitKey st site)
def putUnit (s : State) (st : Stall) (site : Site) (u : UnitSt) : State :=
  onYard s (fun y => { y with units := mset y.units {} (unitKey st site) u })
def updUnit (s : State) (st : Stall) (site : Site) (f : UnitSt → UnitSt) : State := putUnit s st site (f (unitOf s st site))

def dirCode : Dir → Nat
  | .north => 0 | .east => 1 | .south => 2 | .west => 3 | .loc => 4

/-- Key of a queue: direction, lane, priority (02 R41). -/
def queueKey (d : Dir) (lane : Slot) (high : Bool) : Nat := dirCode d * 8 + lane.val * 2 + flag high

/-- Key of an input or an output in a slot. -/
def ioKey (c : Slot) (i : Nat) : Nat := c.val * 8 + i

/-- The configuration of a slot; none when cleared. -/
def cfgOf (u : UnitSt) (c : Slot) : Option (BitVec 4096) := mfind u.cfg c.val

/-- Bits `[lo + len − 1 : lo]` of a record. -/
def recBits {n : Nat} (w : BitVec n) (lo len : Nat) : Nat := field w.toNat lo len

def cfgRoute (w : BitVec 4096) (i : Nat) : Nat := recBits w (8 * i) 8
/-- Outputs of a valid route entry; none where the entry is not valid or names no output (02 R44). -/
def routeOuts (w : BitVec 4096) (i : Nat) : Option (List Dir) :=
  let e := cfgRoute w i
  if bitOf e 5 ∧ field e 0 5 ≠ 0 then
    some ([Dir.north, .east, .south, .west, .loc].filter (fun d => bitOf e (dirCode d)))
  else none

def inBit (i : Nat) : Nat := 512 + 64 * i
def inEn (w : BitVec 4096) (i : Nat) : Bool := recBits w (inBit i) 1 = 1
def inTake (w : BitVec 4096) (i : Nat) : Nat := recBits w (inBit i + 1) 8 + 1
def inRole (w : BitVec 4096) (i : Nat) : Bool := recBits w (inBit i + 9) 1 = 1
def outBit (o : Nat) : Nat := 1024 + 64 * o
def outEn (w : BitVec 4096) (o : Nat) : Bool := recBits w (outBit o) 1 = 1
def outGive (w : BitVec 4096) (o : Nat) : Nat := recBits w (outBit o + 1) 9
def outRoute (w : BitVec 4096) (o : Nat) : Nat := recBits w (outBit o + 10) 6
def outToff (w : BitVec 4096) (o : Nat) : Int := signedField w.toNat (outBit o + 16) 8
def outAcc (w : BitVec 4096) (o : Nat) : Bool := recBits w (outBit o + 24) 1 = 1
def outFmt (w : BitVec 4096) (o : Nat) : Nat := recBits w (outBit o + 25) 4
def outInp (w : BitVec 4096) (o : Nat) : Fin 8 := ⟨recBits w (outBit o + 29) 3 % 8, by omega⟩
def hdrBit : Nat := 1536
def hdrType (w : BitVec 4096) : Nat := recBits w hdrBit 2
def hdrRegion (w : BitVec 4096) : Nat := recBits w (hdrBit + 2) 6
def hdrSteer (w : BitVec 4096) : Bool := recBits w (hdrBit + 8) 1 = 1
def hdrVoidZero (w : BitVec 4096) : Bool := recBits w (hdrBit + 9) 1 = 1
def hdrOvf (w : BitVec 4096) : Bool := recBits w (hdrBit + 10) 1 = 1
def hdrSource (w : BitVec 4096) : Bool := recBits w (hdrBit + 11) 1 = 1
/-- First bit of the unit program (03 R77). -/
def progBit : Nat := 1600
/-- A field of the unit program, from a byte offset of the record. -/
def progBits (w : BitVec 4096) (byte lo len : Nat) : Nat := recBits w (8 * byte + lo) len

/-- The tag of an output token: the firing's tag plus the output's offset, modulo 65,536 (03 R72). -/
def outTag (w : BitVec 4096) (o : Nat) (tag : BitVec 16) : BitVec 16 := tag + BitVec.ofInt 16 (outToff w o)

/-! ### Regions (03 R71) -/

/-- The stall and site of a unit's key. -/
def keyStall (k : Nat) : Stall := ⟨k / 576 % 32, by omega⟩
def keySite (k : Nat) : Site := ⟨k % 576, by omega⟩

/-- Whether a unit holds a configuration of a region in some slot. -/
def inRegion (u : UnitSt) (r : Region) : Bool := u.cfg.any (fun e => hdrRegion e.2 == r.val)

/-- Whether a slot of a unit belongs to a region. -/
def slotRegion (u : UnitSt) (c : Slot) (r : Region) : Bool :=
  match cfgOf u c with
  | some w => hdrRegion w == r.val
  | none => false

/-- The units of a region, by key. -/
def regionUnits (s : State) (r : Region) : List Nat := (s.yard.units.filter (fun e => inRegion e.2 r)).map Prod.fst

def regionStalls (s : State) (r : Region) : List Stall := ((regionUnits s r).map keyStall).eraseDups

/-- The home stall: the one that carries the lowest logical position among the region's units. -/
def regionHome (s : State) (r : Region) : Option Stall :=
  (regionStalls s r).foldl (fun best st =>
    match stallLp s st with
    | none => best
    | some p => match best with
      | none => some st
      | some b => match stallLp s b with
        | some q => if p < q then some st else best
        | none => some st) none

/-- The event source of a region-wide event: its home stall, whole (03 R103). -/
def regionSource (s : State) (r : Region) : BitVec 16 :=
  match regionHome s r with
  | some st => srcStall st 0x3F
  | none => srcGroom s

def rgnReg (st : Stall) (r : Region) : Nat := stallReg st (0x600 + 8 * r.val)
def rgnActive (s : State) (st : Stall) (r : Region) : Nat := getF s (rgnReg st r) 0 2
def rgnLoaded (s : State) (st : Stall) (r : Region) (c : Nat) : Bool := getF s (rgnReg st r) (2 + c) 1 = 1
def rgnOpen (s : State) (st : Stall) (r : Region) (c : Nat) : Bool := getF s (rgnReg st r) (6 + c) 1 = 1
def rgnHalted (s : State) (st : Stall) (r : Region) : Bool := getF s (rgnReg st r) 12 1 = 1
def rgnStatus (s : State) (st : Stall) (r : Region) (code : Nat) : State := setF s (rgnReg st r) 16 16 code

/-! ### Where a link output leads (02 R40, R45–R49) -/

inductive Hop where
  | unit (st : Stall) (site : Site)
  /-- a yard port: 0 to 3 the mangers, 4 to 7 the sheds -/
  | port (k : Fin 8)
  | none
  deriving DecidableEq, Repr

/-- A stall whose units run: in service with its core on. -/
def unitsOn (s : State) (st : Stall) : Bool := stallState s st == .inService && coreOn s st && s.power.on

/-- Stalls that an entry past its third abort point has clock-gated, their lanes closed at the edges: those of its mask, all
of them where HUSH or DORM is entered (14 R427, step 3). -/
def gated (s : State) (st : Stall) : Bool :=
  s.power.entry.any (fun e => decide (3 ≤ getF s (aonReg 0) 3 3) && (e.target != 1 || bitOf e.mask.toNat st.val))

/-- A stall whose units run and are clocked. -/
def unitsRun (s : State) (st : Stall) : Bool := unitsOn s st && !gated s st

/-- Going sideways from a column, the first stall with running units, else the shed at that end: spares in relay and
stalls off in TRIM forward, failed ones are bypassed. The fuel is the columns left. -/
def sideways (s : State) (row : Fin 4) (right : Bool) (y : Nat) : Nat → Nat → Hop
  | 0, _ => .port (if right then (if row.val < 2 then 6 else 7) else (if row.val < 2 then 4 else 5))
  | fuel + 1, c =>
    let c' : Nat := if right then c + 1 else c - 1
    let st := mkStall row ⟨c' % 8, by omega⟩
    if unitsOn s st then .unit st (siteAt (if right then 0 else 23) y)
    else sideways s row right y fuel c'

/-- Going up or down from a logical position, the stall of the same logical column in the next row, or the manger that
the edge stall faces. A stall whose core is off forwards; so does a stall in relay of a row that carries no positions any
more, in the column at which the route reaches it (R48). The fuel is the rows left. -/
def updown (s : State) (down : Bool) (x : Nat) : Nat → Nat → Nat → Nat → Hop
  | 0, _, _, col => .port (if down then (if col < 4 then 2 else 3) else (if col < 4 then 0 else 1))
  | fuel + 1, row, lcol, col =>
    let row' : Nat := if down then row + 1 else row - 1
    match lpStall s (row' * 7 + lcol) with
    | some st => if coreOn s st then .unit st (siteAt x (if down then 0 else 23)) else updown s down x fuel row' lcol (stallCol st)
    | none =>
      if stallState s (mkStall ⟨row' % 4, by omega⟩ ⟨col % 8, by omega⟩) = .failed then .none
      else updown s down x fuel row' lcol col

/-- What lies beyond an output of a unit. -/
def hopOf (s : State) (st : Stall) (site : Site) (d : Dir) : Hop :=
  let x := site.val % 24
  let y := site.val / 24
  let row := stallRow st
  match d with
  | .loc => .unit st site
  | .north => if 0 < y then .unit st (siteAt x (y - 1)) else
      (match stallLp s st with
       | some p => updown s false x row.val row.val (p % 7) (stallCol st)
       | none => .none)
  | .south => if y < 23 then .unit st (siteAt x (y + 1)) else
      (match stallLp s st with
       | some p => updown s true x (3 - row.val) row.val (p % 7) (stallCol st)
       | none => .none)
  | .west => if 0 < x then .unit st (siteAt (x - 1) y) else sideways s row false y (stallCol st) (stallCol st)
  | .east => if x < 23 then .unit st (siteAt (x + 1) y) else sideways s row true y (7 - stallCol st) (stallCol st)

/-- The edge crossing that an output passes: edge 0 top, 1 right, 2 bottom, 3 left, and the crossing's index. -/
def crossingOf (site : Site) (d : Dir) : Option (Fin 4 × Fin 24) :=
  let x : Fin 24 := ⟨site.val % 24, by omega⟩
  let y : Fin 24 := ⟨site.val / 24, by omega⟩
  match d with
  | .north => if y.val = 0 then some (0, x) else none
  | .east => if x.val = 23 then some (1, y) else none
  | .south => if y.val = 23 then some (2, x) else none
  | .west => if x.val = 0 then some (3, y) else none
  | .loc => none

/-- The input direction at which a token sent through an output arrives. -/
def arriveDir : Dir → Dir
  | .north => .south | .east => .west | .south => .north | .west => .east | .loc => .loc

def crossKey (st : Stall) (e : Fin 4) (i : Fin 24) : Nat := st.val * 96 + e.val * 24 + i.val
def crossOf (s : State) (st : Stall) (e : Fin 4) (i : Fin 24) : Crossing := mget s.yard.crossings {} (crossKey st e i)
def putCross (s : State) (st : Stall) (e : Fin 4) (i : Fin 24) (x : Crossing) : State :=
  onYard s (fun y => { y with crossings := mset y.crossings {} (crossKey st e i) x })

/-- The crossing at the far end of an output that leads to another stall. -/
def farCrossing (s : State) (st : Stall) (site : Site) (d : Dir) : Option (Stall × Fin 4 × Fin 24) :=
  match hopOf s st site d with
  | .unit st' site' => if st' = st then none else (crossingOf site' (arriveDir d)).map (fun c => (st', c))
  | _ => none

/-- Whether the crossing behind an output is usable. One that failed at either of its ends carries tokens in neither
direction (DEDUCED, log entry 120: R67 names the crossing and no direction). -/
def crossingUp (s : State) (st : Stall) (site : Site) (d : Dir) : Bool :=
  match crossingOf site d with
  | some (e, i) => !(crossOf s st e i).failed && !(farCrossing s st site d).any (fun c => (crossOf s c.1 c.2.1 c.2.2).failed)
  | none => true

end Sys2Proof.Machine
end

