-- ==== Sys2Proof/Machine/Access.lean ====
section
/-! DEFINITION. Reading and writing the local address space in pieces that stay within one 64 B line: translation,
poison marks, the tags of MEM lines, protection, writes held by a move, and the events of a refusal
(01 R36; 05 R156; 09 R281; 10 R298, R303, R306, R318; 13 R397; 14 R421). -/

namespace Sys2Proof.Machine

/-- The access event of an access that is not performed (00 R6, 01 R30; 13 R393). -/
def accessEvent (s : State) (a size : Nat) (write : Bool) : State :=
  emit s (srcShed 0 0x30) 0x0981 a (size % 16 + (flag write) <<< 4)

/-- Cut `n` bytes at `a` into pieces within lines: address and length. -/
def piecesFrom : Nat → Nat → Nat → List (Nat × Nat)
  | 0, _, _ => []
  | fuel + 1, a, n =>
    if n = 0 then [] else
    let k := min n (64 - a % 64)
    (a, k) :: piecesFrom fuel (a + k) (n - k)

def pieces (a n : Nat) : List (Nat × Nat) := piecesFrom (n / 64 + 2) a n

/-- The two words of a sync object as any agent reads them (11 R327–R329). -/
def objOf (s : State) (key : Nat) : SyncObj := mget s.sync.objs {} key

def objStateWord (o : SyncObj) : Nat :=
  (match o.kind with
   | .gate => o.arrivals.toNat + (flag o.gen) <<< 16 + (flag o.isOpen) <<< 17
   | _ => o.value.toNat)
  + o.rel.toNat <<< 32 + o.own.length <<< 48 + (flag (!o.ovf.isEmpty)) <<< 53 + (flag o.lost) <<< 54 + (flag o.manual) <<< 55

def objConfigWord (o : SyncObj) : Nat :=
  (match o.kind with | .free => 0 | .gate => 1 | .tally => 2)
  + (flag o.latch) <<< 2 + (flag o.open0) <<< 3 + o.count.toNat <<< 8 + o.task.toNat <<< 32

/-- `n` bytes of a stall's sync window. -/
def syncBytes (s : State) (st : Stall) (off n : Nat) : List Byte :=
  (List.range n).map (fun i =>
    let o := objOf s (st.val * 8192 + (off + i) / 0x80)
    let k := (off + i) % 0x80
    if k < 8 then BitVec.ofNat 8 (objStateWord o >>> (8 * k))
    else if k < 16 then BitVec.ofNat 8 (objConfigWord o >>> (8 * (k - 8))) else 0)

/-- Whether a place's line lies in a block lost with its interface and not rewritten whole since (10 R318, R319). -/
def lineLost (s : State) (p tier name : Nat) : Bool :=
  (tier == 1 && ifaceLost s (blockIface s (p / segSize) (p % segSize / 4096)) && (mfind s.homes.lostClean (p / 64)).isNone)
  || frameLost s name

/-- The status of an access to one piece; 0 when it is served (01 R36). -/
def readCode (s : State) (a : Nat) : Nat :=
  match locate s a with
  | .refused c => c
  | _ => 0

/-- Bytes and poison of one piece. Register space answers zeros to reads of these sizes (00 R6). -/
def readPiece (s : State) (a n : Nat) : List Byte × Bool :=
  match locate s a with
  | .mem p mark tier name => (readBytes s p n, (mfind s.poison (mark / 64)).isSome || lineLost s p tier name)
  | .sync st off => (syncBytes s st off n, false)
  | _ => (List.replicate n 0, false)

/-- The status of reading a range: that of its first refused piece. -/
def rangeCode (s : State) (a n : Nat) : Nat :=
  ((pieces a n).map (fun q => readCode s q.1)).foldl (fun c d => if c = 0 then d else c) 0

/-- The first address of a range that is refused. -/
def refusedAt (s : State) (a n : Nat) : Nat :=
  (((pieces a n).find? (fun q => readCode s q.1 ≠ 0)).map Prod.fst).getD a

def readRange (s : State) (a n : Nat) : List Byte :=
  (pieces a n).flatMap (fun q => (readPiece s q.1 q.2).1)

def poisonRange (s : State) (a n : Nat) : Bool := (pieces a n).any (fun q => (readPiece s q.1 q.2).2)

/-- Bytes of a range, none when refused. -/
def readMem (s : State) (a n : Nat) : Option (List Byte × Bool) :=
  if rangeCode s a n = 0 then some (readRange s a n, poisonRange s a n) else none

/-- A record read as a number; none when refused or poisoned. -/
def readRec (s : State) (a n : Nat) : Option Nat :=
  match readMem s a n with
  | some (b, false) => some (ofBytes b)
  | _ => none

/-- Agents whose writes are Ivain's (10 R303). -/
def isIvain : Agent → Bool
  | .groom => true
  | _ => false

/-- Agents that may write derived segments: update engines and fetch barrows (10 R303). -/
def writesDerived : Agent → Bool
  | .engine _ => true
  | .fetch _ _ _ _ => true
  | _ => false

/-- Whether the host-window entry behind a tier-5 name lets the device only read (13 R396, R397). -/
def hostReadOnly (s : State) (name : Nat) : Bool :=
  let i := match nameRec s name with
    | some r => r.frame
    | none => name - 0x220000000000 / segSize
  match mfind s.homes.hostwin i with
  | some w => w.ro
  | none => false

/-- The status of a write to one piece; 0 when admitted (10 R303, 11 R327, 13 R397). -/
def writeCode (s : State) (who : Agent) (a : Nat) : Nat :=
  match locate s a with
  | .refused c => c
  | .sync _ _ => 0x040A
  | .reg => 0
  | .mem _ _ tier name =>
    if tier == 5 && hostReadOnly s name then 0x0302
    else match (if tier = 0 then none else nameRec s name) with
      | some r =>
        if r.prot = 1 ∧ !writesDerived who then 0x0302
        else if r.prot = 2 ∧ !isIvain who then 0x0302 else 0
      | none => 0

/-- Writes to a name that is moving are held (10 R306). -/
def nameMoving (s : State) (a : Nat) : Bool :=
  match locate s a with
  | .mem _ _ tier name => tier != 0 && s.homes.moves.any (fun j => j.name == name)
  | _ => false

def writeRangeCode (s : State) (who : Agent) (a n : Nat) : Nat :=
  ((pieces a n).map (fun q => writeCode s who q.1)).foldl (fun c d => if c = 0 then d else c) 0

def writeRefusedAt (s : State) (who : Agent) (a n : Nat) : Nat :=
  (((pieces a n).find? (fun q => writeCode s who q.1 ≠ 0)).map Prod.fst).getD a

def rangeMoving (s : State) (a n : Nat) : Bool := (pieces a n).any (fun q => nameMoving s q.1)

/-- The poison mark after a write (09 R281): set by poison, cleared by a clean write of the whole line. -/
def markAfter (s : State) (mark n : Nat) (poison : Bool) : State :=
  if poison then { s with poison := mput s.poison (mark / 64) () }
  else if n = 64 then { s with poison := mdel s.poison (mark / 64) } else s

/-- The MAT whose buffers hold a place, when it runs an instruction (04 R136). -/
def runningMat (s : State) (p : Nat) : Option (Stall × Site) :=
  if h : 0xF00000000000 ≤ p ∧ p < 0xF02000000000 ∧ 0x10000000 ≤ p % 0x100000000 then
    let st : Stall := ⟨(p - 0xF00000000000) / 0x100000000, by omega⟩
    let k := (p % 0x100000000 - 0x10000000) / 0x20000
    let site := siteOf .mat k
    if (unitOf s st site).mat.any (fun e => e.2.issue.isSome) then some (st, site) else none
  else none

/-- Write one piece within a line. A write that is not a BX16 write clears the line's tag-valid bit in a MEM; a write to
the buffers of a running MAT is discarded (04 R136). Barrows, MEMs and engines write whole 64 B lines, a part of one under
byte enables; in register space that is a size other than 4 or 8 B, which is not performed and recorded (00 R6; log
entry 21). -/
def writePiece (s : State) (a : Nat) (d : List Byte) (poison : Bool) : State :=
  match locate s a with
  | .mem p mark tier _ =>
    match runningMat s p with
    | some (st, site) => emit s (srcIsland st site) 0x028B a 0
    | none =>
    let s := markAfter (putBytes s p d) mark d.length poison
    let s := if tier = 0 then { s with tags := mdel s.tags (p / 64) } else s
    if tier = 1 ∧ d.length = 64 ∧ ifaceLost s (blockIface s (p / segSize) (p % segSize / 4096)) then
      onHomes s (fun h => { h with lostClean := mput h.lostClean (p / 64) () })
    else s
  | .reg => accessEvent s a d.length true
  | _ => s

/-- Names touched by an access, for their ages (10 R312), re-homed first where their frame is lost (10 R318). -/
def touchAt (s : State) (a : Nat) : State :=
  match locate s a with
  | .mem _ _ tier name => if tier = 0 then s else touchName (rehome s name) name
  | _ => s

/-- The names of a range, one address each. -/
def segsOf (a n : Nat) : List Nat :=
  if n = 0 then [] else (List.range ((a + n - 1) / segSize - a / segSize + 1)).map
    (fun i => if i = 0 then a else (a / segSize + i) * segSize)

def touchRange (s : State) (a n : Nat) : State := each (segsOf a n) touchAt s

def writePieces (s : State) (poison : Bool) : List (Nat × Nat) → List Byte → State
  | [], _ => s
  | (a, k) :: t, d => writePieces (writePiece s a (d.take k) poison) poison t (d.drop k)

/-- Write bytes to a range that admits them. -/
def writeRange (s : State) (a : Nat) (d : List Byte) (poison : Bool) : State :=
  writePieces (touchRange s a d.length) poison (pieces a d.length) d

/-- The event source of a barrow: its island, or its number in a manger (09 R287). -/
def barrowSource (b : BrwId) : BitVec 16 :=
  if h : b.die.val < 32 then srcIsland ⟨b.die.val, h⟩ (iouSite b.b)
  else srcManger ⟨(b.die.val - 32) % 4, by omega⟩ (0x28 + b.b.val % 8)

/-- The event source of an agent: the die that holds it. -/
def agentSource (s : State) : Agent → BitVec 16
  | .barrow b => barrowSource b
  | .image b => barrowSource b
  | .seq r _ => regionSource s r
  | .claimer b => srcIsland ⟨b.die.val % 32, by omega⟩ (iouSite b.b)
  | .engine e => srcManger ⟨e.val / 4, by omega⟩ (0x20 + e.val % 4)
  | .fetch m b _ _ => srcManger m (0x2C + b.val)
  | .window r => regionSource s r
  | .moveRing m => srcManger m 0x3F
  | .norm _ => srcManger 0 0x3F
  | .gnorm => srcManger 0 0x3F
  | .pin _ _ => srcManger 0 0x3F
  | .groom => srcGroom s
  | .host => srcShed 0 0x30
  | .remote _ _ => srcShed 0 0x3F
  | .unit st site => srcIsland st site

/-- The memory-area event of a refused access (01 R36, 10 R325). -/
def refuseEvent (s : State) (who : Agent) (a code : Nat) : State :=
  emit s (agentSource s who) 0x0381 a code

/-- The same for a source that is no agent of its own: a read of a range that is refused is recorded. -/
def refuseAt (s : State) (src : BitVec 16) (a n : Nat) : State :=
  if rangeCode s a n = 0 then s else emit s src 0x0381 (refusedAt s a n) (rangeCode s a n)

/-- Whether an address lies in register space. -/
def isReg (s : State) (a : Nat) : Bool := match locate s a with | .reg => true | _ => false

/-- What a read of a range records (00 R6, 01 R30, R36): the memory-area event of its first refused address, or an access
event for each line of register space, which is not performed in that size. -/
def noteRead (s : State) (who : Agent) (a n : Nat) : State :=
  let c := rangeCode s a n
  if c ≠ 0 then refuseEvent s who (refusedAt s a n) c
  else each ((pieces a n).filter (fun q => isReg s q.1)) (fun s q => accessEvent s q.1 q.2 false) s

/-- The memory-area event of a write that is refused (01 R36, 10 R303). -/
def noteWrite (s : State) (who : Agent) (a n : Nat) : State :=
  let c := writeRangeCode s who a n
  if c ≠ 0 then refuseEvent s who (writeRefusedAt s who a n) c else s

/-- Write bytes for an agent; a write that is refused leaves its memory-area event. -/
def writeMem (s : State) (who : Agent) (a : Nat) (d : List Byte) (poison : Bool) : State :=
  if writeRangeCode s who a d.length = 0 then writeRange s a d poison else noteWrite s who a d.length

end Sys2Proof.Machine
end

