-- ==== Sys2Proof/Machine/Sync.lean ====
section
/-! DEFINITION. Gates and tallies (11): references, the operations on one object, waiter lists, releases, refused waits,
and the commands SIGNAL to READ, WAITER_WAKE's delivery excepted, and WAIT_RETRY. -/

namespace Sys2Proof.Machine

/-! ### References (11 R326) -/

inductive SyncOp where
  | signal | arrive | arriveWait | add | sub | fetchAdd | waitGe | take | read
  deriving DecidableEq, Repr

/-- Operation codes of R331; the others are illegal. -/
def syncOpOf (code : Nat) : Option SyncOp :=
  match code with
  | 0 => some .signal | 1 => some .arrive | 2 => some .arriveWait | 3 => some .add | 4 => some .sub
  | 5 => some .fetchAdd | 6 => some .waitGe | 7 => some .take | 8 => some .read
  | _ => none

def srefObj (r : Sref) : Nat := recBits r 0 13
def srefLp (r : Sref) : Nat := recBits r 13 5
/-- A legal reference names a position up to 27 and sets no reserved bit. -/
def srefLegal (r : Sref) : Bool := decide (srefLp r ≤ 27 ∧ recBits r 18 6 = 0)

/-- Key of an object: physical stall and index. -/
def objKey (st : Stall) (i : Nat) : Nat := st.val * 8192 + i % 8192
def keyObjStall (k : Nat) : Stall := ⟨k / 8192 % 32, by omega⟩

def putObj (s : State) (k : Nat) (o : SyncObj) : State :=
  onSync s (fun y => { y with objs := mset y.objs {} k o })

/-- The object that a reference names now, or the status of refusing it (11 R326, R344, R352; 01 R36; 14 R421). -/
def findObj (s : State) (r : Sref) : Except Nat Nat :=
  if !srefLegal r then .error 0x0408
  else if pstate s ≥ 2 then .error 0x0606
  else match lpStall s (srefLp r) with
    | none => .error 0x0408
    | some st => if coreOn s st then .ok (objKey st (srefObj r)) else .error 0x0301

/-- Where an object lies in the sync window of the stall that carries its position (11 R327). -/
def objAddr (s : State) (r : Sref) : Nat :=
  0xF80000000000 + ((lpStall s (srefLp r)).map (·.val)).getD (srefLp r) * 0x100000 + srefObj r * 0x80

/-! ### One object -/

/-- Waiters of an object, oldest first (11 R339). -/
def waiters (o : SyncObj) : List Waiter := o.own ++ o.ovf

/-- Keep the oldest 16 in the own list. -/
def setWaiters (o : SyncObj) (l : List Waiter) : SyncObj := { o with own := l.take 16, ovf := l.drop 16 }

/-- Serve TAKE waiters oldest first until one cannot be met (11 R336): the value left, those released with their
results, and whether a TAKE still waits. -/
def serveTakes : BitVec 32 → List Waiter → BitVec 32 × List (Waiter × BitVec 32) × List Waiter
  | v, [] => (v, [], [])
  | v, w :: t =>
    if w.kind = .take then
      if w.n.toNat ≤ v.toNat then
        let (v', rel, rest) := serveTakes (v - w.n) t
        (v', (w, v - w.n) :: rel, rest)
      else (v, [], w :: t)
    else
      let (v', rel, rest) := serveTakes v t
      (v', rel, w :: rest)

/-- Serve a tally's waiters on a change of value or a new wait (11 R336). -/
def serveTally (o : SyncObj) : SyncObj × List (Waiter × BitVec 32) :=
  let met (w : Waiter) : Bool := w.kind = .ge && decide (w.n.toNat ≤ o.value.toNat)
  let ge := (waiters o).filter met
  let (v, rel, rest) := serveTakes o.value ((waiters o).filter (fun w => !met w))
  (setWaiters { o with value := v } rest, ge.map (fun w => (w, o.value)) ++ rel)

/-- Release a gate (11 R334, R335). -/
def releaseGate (o : SyncObj) : SyncObj × List (Waiter × BitVec 32) :=
  let o' := { o with gen := !o.gen, rel := o.rel + 1, arrivals := 0, isOpen := o.latch || o.isOpen, own := [], ovf := [] }
  (o', (waiters o).map (fun w => (w, BitVec.ofNat 32 (flag o'.gen))))

/-- A counted arrival at a gate. On a latched gate the first one after a release clears open. -/
def countArrival (o : SyncObj) : SyncObj × List (Waiter × BitVec 32) :=
  let o := if o.latch then { o with isOpen := false } else o
  if o.arrivals.toNat + 1 ≥ o.count.toNat then releaseGate { o with arrivals := o.arrivals + 1 }
  else ({ o with arrivals := o.arrivals + 1 }, [])

/-- What one operation does to its object. -/
structure OpOut where
  obj : SyncObj
  status : Nat := 0
  /-- the immediate reply's result; none where the operation sends no reply or waits -/
  reply : Option (BitVec 32) := none
  releases : List (Waiter × BitVec 32) := []
  deriving DecidableEq, Repr

/-- Register a wait, if a list has room. -/
def register (o : SyncObj) (w : Waiter) (room : Bool) : Option SyncObj :=
  if o.own.length < 16 ∧ o.ovf = [] then some { o with own := o.own ++ [w] }
  else if room then some { o with ovf := o.ovf ++ [w] } else none

/-- The operation on an object (11 R331–R337, R339, R340). `room` says that the stall's overflow list has an entry. -/
def applyOp (o : SyncObj) (a : Agent) (op : SyncOp) (n : BitVec 32) (room : Bool) : OpOut :=
  match o.kind, op with
  | .free, _ => { obj := o, status := 0x0401 }
  | .gate, .signal => let (p, l) := countArrival o; { obj := p, releases := l }
  | .gate, .arrive => let (p, l) := countArrival o; { obj := p, releases := l }
  | .gate, .arriveWait =>
    if o.latch then
      if o.isOpen then { obj := o, reply := some (BitVec.ofNat 32 (flag o.gen)) }
      else match register o { agent := a, kind := .gate } room with
        | some p => { obj := p }
        | none => { obj := o, status := 0x0405 }
    else match register o { agent := a, kind := .gate } room with
      | some p => let (q, l) := countArrival p; { obj := q, releases := l }
      | none => { obj := o, status := 0x0405 }
  | .gate, .read => { obj := o, reply := some (BitVec.ofNat 32 (objStateWord o)) }
  | .gate, _ => { obj := o, status := 0x0402 }
  | .tally, .signal =>
    if o.value.toNat + 1 < 2 ^ 32 then let (p, l) := serveTally { o with value := o.value + 1 }; { obj := p, releases := l }
    else { obj := o, status := 0x0404 }
  | .tally, .add =>
    if o.value.toNat + n.toNat < 2 ^ 32 then let (p, l) := serveTally { o with value := o.value + n }; { obj := p, releases := l }
    else { obj := o, status := 0x0404 }
  | .tally, .sub =>
    if n.toNat ≤ o.value.toNat then let (p, l) := serveTally { o with value := o.value - n }; { obj := p, releases := l }
    else { obj := o, status := 0x0403 }
  | .tally, .fetchAdd =>
    if o.value.toNat + n.toNat < 2 ^ 32 then
      let (p, l) := serveTally { o with value := o.value + n }; { obj := p, releases := l, reply := some o.value }
    else { obj := o, status := 0x0404, reply := some o.value }
  | .tally, .waitGe =>
    if n.toNat ≤ o.value.toNat then { obj := o, reply := some o.value }
    else match register o { agent := a, kind := .ge, n := n } room with
      | some p => { obj := p }
      | none => { obj := o, status := 0x0405 }
  | .tally, .take =>
    if n.toNat ≤ o.value.toNat ∧ !(waiters o).any (fun w => w.kind = .take) then
      { obj := { o with value := o.value - n }, reply := some (o.value - n) }
    else match register o { agent := a, kind := .take, n := n } room with
      | some p => { obj := p }
      | none => { obj := o, status := 0x0405 }
  | .tally, .read => { obj := o, reply := some o.value }
  | .tally, _ => { obj := o, status := 0x0402 }

/-! ### The operation in the block -/

def synReg (st : Stall) (off : Nat) : Nat := stallReg st (0x1A0000 + off)

/-- Overflow entries of a stall in use (11 R339). -/
def ovfUsed (s : State) (st : Stall) : Nat :=
  (s.sync.objs.filter (fun e => keyObjStall e.1 == st)).foldl (fun n e => n + e.2.ovf.length) 0

/-- A release token or a reply on its way to an agent (11 R341). -/
def wakeAgent (s : State) (w : Wake) : State := onSync s (fun y => { y with wakes := y.wakes ++ [w] })

def wakeAll (s : State) (l : List (Waiter × BitVec 32)) : State :=
  onSync s (fun y => { y with wakes := y.wakes ++ l.map (fun e => { agent := e.1.agent, result := e.2 }) })

/-- A unit's signal has no return reference (11 R331, R344). -/
def hasRet : Agent → Bool
  | .unit _ _ => false
  | _ => true

/-- Report a refused operation: to the sender, or in an event when it has no return reference. -/
def syncFail (s : State) (a : Agent) (ret : Bool) (src : BitVec 16) (sref : Sref) (status : Nat) (result : BitVec 32) : State :=
  if ret then wakeAgent s { agent := a, status := BitVec.ofNat 16 status, result := result }
  else emit s src status sref.toNat 0

/-- An illegal reference is counted at the sender's stall (11 R350). -/
def countRef (s : State) (src : BitVec 16) : State :=
  let i := field src.toNat 6 6
  if h : field src.toNat 12 4 = 0 ∧ i < 32 then satF s (synReg ⟨i, h.2⟩ 0x18) 48 16 1 else s

/-- Count a refusal by its cause (11 R350), and record an underflow event. -/
def countRefusal (s : State) (st : Stall) (sref : Sref) (n : BitVec 32) (status : Nat) : State :=
  match status with
  | 0x0403 => emit (satF s (synReg st 0x18) 0 16 1) (srcStall st 0x3F) 0x0482 sref.toNat n.toNat
  | 0x0404 => satF s (synReg st 0x18) 16 16 1
  | 0x0401 => satF s (synReg st 0x18) 32 16 1
  | 0x0402 => satF s (synReg st 0x18) 32 16 1
  | _ => s

/-- 2^20 cycles of 1.8 GHz in ns, within which one wait-refused event is recorded (11 R340). -/
def refusedSpan : Nat := 2 ^ 20 * 5 / 9

/-- A wait that both lists refuse: held in its agent, counted, and the first within 2^20 cycles recorded. -/
def refuseWait (s : State) (st : Stall) (a : Agent) (kind : WaitKind) (sref : Sref) (n : BitVec 32) : State :=
  let s := satF s (synReg st 8) 32 32 1
  let old := mfind s.sync.refusedAt st.val
  let first := match old with | none => true | some t => decide (t + refusedSpan ≤ s.time)
  let s := if first then
      onSync (emit s (srcStall st 0x3F) 0x0481 (sref.toNat + (getF s (shedReg 0 0) 0 16) <<< 24) (ovfUsed s st))
        (fun y => { y with refusedAt := mput y.refusedAt st.val s.time })
    else s
  let iv := BitVec.ofNat 8 (getF s (synReg st 0) 0 8)
  match a with
  | .remote _ _ => wakeAgent s { agent := a, status := 0x0405, result := iv.setWidth 32 }
  | _ => onSync s (fun y => { y with retries := y.retries ++ [{ agent := a, kind := kind, sref := sref, n := n, interval := iv }] })

def waitKindOf : SyncOp → WaitKind
  | .arriveWait => .gate
  | .take => .take
  | _ => .ge

/-- An operation on the object that a reference names (11 R330–R341). `ret` says that the sender takes replies;
`src` is the sender's event source. -/
def syncCore (s : State) (a : Agent) (ret : Bool) (src : BitVec 16) (op : SyncOp) (sref : Sref) (n : BitVec 32) : State :=
  match findObj s sref with
  | .error code =>
    let s := if code = 0x0408 then countRef s src
      else emit s src 0x0381 (objAddr s sref) code
    syncFail s a ret src sref code 0
  | .ok k =>
    let st := keyObjStall k
    let r := applyOp (objOf s k) a op n (ovfUsed s st < 1024)
    let s := putObj s k r.obj
    let s := wakeAll s r.releases
    let u := ovfUsed s st
    let s := if getF s (synReg st 8) 16 11 < u then setF s (synReg st 8) 16 11 u else s
    if r.status = 0 then
      let s := satF s (synReg st 0x10) 0 48 1
      match r.reply with
      | some v => wakeAgent s { agent := a, result := v }
      | none => s
    else if r.status = 0x0405 then refuseWait s st a (waitKindOf op) sref n
    else syncFail (countRefusal s st sref n r.status) a ret (srcStall st 0x3F) sref r.status (r.reply.getD 0)

/-- An operation that an agent sends. -/
def syncOp (s : State) (a : Agent) (op : SyncOp) (sref : Sref) (n : BitVec 32) : State :=
  syncCore s a (hasRet a) (agentSource s a) op sref n

/-- A plain signal sent by whatever completed a write (11 R343); it has no return reference. -/
def applySignal (s : State) (a : Agent) (sref : Sref) : State :=
  syncCore s a false (agentSource s a) .signal sref 0

/-- Complete with a status every wait of chosen agents, and drop their refused waits; those removed are counted
nowhere (11 R346–R348). -/
def completeWaits (s : State) (pick : Nat → Waiter → Bool) (status : Nat) : State :=
  let hits := s.sync.objs.flatMap (fun e => ((waiters e.2).filter (pick e.1)).map (fun w => w.agent))
  onSync s (fun y => { y with
    objs := y.objs.map (fun e => (e.1, setWaiters e.2 ((waiters e.2).filter (fun w => !pick e.1 w))))
    wakes := y.wakes ++ hits.map (fun a => { agent := a, status := BitVec.ofNat 16 status }) })

/-! ### The commands -/

def execSignal (a : Agent) (sref : Sref) (s : State) : Host.Outcome State Fault Refusal :=
  finish s (syncOp s a .signal sref 0)
def execArrive (a : Agent) (sref : Sref) (s : State) : Host.Outcome State Fault Refusal :=
  finish s (syncOp s a .arrive sref 0)
def execArriveWait (a : Agent) (sref : Sref) (s : State) : Host.Outcome State Fault Refusal :=
  finish s (syncOp s a .arriveWait sref 0)
def execAdd (a : Agent) (sref : Sref) (n : BitVec 32) (s : State) : Host.Outcome State Fault Refusal :=
  finish s (syncOp s a .add sref n)
def execSub (a : Agent) (sref : Sref) (n : BitVec 32) (s : State) : Host.Outcome State Fault Refusal :=
  finish s (syncOp s a .sub sref n)
def execFetchAdd (a : Agent) (sref : Sref) (n : BitVec 32) (s : State) : Host.Outcome State Fault Refusal :=
  finish s (syncOp s a .fetchAdd sref n)
def execWaitGe (a : Agent) (sref : Sref) (n : BitVec 32) (s : State) : Host.Outcome State Fault Refusal :=
  finish s (syncOp s a .waitGe sref n)
def execTake (a : Agent) (sref : Sref) (n : BitVec 32) (s : State) : Host.Outcome State Fault Refusal :=
  finish s (syncOp s a .take sref n)
def execRead (a : Agent) (sref : Sref) (s : State) : Host.Outcome State Fault Refusal :=
  finish s (syncOp s a .read sref 0)

/-- The refused wait held longest is repeated (11 R340). -/
def execWaitRetry (s : State) : Host.Outcome State Fault Refusal :=
  finish s (match s.sync.retries with
    | [] => s
    | r :: t =>
      let s := onSync s (fun y => { y with retries := t })
      let op := match r.kind with | .gate => SyncOp.arriveWait | .ge => .waitGe | .take => .take
      syncOp s r.agent op r.sref r.n)

/-- Withdraw every wait, reply and refused wait of some agents. -/
def dropWaits (s : State) (p : Agent → Bool) : State :=
  onSync s (fun y => { y with
    objs := y.objs.map (fun e => (e.1, setWaiters e.2 ((waiters e.2).filter (fun w => !p w.agent))))
    wakes := y.wakes.filter (fun w => !p w.agent), retries := y.retries.filter (fun w => !p w.agent) })

end Sys2Proof.Machine
end

