-- ==== Sys2Proof/Machine/Operands.lean ====
section
/-! DEFINITION. The operand forms: tensor descriptors, their checks and extensions, distributed tensors, where each
element and scale lies (09 R255–R263), reading values, writing codes bit by bit, and bale-record arrays (05 R166). -/

namespace Sys2Proof.Machine

def baleSize (code : Nat) : Nat := if code = 0 then 0 else 8 * 2 ^ code

def sizeAt (t : Tensor) (d : Nat) : Nat := t.size.getD d 1
def strideAt (t : Tensor) (d : Nat) : Int := t.stride.getD d 0

/-- The fields of a descriptor, with those of the extension when it is given. -/
def tensorOf (w : Nat) (x : Option Nat) : Tensor :=
  let rank := field w 48 3
  { addr := field w 0 48, rank := rank, fmt := field w 51 4, dist := bitOf w 55
    bale := baleSize (field w 56 3), baxis := field w 59 3, sfmt := if bitOf w 62 then 0xE else 0xD, sat := bitOf w 63
    size := (List.range 6).map (fun d => if d < rank then field w (64 + 32 * d) 32 else 1)
    stride := (List.range 6).map (fun d => if d = 0 then 1 else if d < rank then signedField w (208 + 48 * d) 48 else 0)
    ppol := field w 496 2, ipol := field w 498 2, lsel := bitOf w 500, hasExt := bitOf w 501
    saddr := field (x.getD 0) 0 48, brec := field (x.getD 0) 48 48, layer := field (x.getD 0) 96 12
    stats := bitOf (x.getD 0) 108
    sstride := (List.range 6).map (fun d => if d < rank then signedField (x.getD 0) (112 + 48 * d) 48 else 0) }

/-! ### Checks (05 R142, R148; 09 R256, R260, R261) -/

/-- May a format be baled, must it be, or never, and by what size and scale (05 R142, R148). -/
def baleLegal (t : Tensor) : Bool :=
  decide (t.bale ≤ 128) &&
  if t.lsel then t.fmt == 2 && t.bale == 32 && t.sfmt == 0xD
  else if t.fmt = 0xC then t.bale ≥ 32 && t.sfmt == 0xD
  else if t.bale = 0 then true
  else 0x4 ≤ t.fmt && t.fmt ≤ 0xA

/-- Strides and addresses as the format asks (09 R256). -/
def stridesLegal (t : Tensor) : Bool :=
  let ss := (List.range 6).filter (fun d => decide (0 < d ∧ d < t.rank))
  let mult (k : Int) : Bool := ss.all (fun d => strideAt t d % k == 0)
  let addrOk (k : Nat) : Bool := t.dist || t.addr % k == 0
  match fmtBits t.fmt with
  | 4 => mult 2
  | 6 => mult 4
  | 40 => mult 8 && sizeAt t 0 % 8 == 0 && addrOk 8
  | w => addrOk (w / 8)

/-- A destination has no stride 0 in a dimension larger than 1 (09 R257). -/
def destLegal (t : Tensor) : Bool :=
  (List.range 6).all (fun d => !(decide (d < t.rank) && decide (1 < sizeAt t d) && strideAt t d == 0))

def fieldsLegal (w : Nat) (t : Tensor) : Bool :=
  decide (1 ≤ t.rank ∧ t.rank ≤ 6) && t.fmt != 0xF && decide (t.baxis < t.rank)
  && field w 502 10 == 0 && decide (t.ppol < 2) && t.ipol != 3

def extLegal (x : Nat) : Bool := field x 109 3 == 0 && field x 400 112 == 0

/-- The module's own identifier (12 R383). -/
def ownModule (s : State) : ModuleId := BitVec.ofNat 16 (getF s (shedReg 0 0) 0 16)

/-- Block sizes of an owner table's header (09 R262). -/
def blockSizes (h : Nat) : List Nat := (List.range 6).map (fun d => field h (32 * d) 32)

/-- Blocks along each dimension. -/
def blockCounts (t : Tensor) (bs : List Nat) : List Nat :=
  (List.range 6).map (fun d => ceilDiv (sizeAt t d) (bs.getD d 1))

/-- The owner table's rules that a check at issue can see (09 R262, R263): 0, or the status. -/
def ownerCode (s : State) (t : Tensor) : Nat :=
  if t.addr % 64 ≠ 0 then 0x0104 else
  match readRec s t.addr 64 with
  | none => 0x0104
  | some h =>
    let bs := blockSizes h
    let n := field h 192 32
    if bs.any (· == 0) || field h 224 288 != 0 then 0x0104
    else if n ≠ (blockCounts t bs).foldl (· * ·) 1 then 0x0104
    else if t.bale ≠ 0 ∧ bs.getD t.baxis 1 % t.bale ≠ 0 then 0x0104
    else
      let es := (List.range n).map (fun i => readRec s (t.addr + 64 + 16 * i) 16)
      if es.any (·.isNone) then 0x0104
      else if es.any (fun e => match e with
          | some e => field e 25 7 != 0 || (field e 16 8 != 0xFF && decide (27 < field e 16 8))
          | none => true) then 0x0104
      else if es.any (fun e => match e with
          | some e => field e 16 8 != 0xFF && field e 0 16 != (ownModule s).toNat
          | none => true) then 0x010C
      else 0

/-- A descriptor and its extension as read; none when one is refused or poisoned (09 R261, first row). -/
def descWords (s : State) (a : Nat) : Option (Nat × Nat) :=
  match readRec s a 64 with
  | none => none
  | some w => if bitOf w 501 then (readRec s (a + 64) 64).map (fun x => (w, x)) else some (w, 0)

/-- What reading a descriptor and its extension leaves behind (01 R36, 00 R6). -/
def noteDesc (s : State) (who : Agent) (a : Nat) : State :=
  let s := noteRead s who a 64
  match readRec s a 64 with
  | some w => if bitOf w 501 then noteRead s who (a + 64) 64 else s
  | none => s

/-- The use of a descriptor: of a tensor in memory as a source, as a destination, or of a stream, whose address and strides
are ignored (09 R257, R266). -/
inductive TensorUse where
  | source | dest | stream
  deriving DecidableEq, Repr

/-- The checks of a descriptor that has been read (09 R261; 05 R142, R148): 0, or the status of the first that fails. -/
def tensorCode (s : State) (w x : Nat) (use : TensorUse) : Nat :=
  let t := tensorOf w (some x)
  if !fieldsLegal w t then 0x0101
  else if !baleLegal t then 0x0141
  else if use ≠ .stream ∧ (!stridesLegal t || (use == .dest && !destLegal t)) then 0x0103
  else if (t.bale ≠ 0 ∨ t.lsel) ∧ !t.hasExt then 0x0101
  else if t.hasExt && !extLegal x then 0x0101
  else if t.dist ∧ use ≠ .stream then ownerCode s t
  else 0

/-- Read and check a descriptor (09 R261): the tensor, or the status of the first failing check. -/
def readTensor (s : State) (a : Nat) (use : TensorUse) : Except Nat Tensor :=
  if a % 64 ≠ 0 then .error 0x0101 else
  match descWords s a with
  | none => .error 0x0102
  | some (w, x) =>
    let t := tensorOf w (some x)
    if fieldsLegal w t ∧ (t.fmt = 0xD ∨ t.fmt = 0xE) then .error 0x0140
    else match tensorCode s w x use with
      | 0 => .ok t
      | c => .error c

/-! ### The ledger's choice (05 R160, R165) -/

/-- PWR_RETAIN, the retention latch (14 R438). -/
def pwrRetain : Nat := aonReg 0x038

def ldgTbl (s : State) : Nat := (getReg s (mangerReg 0 0x200000)).toNat

/-- Address of a layer's record, when the ledger is enabled and the layer lies in its table. -/
def layerAddr (s : State) (layer : Nat) : Option Nat :=
  if bitOf (ldgTbl s) 60 ∧ layer ≤ field (ldgTbl s) 48 12 then some (field (ldgTbl s) 0 48 + 256 * layer) else none

/-- cur_fmt of a layer; BF16 where the reference is illegal (05 R178), and while the record is not warm (05 R164). A record
that names none of the three formats also reads as BF16 (the model's choice, log entry 127). -/
def curFmt (s : State) (layer : Nat) : Nat :=
  match layerAddr s layer with
  | none => 2
  | some a => match readRec s a 8 with
    | none => 2
    | some w => let f := field w 0 4; if bitOf w 6 ∧ (f = 4 ∨ f = 5) then f else 2

/-- The tensor with the format its layer selects: narrow formats are baled by 32, BF16 is not baled (05 R165). -/
def resolved (s : State) (t : Tensor) : Tensor :=
  if t.lsel then
    let f := curFmt s t.layer
    if f = 2 then { t with bale := 0, lsel := false } else { t with fmt := f, bale := 32, lsel := false }
  else t

/-! ### Index walks -/

/-- All index tuples of some sizes, dimension 0 fastest. -/
def walk : List Nat → List (List Nat)
  | [] => [[]]
  | n :: t => (walk t).flatMap (fun r => (List.range n).map (fun i => i :: r))

/-- Row-major number of a tuple, dimension 0 fastest. -/
def flatIndex : List Nat → List Nat → Nat
  | n :: t, i :: r => i + n * flatIndex t r
  | _, _ => 0

def elemCount (t : Tensor) : Nat := (t.size.take 6).foldl (· * ·) 1

/-- Where an element lies: its module when it is another's, its first bit, and its scale's address. -/
structure Spot where
  module : Option ModuleId
  bit : Nat
  scale : Nat
  deriving DecidableEq, Repr

def dotInt (ss : List Int) (is : List Nat) : Int := ((ss.zip is).map (fun p => p.1 * (p.2 : Int))).foldl (· + ·) 0

/-- Scale coordinates of an index (09 R259). -/
def scaleIdx (t : Tensor) (is : List Nat) : List Nat :=
  (List.range 6).map (fun d => if d = t.baxis ∧ t.bale ≠ 0 then is.getD d 0 / t.bale else is.getD d 0)

def spotIn (t : Tensor) (addr saddr : Nat) (m : Option ModuleId) (is : List Nat) : Spot :=
  { module := m
    bit := (((addr * 8 : Nat) : Int) + (fmtBits t.fmt : Int) * dotInt t.stride is).toNat
    scale := ((saddr : Int) + dotInt t.sstride (scaleIdx t is)).toNat }

/-- The place of an element (09 R256, R259, R263); none when its block is not held. -/
def spotOf (s : State) (t : Tensor) (is : List Nat) : Option Spot :=
  if !t.dist then some (spotIn t t.addr t.saddr none is)
  else match readRec s t.addr 64 with
    | none => none
    | some h =>
      let bs := blockSizes h
      let bi := (List.range 6).map (fun d => is.getD d 0 / (bs.getD d 1))
      let ii := (List.range 6).map (fun d => is.getD d 0 % (bs.getD d 1))
      match readRec s (t.addr + 64 + 16 * flatIndex (blockCounts t bs) bi) 16 with
      | none => none
      | some e =>
        if !bitOf e 24 then none
        else
          let m := BitVec.ofNat 16 (field e 0 16)
          if m ≠ ownModule s ∧ field e 16 8 = 0xFF then some (spotIn t (field e 32 48 + t.boff) (field e 80 48) (some m) ii)
          else if field e 16 8 = 0xFF then some (spotIn t (field e 32 48 + t.boff) (field e 80 48) none ii)
          else match lpStall s (field e 16 8) with
            | none => none
            | some st => some (spotIn t (sramAddr st (field e 32 48 + t.boff)) (sramAddr st (field e 80 48)) none ii)

/-! ### Values -/

/-- How an agent reads bytes: local ones from memory, another module's from what it has fetched. -/
abbrev Fetcher := Option ModuleId → Nat → Nat → List Byte × Bool

/-- Lines fetched from other modules. -/
abbrev Fetched := List (ModuleId × Nat × List Byte × Bool)

def fetchByte (s : State) (l : Fetched) (m : Option ModuleId) (a : Nat) : Byte × Bool :=
  match m with
  | none => ((readRange s a 1).getD 0 0, poisonRange s a 1)
  | some m => match l.find? (fun e => e.1 == m && decide (e.2.1 = a / 64 * 64)) with
    | some e => (e.2.2.1.getD (a % 64) 0, e.2.2.2)
    | none => (0, false)

def fetchBytes (s : State) (l : Fetched) (m : Option ModuleId) (a n : Nat) : List Byte × Bool :=
  match m with
  | none => (readRange s a n, poisonRange s a n)
  | some _ =>
    let bs := (List.range n).map (fun i => fetchByte s l m (a + i))
    (bs.map Prod.fst, bs.any (·.2))

/-- The code of an element and whether its bytes are poisoned. -/
def readCodeAt (s : State) (l : Fetched) (w : Nat) (p : Spot) : Nat × Bool :=
  let a := p.bit / 8
  let (b, bad) := fetchBytes s l p.module a ((p.bit % 8 + w + 7) / 8)
  (field (ofBytes b) (p.bit % 8) w, bad)

/-- A MEM line's exponent tag, where the element lies in a MEM (05 R156). -/
def inMem (a : Nat) : Bool :=
  decide (0xF00000000000 ≤ a ∧ a < 0xF02000000000 ∧ a % 0x100000000 < 0x10000000)
def tagAt (s : State) (a : Nat) : Nat := (mget s.tags 0 (a / 64)).toNat

/-- The scale code of an element. A BX16 tensor's scales in a MEM are its lines' tags. -/
def readScale (s : State) (l : Fetched) (t : Tensor) (p : Spot) : Nat × Bool :=
  if t.fmt = 0xC ∧ p.module = none ∧ inMem (p.bit / 8) then (tagAt s (p.bit / 8), false)
  else let (b, bad) := fetchByte s l p.module p.scale; (b.toNat, bad)

/-- An element's exact value and whether it is poisoned. -/
def readVal (s : State) (l : Fetched) (t : Tensor) (p : Spot) : Val × Bool :=
  let (c, bad) := readCodeAt s l (fmtBits t.fmt) p
  if t.fmt = 0xC then let (e, b) := readScale s l t p; (bxVal e c, bad || b)
  else if t.bale = 0 then (elemVal t.fmt c, bad)
  else let (e, b) := readScale s l t p; (baledVal t.fmt t.sfmt e c, bad || b)

/-! ### Writing -/

/-- A piece of a byte: its address, first bit, bits, value. -/
structure BitPut where
  addr : Nat
  lo : Nat
  len : Nat
  val : Nat
  poison : Bool
  deriving DecidableEq, Repr

/-- Split a code at a bit address into parts of bytes; fuel is the width. -/
def splitBits : Nat → Nat → Nat → Nat → Bool → List BitPut
  | 0, _, _, _, _ => []
  | fuel + 1, bit, w, v, poison =>
    if w = 0 then [] else
    let k := min w (8 - bit % 8)
    { addr := bit / 8, lo := bit % 8, len := k, val := v % 2 ^ k, poison := poison }
      :: splitBits fuel (bit + k) (w - k) (v / 2 ^ k) poison

/-- The lines that some puts touch, in order of first touch. -/
def putLines (ps : List BitPut) : List Nat := (ps.map (fun p => p.addr / 64 * 64)).eraseDups

def applyPuts (old : Nat) (line : Nat) (ps : List BitPut) : Nat :=
  ps.foldl (fun x p => setBits x ((p.addr - line) * 8 + p.lo) p.len p.val) old

/-- Bytes of a line that some puts touch. -/
def putBytesOf (line : Nat) (ps : List BitPut) : List Nat := ((ps.map (fun p => p.addr - line)).eraseDups)

/-- Write one line: whole when every bit is written, else byte by byte. -/
def writeLine (s : State) (line : Nat) (ps : List BitPut) : State :=
  let old := ofBytes (readRange s line 64)
  let new := toBytes 64 (applyPuts old line ps)
  let bad := ps.any (·.poison)
  if isReg s line then writePiece s line new bad
  else if (ps.map (·.len)).foldl (· + ·) 0 ≥ 512 ∧ (putBytesOf line ps).length = 64 then writePiece s line new bad
  else each (putBytesOf line ps) (fun s i => writePiece s (line + i) [new.getD i 0] bad) s

/-- Write parts of bytes in this module's memory. -/
def writePuts (s : State) (ps : List BitPut) : State :=
  each (putLines ps) (fun s line => writeLine (touchAt s line) line (ps.filter (fun p => p.addr / 64 * 64 == line))) s

/-- Writes to another module, line by line: the packets' bytes, with the old bytes where a line is written in part
given by what was fetched. -/
def remoteLines (l : Fetched) (m : ModuleId) (ps : List BitPut) : List (Nat × List Byte × Bool) :=
  (putLines ps).map (fun line =>
    let mine := ps.filter (fun p => p.addr / 64 * 64 == line)
    let old := match l.find? (fun e => e.1 == m && decide (e.2.1 = line)) with | some e => ofBytes e.2.2.1 | none => 0
    (line, toBytes 64 (applyPuts old line mine), mine.any (·.poison)))

/-! ### Spans (09 R276) -/

/-- Bounding bit range of the elements of one block of the given sizes. -/
def spanOf (w addr : Nat) (stride : List Int) (sizes : List Nat) : Int × Int :=
  let ext := (stride.zip sizes).map (fun p => p.1 * ((p.2 : Int) - 1))
  let lo := (ext.filter (· < 0)).foldl (· + ·) 0
  let hi := (ext.filter (fun x => !(x < 0))).foldl (· + ·) 0
  ((addr * 8 : Nat) + (w : Int) * lo, (addr * 8 : Nat) + (w : Int) * (hi + 1))

/-- The spans of a tensor on this module, in bits: elements and scales, one pair per block. -/
def spansOf (s : State) (t : Tensor) : List (Int × Int) :=
  if (t.size.take 6).any (· == 0) then [] else
  let sc (a : Nat) (sz : List Nat) : List (Int × Int) :=
    if t.bale = 0 then [] else [spanOf 8 a t.sstride (scaleIdx t (sz.map (· - 1)) |>.map (· + 1))]
  if !t.dist then spanOf (fmtBits t.fmt) t.addr t.stride t.size :: sc t.saddr t.size
  else match readRec s t.addr 64 with
    | none => []
    | some h =>
      let bs := blockSizes h
      (List.range (field h 192 32)).flatMap (fun i =>
        match readRec s (t.addr + 64 + 16 * i) 16 with
        | none => []
        | some e =>
          if field e 16 8 = 0xFF then
            (if BitVec.ofNat 16 (field e 0 16) = ownModule s then
              spanOf (fmtBits t.fmt) (field e 32 48) t.stride bs :: sc (field e 80 48) bs else [])
          else match lpStall s (field e 16 8) with
            | none => []
            | some st => spanOf (fmtBits t.fmt) (sramAddr st (field e 32 48)) t.stride bs :: sc (sramAddr st (field e 80 48)) bs)

def spansMeet (a b : List (Int × Int)) : Bool :=
  a.any (fun x => b.any (fun y => x.1 < y.2 && y.1 < x.2))

/-! ### Bales of a tensor -/

/-- The first index of every bale, in the order of the scale array (05 R148). -/
def baleStarts (t : Tensor) : List (List Nat) :=
  (walk ((List.range 6).map (fun d => if d = t.baxis then ceilDiv (sizeAt t d) t.bale else sizeAt t d))).map
    (fun j => (List.range 6).map (fun d => if d = t.baxis then j.getD d 0 * t.bale else j.getD d 0))

/-- The indices of a bale that lie inside the tensor. -/
def baleIdx (t : Tensor) (start : List Nat) : List (List Nat) :=
  let n := min t.bale (sizeAt t t.baxis - start.getD t.baxis 0)
  (List.range n).map (fun k => (List.range 6).map (fun d => if d = t.baxis then start.getD d 0 + k else start.getD d 0))

/-! ### Bale-record arrays (05 R166) -/

structure BaleArray where
  addr : Nat
  bales : Nat
  bsz : Nat
  eCold : Nat
  parts : Nat
  step : Nat
  cold : Nat
  deriving DecidableEq, Repr

/-- The header of an array; none when unreadable or poisoned. -/
def baleArray (s : State) (a : Nat) : Option BaleArray :=
  (readRec s a 64).map (fun h =>
    { addr := a, bales := field h 0 32, bsz := 32 * 2 ^ field h 32 2, eCold := field h 40 8, parts := field h 48 16
      step := field h 64 48, cold := field h 112 32 })

def bankAddr (b : BaleArray) (bank : Nat) : Nat := b.addr + 64 + bank % 2 * (ceilDiv (2 * b.bales) 64 * 64)
def recAddr (b : BaleArray) (bank i : Nat) : Nat := bankAddr b bank + 2 * i
def recWord (s : State) (b : BaleArray) (bank i : Nat) : Nat := ofBytes (readRange s (recAddr b bank i) 2)

/-- The ledger step (05 R176). -/
def ledgerStep (s : State) : Nat := getF s (mangerReg 0 0x200008) 0 48

end Sys2Proof.Machine
end

