-- ==== Sys2Proof/Machine/Spill.lean ====
section
/-! DEFINITION. Link queues (02 R41), and a region's spill area (03 R96, R97, R102; 05 R156): its blocks and records, the
token header as it lies there (03 R68), queue extensions, and contributions spilled from a reduction stage. -/

namespace Sys2Proof.Machine

/-- Priority follows from the kind (03 R69). -/
def highPriority (t : Token) : Bool := t.kind != .data

def queueOf (u : UnitSt) (k : Nat) : List Token := mget u.queues [] k
def setQueue (u : UnitSt) (k : Nat) (l : List Token) : UnitSt := { u with queues := mset u.queues [] k l }
def extOf (u : UnitSt) (k : Nat) : Option Extension := mfind u.exts k
def queueLane (k : Nat) : Nat := k % 8 / 2
def asSlot (n : Nat) : Slot := ⟨n % 4, by omega⟩

/-- The region of a unit's slot. -/
def unitRegion (u : UnitSt) (c : Slot) : Option Region :=
  (cfgOf u c).map (fun w => ⟨hdrRegion w % 64, by omega⟩)

/-! ### Blocks and records of the area (03 R97, R102) -/

def splReg (st : Stall) (r : Region) : Nat := stallReg st (0x800 + 8 * r.val)

/-- Blocks that a region's area holds: records of 576 B behind the 512 B index, eight to a block. -/
def spillTotal (s : State) (r : Region) : Nat :=
  match regionHome s r with
  | some st =>
    let n := getF s (splReg st r) 32 11
    if areaValid s (getF s (splReg st r) 0 27) n then (n * segSize - 512) / 576 / 8 else 0
  | none => 0

/-- Blocks of a unit in the area: those granted to its queues, and those that hold its spilled contributions. -/
def unitBlocks (u : UnitSt) : List Nat :=
  u.exts.flatMap (fun x => x.2.blocks) ++ (u.staged.filterMap (fun x => x.place.map (fun p => p.1 / 8))).eraseDups

def blocksUsed (s : State) (r : Region) : List Nat :=
  (s.yard.units.filter (fun e => inRegion e.2 r)).flatMap (fun e => unitBlocks e.2)

def spillUsed (s : State) (r : Region) : Nat := (blocksUsed s r).length

/-- The lowest numbers not in a list; which free block is taken is the model's choice (log entry 33). -/
def freshNumbers (used : List Nat) (n : Nat) : List Nat :=
  ((List.range (used.length + n)).filter (fun b => !used.contains b)).take n

/-- Local address of a record of the area. -/
def recordAddr (s : State) (r : Region) (n : Nat) : Nat :=
  (match regionHome s r with | some st => getF s (splReg st r) 0 27 | none => 0) * segSize + 512 + 576 * n

def kindCode : TokenKind → Nat
  | .data => 0 | .control => 1 | .signal => 2 | .config => 3

/-- A token's header (03 R68). -/
def headerWord (t : Token) : Nat :=
  t.route.toNat + t.ctx.val <<< 6 + t.tag.toNat <<< 8 + flag t.void <<< 24 + flag t.poison <<< 25 + kindCode t.kind <<< 26
    + t.fmt.toNat <<< 28 + t.inp.val <<< 32 + flag t.acc <<< 35 + flag t.last <<< 36 + flag t.sig <<< 37 + t.sref.toNat <<< 40

/-- The token of a header and its payload. -/
def headerToken (h : Nat) (payload : BitVec 512) (poison : Bool) (side : Bool × BitVec 512) : Token :=
  { route := BitVec.ofNat 6 h, ctx := asSlot (h / 2 ^ 6), tag := BitVec.ofNat 16 (h / 2 ^ 8), void := bitOf h 24
    poison := bitOf h 25 || poison
    kind := match field h 26 2 with | 0 => .data | 1 => .control | 2 => .signal | _ => .config
    fmt := BitVec.ofNat 4 (h / 2 ^ 28), inp := ⟨field h 32 3 % 8, by omega⟩, acc := bitOf h 35, last := bitOf h 36
    sig := bitOf h 37, sref := BitVec.ofNat 24 (h / 2 ^ 40), payload := payload, relayed := side.1, live := side.2 }

/-- Write up to eight tokens as a record: eight payloads, then eight headers. -/
def writeRecord (s : State) (r : Region) (n : Nat) (ts : List Token) : State :=
  let pad : List Token := ts ++ List.replicate (8 - ts.length) { route := 0, ctx := 0, tag := 0, fmt := 0, inp := 0 }
  writeRange s (recordAddr s r n) (pad.flatMap (fun t => bytesOf t.payload) ++ pad.flatMap (fun t => toBytes 8 (headerWord t))) false

/-- The token in slot `i` of a record as it reads back. -/
def readSlot (s : State) (r : Region) (n i : Nat) (side : Bool × BitVec 512) : Token :=
  let a := recordAddr s r n
  headerToken (ofBytes (readRange s (a + 512 + 8 * i) 8)) (BitVec.ofNat 512 (ofBytes (readRange s (a + 64 * i) 64)))
    (poisonRange s (a + 64 * i) 64 || poisonRange s (a + 512) 64) side

/-! ### Extensions (03 R96) -/

/-- Tokens that an extension holds. -/
def extCount (e : Extension) : Nat := e.head.length + (e.used.map (fun x => x.2.length)).foldl (· + ·) 0 + e.tail.length

/-- A block of an extension holds 64 tokens (03 R97). -/
def queueRoom (u : UnitSt) (k : Nat) : Bool :=
  match extOf u k with
  | none => decide ((queueOf u k).length < 4)
  | some e => decide (extCount e = 0 ∧ (queueOf u k).length < 4) || decide (extCount e < 64 * e.blocks.length)

/-- The first record of an extension's blocks that holds no tokens. -/
def freeRecord (e : Extension) : Option Nat :=
  (e.blocks.flatMap (fun b => (List.range 8).map (fun i => 8 * b + i))).find? (fun n => !e.used.any (fun x => x.1 == n))

/-- Once eight tokens have collected at an extension's tail they are written as a record. -/
def spillTail (s : State) (st : Stall) (site : Site) (k : Nat) : State :=
  let u := unitOf s st site
  match extOf u k, unitRegion u (asSlot (queueLane k)) with
  | some e, some r =>
    if e.tail.length < 8 then s else
    match freeRecord e with
    | some n =>
      updUnit (writeRecord s r n (e.tail.take 8)) st site (fun u => { u with
        exts := mput u.exts k { e with used := e.used ++ [(n, (e.tail.take 8).map (fun t => (t.relayed, t.live)))], tail := e.tail.drop 8 } })
    | none => s
  | _, _ => s

/-- A token enters a queue; while the extension holds tokens it goes to the extension's tail. -/
def enqueue (s : State) (st : Stall) (site : Site) (k : Nat) (t : Token) : State :=
  let u := unitOf s st site
  match extOf u k with
  | none => putUnit s st site (setQueue u k (queueOf u k ++ [t]))
  | some e =>
    if extCount e = 0 ∧ (queueOf u k).length < 4 then putUnit s st site (setQueue u k (queueOf u k ++ [t]))
    else spillTail (putUnit s st site { u with exts := mput u.exts k { e with tail := e.tail ++ [t] } }) st site k

/-- The head of a queue leaves; what was recorded about it is forgotten. -/
def dequeue (u : UnitSt) (k : Nat) : UnitSt :=
  { setQueue u k (queueOf u k).tail with
    faulted := u.faulted.filter (· ≠ k), routeless := u.routeless.filter (· ≠ k) }

/-- What the barrow's staging memory holds of an extension's head: the tokens of the record at hand, else those of the
head record, read from the area, else those not yet written. -/
def loadHead (s : State) (r : Option Region) (e : Extension) : Extension :=
  if e.head ≠ [] then e else
  match e.used, r with
  | (n, ms) :: t, some r => { e with used := t, head := ms.zipIdx.map (fun m => readSlot s r n m.2 m.1) }
  | _, _ => { e with head := e.tail, tail := [] }

/-! ### Spilled contributions (05 R156) -/

/-- A staged line as the token whose payload it was. -/
def stagedToken (x : Staged) : Token :=
  { route := 0, ctx := x.slot, tag := x.tag, void := x.void, poison := x.poison, fmt := 0xC, inp := x.inp, acc := true
    sig := x.sref.isSome, sref := x.sref.getD 0, payload := x.data }

/-- A staged line with its data, read back from the area where it lies there. -/
def stagedBack (s : State) (r : Option Region) (x : Staged) : Staged :=
  match x.place, r with
  | some p, some r =>
    let t := readSlot s r p.1 p.2 (false, BitVec.allOnes 512)
    { x with data := t.payload, poison := t.poison, place := none }
  | _, _ => x

/-! ### What a unit holds (03 R90, R92, R94) -/

def sumOf (l : List Nat) : Nat := l.foldl (· + ·) 0

/-- Tokens that a unit holds in a lane: queues, extensions, match buffers and stores. -/
def laneTokens (u : UnitSt) (c : Slot) : Nat :=
  sumOf ((u.queues.filter (fun e => queueLane e.1 == c.val)).map (fun e => e.2.length))
  + sumOf ((u.exts.filter (fun e => queueLane e.1 == c.val)).map (fun e => extCount e.2))
  + sumOf ((u.inputs.filter (fun e => e.1 / 8 == c.val)).map (fun e => sumOf (e.2.map (fun m => m.toks.length))))
  + sumOf ((u.outs.filter (fun e => e.1 / 8 == c.val)).map (fun e => e.2.length))
  + sumOf ((u.steer.filter (fun x => x.slot == c)).map (fun x => x.ctl))

/-- The barrow of an IOU's site (02 R39), as its transfers are listed in `State.barrows`. -/
def iouKey (st : Stall) (site : Site) : Nat := st.val * 32 + siteIndex site % 32

/-- Tokens that a unit holds in a lane. An IOU's staging memory is its input and output store (09 R269): the tokens of a
transfer's tiles enter the output stores as their reads are issued. -/
def heldTokens (s : State) (st : Stall) (site : Site) (c : Slot) : Nat := laneTokens (unitOf s st site) c

/-- Units whose tokens of lane `c` belong to a region: those that hold its configuration in the slot, and its units
whose slot is clear. -/
def laneMember (u : UnitSt) (c : Slot) (r : Region) : Bool := slotRegion u c r || ((cfgOf u c).isNone && inRegion u r)

/-- Whether a region holds tokens of a context. -/
def regionHolds (s : State) (r : Region) (c : Slot) : Bool :=
  s.yard.units.any (fun e => laneMember e.2 c r && decide (0 < heldTokens s (keyStall e.1) (keySite e.1) c))

/-- The window of a region's watch counts anew (03 R94, R95). -/
def rearm (s : State) (r : Region) : State := onYard s (fun y => { y with lastFire := mput y.lastFire r.val s.time })

/-- Before a token enters a unit: where its region's active context holds no token yet, the window in which the watch
finds it idle with work begins now (03 R94). -/
def firstToken (s : State) (st : Stall) (site : Site) (c : Slot) : State :=
  match unitRegion (unitOf s st site) c with
  | none => s
  | some r =>
    let act := match regionHome s r with | some h => rgnActive s h r | none => 0
    if act = c.val ∧ !regionHolds s r c then rearm s r else s

end Sys2Proof.Machine
end

