-- ==== Sys2Proof/Machine/Yard.lean ====
section
/-! DEFINITION. The yard (02) and the arrival of tokens (03 R68–R75, R82–R84, R96): link queues, LINK_SERVE,
TOKEN_ARRIVAL, crossings, and what halts a region (03 R98). -/

namespace Sys2Proof.Machine

/-- Lane ingress of a unit: closed while some region of the unit has the lane closed in the stall (03 R90). -/
def laneClosed (s : State) (st : Stall) (u : UnitSt) (c : Slot) : Bool :=
  u.cfg.any (fun e => !rgnOpen s st ⟨hdrRegion e.2 % 64, by omega⟩ c.val)

/-! ### Link outputs (02 R40–R46) -/

/-- Whether a token may go to an output: its next queue has room, its crossing works, its lane is open. -/
def outputFree (s : State) (st : Stall) (site : Site) (t : Token) (d : Dir) : Bool :=
  crossingUp s st site d &&
  match hopOf s st site d with
  | .none => false
  | .port _ => true
  | .unit st' site' =>
    let u := unitOf s st' site'
    queueRoom u (queueKey (arriveDir d) t.ctx (highPriority t)) && !laneClosed s st' u t.ctx && !gated s st'

/-- Where a candidate token waits: a queue of the unit, or an output's store. -/
inductive Source where
  | queue (k : Nat)
  | store (k : Nat)
  deriving DecidableEq, Repr

/-- The outputs that a token's route entry names in its context (02 R44). -/
def tokenOuts (u : UnitSt) (t : Token) : Option (List Dir) :=
  match cfgOf u t.ctx with
  | none => none
  | some w => routeOuts w t.route.toNat

/-- The tokens that may ask for an output: heads of the four link queues, and of the unit's own output stores. -/
def headsOf (u : UnitSt) : List (Source × Token) :=
  (u.queues.filterMap (fun e => if e.1 < 32 then e.2.head?.map (fun t => (Source.queue e.1, t)) else none))
  ++ (u.outs.filterMap (fun e => e.2.head?.map (fun t => (Source.store e.1, t))))

/-- A route fault halts its lane at the unit (02 R67): nothing of the lane moves there until a flush. -/
def laneHalted (u : UnitSt) (c : Slot) : Bool := u.routeless.any (fun k => queueLane k == c.val)

/-- The heads whose entry names an output, but for those of a halted lane. -/
def askers (u : UnitSt) (d : Dir) : List (Source × Token) :=
  (headsOf u).filter (fun e => !laneHalted u e.2.ctx && (match tokenOuts u e.2 with | some l => l.contains d | none => false))

def movable (s : State) (st : Stall) (site : Site) (u : UnitSt) (e : Source × Token) : Bool :=
  match tokenOuts u e.2 with
  | some l => l.all (outputFree s st site e.2)
  | none => false

def isPass : Source → Bool
  | .queue _ => true
  | .store _ => false

/-- Rules 1 and 2 of R42: a token goes before another by priority, then as pass-through before injection. -/
def outranks (a b : Source × Token) : Bool :=
  (highPriority a.2 && !highPriority b.2)
  || (highPriority a.2 == highPriority b.2 && isPass a.1 && !isPass b.1)

/-- Whether a token that leaves by several outputs must let another pass at one of the others (DEDUCED, log entry 120:
R44 has it leave by all of them in one cycle, and R42 holds at each). -/
def yields (s : State) (st : Stall) (site : Site) (u : UnitSt) (d : Dir) (e : Source × Token) : Bool :=
  ((tokenOuts u e.2).getD []).any (fun x => x != d &&
    (askers u x).any (fun y => movable s st site u y && outranks y e))

/-- Lanes in round-robin order after the lane served last. -/
def laneOrder (last : Nat) : List Nat := [1, 2, 3, 4].map (fun i => (last + i) % 4)

/-- The service rule of R42: priority, then pass-through, then lanes in turn; what is left equal is a free choice. -/
def chooseServe (u : UnitSt) (d : Dir) (pickN : Nat) (cs : List (Source × Token)) : Option (Source × Token) :=
  let hi := cs.filter (fun e => highPriority e.2)
  let cs := if hi = [] then cs else hi
  let pr := flag (hi ≠ [])
  let pa := cs.filter (fun e => isPass e.1)
  let cs := if pa = [] then cs else pa
  let order := laneOrder (mget u.rr 3 (dirCode d * 2 + pr))
  match order.find? (fun l => cs.any (fun e => e.2.ctx.val == l)) with
  | none => none
  | some l => let ks := cs.filter (fun e => e.2.ctx.val == l); ks[pickN % ks.length]?

/-- What an output would serve now. -/
def serveChoice (s : State) (st : Stall) (site : Site) (d : Dir) (pickN : Nat) : Option (Source × Token) :=
  let u := unitOf s st site
  chooseServe u d pickN ((askers u d).filter (fun e => movable s st site u e && !yields s st site u d e))

/-! ### Crossings into mangers and sheds (02 R60, R66) -/

/-- Whether a token that a stall sends into a manger has come from another stall than the one that faces the manger. -/
def relayedInto (st : Stall) (k : Nat) (t : Token) : Bool := t.relayed || (stallRow st).val != (if k < 2 then 0 else 3)

/-- The tokens that wait to enter a port: the crossing of each, and whether it is relayed. -/
def portWaits (s : State) (k : Fin 8) (pickN : Nat) : List (Nat × Bool) :=
  s.yard.units.flatMap (fun e =>
    let st := keyStall e.1
    let site := keySite e.1
    ([Dir.north, .east, .south, .west] : List Dir).filterMap (fun d =>
      match crossingOf site d with
      | none => none
      | some (x, i) =>
        if hopOf s st site d = .port k ∧ unitsRun s st then
          (serveChoice s st site d pickN).map (fun c => (crossKey st x i, relayedInto st k.val c.2))
        else none))

/-- YRD_MARB of a manger: the facing and the relayed weight; both 0 count as 1 : 1 (R60). -/
def portWeight (s : State) (k : Nat) (relayed : Bool) : Nat :=
  let r := mangerReg ⟨k % 4, by omega⟩ 0x100
  let f := getF s r 0 4
  let w := getF s r 4 4
  if f = 0 ∧ w = 0 then 1 else if relayed then w else f

def portGrants (s : State) (k : Nat) (relayed : Bool) : Nat := mget s.yard.grants 0 (2 * k + flag relayed)

/-- Tokens of both kinds wait at a manger's port. -/
def bothWait (ws : List (Nat × Bool)) : Bool := ws.any (fun w => w.2) && ws.any (fun w => !w.2)

/-- A manger serves the kinds that wait in the ratio of their weights, round by round; a kind of weight 0 only when the
other has no request. -/
def mangerTurn (s : State) (k : Nat) (ws : List (Nat × Bool)) (relayed : Bool) : Bool :=
  !bothWait ws || (portWeight s k relayed != 0 &&
    (decide (portGrants s k relayed < portWeight s k relayed) || decide (portWeight s k (!relayed) ≤ portGrants s k (!relayed))))

/-- A shed serves its crossings in turn after the one served last. -/
def shedServes (s : State) (k : Nat) (ws : List (Nat × Bool)) (x : Nat) : Bool :=
  let behind (c : Nat) : Nat := (c + 3072 - (mget s.yard.shedTurn 3071 k + 1)) % 3072
  ws.all (fun w => decide (behind x ≤ behind w.1))

/-- Whether every port that a token would enter grants it now. -/
def portsGrant (s : State) (ws : Fin 8 → List (Nat × Bool)) (st : Stall) (site : Site) (t : Token) (outs : List Dir) : Bool :=
  outs.all (fun d => match hopOf s st site d, crossingOf site d with
    | .port k, some (x, i) =>
      if k.val < 4 then mangerTurn s k.val (ws k) (relayedInto st k.val t) else shedServes s k.val (ws k) (crossKey st x i)
    | _, _ => true)

/-- A manger has served a token while both kinds waited: the round ends when both have had their weight. -/
def countGrant (y : Yard) (k : Nat) (relayed : Bool) (own other wOwn wOther : Nat) : Yard :=
  if wOwn ≤ own + 1 ∧ wOther ≤ other then { y with grants := mdel (mdel y.grants (2 * k)) (2 * k + 1) }
  else { y with grants := mput y.grants (2 * k + flag relayed) (own + 1) }

/-- A port has taken a token from a crossing. -/
def portTook (s : State) (k : Nat) (ws : List (Nat × Bool)) (x : Nat) (relayed : Bool) : State :=
  if k < 4 then
    if bothWait ws then onYard s (fun y => countGrant y k relayed (portGrants s k relayed) (portGrants s k (!relayed))
      (portWeight s k relayed) (portWeight s k (!relayed)))
    else s
  else onYard s (fun y => { y with shedTurn := mset y.shedTurn 3071 k x })

/-- A crossing that carries a token is trained (02 R64; DEDUCED, log entry 26). -/
def trained (s : State) (st : Stall) (e : Fin 4) (i : Fin 24) : State := setF s (stallReg st (0x200 + 8 * e.val)) i.val 1 1

/-- Put a copy of a token beyond an output; a port's arbitration has seen the requests `ws`. -/
def deliver (s : State) (ws : Fin 8 → List (Nat × Bool)) (st : Stall) (site : Site) (t : Token) (d : Dir) : State :=
  let u := match crossingOf site d with
    | some (e, i) => trained (putCross s st e i { crossOf s st e i with replays := 0 }) st e i
    | none => s
  match hopOf s st site d with
  | .none => u
  | .port k =>
    let mark := relayedInto st k.val t
    let u := match crossingOf site d with
      | some (x, i) => portTook u k.val (ws k) (crossKey st x i) mark
      | none => u
    onYard u (fun y => { y with ports := mupd y.ports [] k.val (· ++ [{ t with relayed := mark }]) })
  | .unit st' site' =>
    let u := match farCrossing s st site d with | some c => trained u c.1 c.2.1 c.2.2 | none => u
    enqueue (firstToken u st' site' t.ctx) st' site' (queueKey (arriveDir d) t.ctx (highPriority t))
      { t with relayed := t.relayed || st' != st }

def takeSource (u : UnitSt) : Source → UnitSt
  | .queue k => dequeue u k
  | .store k => { u with outs := mupd u.outs [] k List.tail }

/-- A token that finds a queue full counts a back-pressure cycle there (03 R93). -/
def countPressure (s : State) (st : Stall) (site : Site) (t : Token) (d : Dir) : State :=
  match hopOf s st site d with
  | .unit st' site' =>
    let k := queueKey (arriveDir d) t.ctx (highPriority t)
    if queueRoom (unitOf s st' site') k then s
    else updUnit s st' site' (fun u => { u with bp := mupd u.bp 0 k (fun n => min (n + 1) (2 ^ 48 - 1)) })
  | _ => s

/-- An output has served a lane: round-robin goes on after it (02 R42). -/
def servedAt (u : UnitSt) (t : Token) (outs : List Dir) : UnitSt :=
  outs.foldl (fun u d => { u with rr := mset u.rr 3 (dirCode d * 2 + flag (highPriority t)) t.ctx.val }) u

/-- Serve one queue at a link output (02 R42, R44); a parity error poisons the token that is carried and is recorded. That
the event names the sender's island is the model's choice: R67 says only that it names the island (log entry 120). -/
def linkServe (s : State) (st : Stall) (site : Site) (d : Dir) (parity : Bool) : State :=
  if !unitsRun s st then s else
  let u := unitOf s st site
  let blocked := (askers u d).filter (fun e => !movable s st site u e)
  let s := each blocked (fun s e => each ((tokenOuts u e.2).getD []) (fun s d => countPressure s st site e.2 d) s) s
  let (n, s') := pick s 4096
  match serveChoice s st site d n with
  | none => s
  | some (src, t) =>
    let outs := (tokenOuts u t).getD []
    let ws (k : Fin 8) : List (Nat × Bool) := portWaits s k n
    if !portsGrant s ws st site t outs then s else
    let s := updUnit s' st site (fun u => servedAt (takeSource u src) t outs)
    let t := if parity then { t with poison := true } else t
    let s := if parity then
        emit (satF s (stallReg st 0x10) 0 32 1) (srcIsland st site) 0x0382 0 0
      else s
    each outs (fun s d => deliver s ws st site t d) s

def execLinkServe (st : Stall) (site : Site) (out : Dir) (parity : Bool) (s : State) : Host.Outcome State Fault Refusal :=
  finish s (linkServe s st site out parity)

/-! ### Halting a region (03 R98, R120) -/

/-- Every stall of the region shows it halted with the status, its sequencer stops at its entry (06 R189), and the
region-halt event goes to the groom. -/
def haltRegion (s : State) (r : Region) (code : Nat) : State :=
  let src := regionSource s r
  let home := regionHome s r
  let s := each (regionStalls s r) (fun s st => rgnStatus (setF s (rgnReg st r) 12 1 1) st r code) s
  let s := match home with
    | some st => satF s (stallReg st 0x430) 16 16 1
    | none => s
  let s := { s with seqs := s.seqs.map (fun e =>
    if e.1 = r.val ∧ e.2.phase ≠ .idle ∧ e.2.phase ≠ .stopped then (e.1, { e.2 with phase := .halted }) else e) }
  let s := onYard s (fun y => { y with
    halts := mput y.halts r.val code, reloaded := y.reloaded.filter (fun k => k % 64 != r.val) })
  emit s src 0x0286 code r.val

/-- Whether the region of a unit's slot is halted in its stall. -/
def unitHalted (s : State) (st : Stall) (u : UnitSt) (c : Slot) : Bool :=
  match unitRegion u c with
  | some r => rgnHalted s st r
  | none => false

/-! ### Acceptance at an input (03 R74, R82–R84; 04 R115) -/

def entriesOf (u : UnitSt) (c : Slot) (i : Nat) : List MatchEntry := mget u.inputs [] (ioKey c i)
def setEntries (u : UnitSt) (c : Slot) (i : Nat) (l : List MatchEntry) : UnitSt :=
  { u with inputs := mset u.inputs [] (ioKey c i) l }
def entryOf (u : UnitSt) (c : Slot) (i : Nat) (tag : BitVec 16) : Option MatchEntry :=
  (entriesOf u c i).find? (fun e => e.tag == tag)

/-- Replace or add an entry. -/
def putEntry (l : List MatchEntry) (e : MatchEntry) : List MatchEntry :=
  if l.any (fun x => x.tag == e.tag) then l.map (fun x => if x.tag == e.tag then e else x) else l ++ [e]

def iterOf (u : UnitSt) (c : Slot) (tag : BitVec 16) : Option SteerIter :=
  u.steer.find? (fun x => x.slot == c && x.tag == tag)
def putIter (l : List SteerIter) (x : SteerIter) : List SteerIter :=
  if l.any (fun y => y.slot == x.slot && y.tag == x.tag) then
    l.map (fun y => if y.slot == x.slot && y.tag == x.tag then x else y)
  else l ++ [x]

/-- Control tokens that N data tokens need (03 R82). -/
def ctlNeed (w : BitVec 4096) : Nat := (inTake w 0 + 63) / 64

/-- The access record of a MEM that binds an input (09 R273). -/
def memRecCount (w : BitVec 4096) : Nat := progBits w 200 0 4
def memRec (w : BitVec 4096) (j : Nat) : Nat := field w.toNat (8 * (208 + 32 * j)) 256
def memRecs (w : BitVec 4096) : List Nat := (List.range (memRecCount w)).map (memRec w)
def mrPort (r : Nat) : Nat := field r 0 3
def mrRead (r : Nat) : Bool := bitOf r 3
def mrMode (r : Nat) : Nat := field r 4 2
def mrPpol (r : Nat) : Bool := bitOf r 7
def mrBase (r : Nat) : Nat := field r 8 20
def mrNbuf (r : Nat) : Nat := field r 28 4
def mrBstep (r : Nat) : Nat := field r 32 20
def mrRlen (r : Nat) : Nat := field r 52 12
def mrRstride (r : Nat) : Nat := field r 64 20
def mrRows (r : Nat) : Nat := field r 84 16
def mrSstride (r : Nat) : Nat := field r 100 20
def mrBsz (r : Nat) : Nat := 32 * 2 ^ field r 120 2

/-- The record that writes an input's tokens; an input bound by an indexed read has none. -/
def writeRec (w : BitVec 4096) (i : Nat) : Option Nat := (memRecs w).find? (fun r => mrPort r == i && !mrRead r)
def readRecOf (w : BitVec 4096) (o : Nat) : Option Nat := (memRecs w).find? (fun r => mrPort r == o && mrRead r)

def isScale (t : Token) : Bool := t.kind == .data && (t.fmt == 0xD || t.fmt == 0xE)

/-- Tokens of an entry that take a line of the pattern: not the claim token, and not the scales of BX16 data. -/
def lineCount (ts : List Token) : Nat :=
  let bx := ts.any (fun t => t.kind == .data && t.fmt == 0xC)
  (ts.filter (fun t => t.kind == .data && !(bx && isScale t))).length

/-! ### The operand buffer of a MAT (04 R105, R113, R115–R117) -/

def tilesOf (q : MatIssue) : Nat := q.outer * ceilDiv q.bigM q.m * ceilDiv q.bigN q.n
def stepsOf (q : MatIssue) : Nat := ceilDiv q.bigK q.k

/-- Tokens of an input that the walk of a MAT's latched instruction still needs for the tag, when it is the last of the
program; none while that is not known (04 R115). Inputs 4 and 5 take theirs once a tile, the others once a set. -/
def matNeeds (w : BitVec 4096) (p : MatPos) (i : Nat) : Option Nat :=
  match p.issue with
  | none => none
  | some q =>
    if p.instr + 1 < progBits w 200 0 3 then none
    else some (inTake w i * (if i < 4 then (tilesOf q - p.tile) * stepsOf q - p.step else tilesOf q - p.tile))

/-- The halves that hold sets of a tag, in the order of their claim: the first holds the next set. -/
def ownHalves (u : UnitSt) (c : Slot) (tag : BitVec 16) : List Nat :=
  match u.halves.filter (fun e => e.2.ctx == c && e.2.tag == tag) with
  | [a, b] => if a.2.since ≤ b.2.since then [a.1, b.1] else [b.1, a.1]
  | l => l.map Prod.fst

/-- The half that takes the next token of an input for a tag of which `held` tokens are there: one that the tag has, or the
lower of those that are free (the model's choice, log entry 36). -/
def halfFor (u : UnitSt) (w : BitVec 4096) (c : Slot) (tag : BitVec 16) (i held : Nat) : Option Nat :=
  let own := ownHalves u c tag
  let q := held / max 1 (inTake w i)
  if q < own.length then own[q]?
  else if q = own.length then ([0, 1].filter (fun h => (mfind u.halves h).isNone)).head? else none

/-- Tiles whose tokens input 4 or 5 holds, in all contexts. -/
def tilesHeld (u : UnitSt) (i : Nat) : Nat :=
  sumOf (u.cfg.map (fun e => sumOf ((mget u.inputs [] (e.1 * 8 + i)).map (fun m => ceilDiv m.toks.length (inTake e.2 i)))))

/-- How a token is settled at a MAT's input (04 R115): a set goes into a half of the operand buffer, of the active context
alone (R117); input 4 and 5 hold two tiles' tokens. -/
def matRoom (u : UnitSt) (w : BitVec 4096) (c : Slot) (tag : BitVec 16) (i held : Nat) : Bool :=
  if i < 4 then c == u.active && (halfFor u w c tag i held).isSome
  else held % max 1 (inTake w i) != 0 || decide (tilesHeld u i < 2)

/-- Whether the next set of a tag is there on every input that brings a part of it. -/
def setHeld (u : UnitSt) (w : BitVec 4096) (c : Slot) (tag : BitVec 16) : Bool :=
  ((List.range 4).filter (inEn w)).all (fun i =>
    match (mget u.inputs [] (ioKey c i)).find? (fun e => e.tag == tag) with
    | some e => decide (inTake w i ≤ e.toks.length)
    | none => false)

/-- What a MAT's walk waits for: its operand set (false), or the drain of a whole accumulator with the next tile's set
there (true) (04 R116, R137). -/
def matWaits (u : UnitSt) (w : BitVec 4096) (c : Slot) (p : MatPos) : Option Bool :=
  match p.issue with
  | none => none
  | some q =>
    let set := setHeld u w c p.tag
    if p.step < stepsOf q then (if set then none else some false)
    else if set ∧ 8192 < q.m * q.n ∧ p.tile + 1 < tilesOf q then some true else none

/-- Cycles of a wait under way of the active walk, for MAT_DRAINW (`drain`) or MAT_STARVE. -/
def waitCycles (s : State) (st : Stall) (site : Site) (p : MatPos) (drain : Bool) : Nat :=
  match p.wait with
  | some (d, t) => if d = drain then (islandCycles s st (islandOf site) + 2 ^ 48 - t) % 2 ^ 48 else 0
  | none => 0

/-- Begin or end the count of a wait of the active walk. -/
def matNote (s : State) (st : Stall) (site : Site) : State :=
  let u := unitOf s st site
  match cfgOf u u.active, mfind u.mat u.active.val with
  | some w, some p =>
    let now := matWaits u w u.active p
    if p.wait.map Prod.fst = now then s else
    let reg := stallReg st (0x100020 + 0x40 * siteIndex site)
    let s := satF (satF s reg 0 48 (waitCycles s st site p false)) (reg + 8) 0 48 (waitCycles s st site p true)
    let p := { p with wait := now.map (fun d => (d, islandCycles s st (islandOf site))) }
    updUnit s st site (fun u => { u with mat := mput u.mat u.active.val p })
  | _, _ => s

/-- A MAT that is being retired has closed its inputs once its tile is done (04 R134, step 2). -/
def matClosed (s : State) (st : Stall) (site : Site) : Bool :=
  siteType site == .mat && getF s (stallReg st (0x100000 + 0x40 * siteIndex site)) 0 3 == 3
    && (unitOf s st site).mat.all (fun e => e.2.step == 0 || e.2.issue.isNone)

/-- Tokens that one input's store holds at most before it is full (03 R74, R84): the spec gives a least size for steering
units and, in the staging memory, for IOUs (09 R269), and none for others; how much more it holds is free (log entry 29). A further token of a tag that is already held is
accepted in any case, as the first row of R74 says. -/
def inCap (t : SiteType) : Nat :=
  if t = .iou then 1024 else Config.storeRoom (2 * typeCode t + 1) + (if t = .sfn then 64 else 256)

inductive Arrival where
  | accept | wait | fault
  deriving DecidableEq, Repr

/-- How an arriving token is settled at a unit's input. -/
def settleArrival (t : SiteType) (u : UnitSt) (w : BitVec 4096) (tok : Token) : Arrival :=
  let c := tok.ctx
  let i := tok.inp.val
  if !inEn w i then .fault else
  let es := entriesOf u c i
  let held := match entryOf u c i tok.tag with | some e => e.toks.length | none => 0
  if hdrSteer w then
    let it := iterOf u c tok.tag
    if i = 0 then
      let n := (match it with | some x => x.settled | none => 0) + held
      if inTake w 0 ≤ n then .fault
      else if (entryOf u c 0 tok.tag).isNone ∧ 16 ≤ es.length then .wait
      else if inCap t ≤ sumOf (es.map (fun e => e.toks.length)) then .wait else .accept
    else
      let n := match it with | some x => x.ctl | none => 0
      let open' := u.steer.filter (fun x => x.slot == c && x.ctl != 0)
      if ctlNeed w ≤ n then .fault
      else if n = 0 ∧ 16 ≤ open'.length then .wait
      else if 64 ≤ sumOf (open'.map (fun x => x.ctl)) then .wait else .accept
  else if t = .mat then
    let beyond := match mfind u.mat c.val with
      | some p => p.tag == tok.tag && (match matNeeds w p i with | some k => decide (k ≤ held) | none => false)
      | none => false
    if beyond then .fault
    else if held = 0 ∧ 16 ≤ es.length then .wait
    else if matRoom u w c tok.tag i held then .accept else .wait
  else if inTake w i ≤ held then .fault
  else
    let before := match entryOf u c i tok.tag with | some e => e.toks | none => []
    let beyond : Bool := match (if t = .mem then writeRec w i else none) with
      | some r => decide (mrRows r * mrRlen r < lineCount (before ++ [tok]))
      | none => false
    if beyond then .fault
    else if held = 0 ∧ (16 ≤ es.length ∨ inCap t ≤ sumOf (es.map (fun e => e.toks.length))) then .wait
    else .accept

/-- The 64 selectors of a control token; a void one reads as drops (03 R81, R83). -/
def selectorsOf (t : Token) : List Byte := if t.void then List.replicate 64 0x80 else bytesOf t.payload

/-- Accept a token into its match entry; a control token of a steering unit gives its selectors at once. -/
def acceptTok (u : UnitSt) (w : BitVec 4096) (t : Token) : UnitSt :=
  let c := t.ctx
  let i := t.inp.val
  let u := { u with arrivals := u.arrivals + 1 }
  if hdrSteer w then
    let x := (iterOf u c t.tag).getD { slot := c, tag := t.tag }
    if i = 1 then { u with steer := putIter u.steer { x with sels := x.sels ++ selectorsOf t, ctl := x.ctl + 1, bad := x.bad ++ [t.poison] } }
    else
      let e := (entryOf u c i t.tag).getD { tag := t.tag, toks := [] }
      let u := setEntries u c i (putEntry (entriesOf u c i) { e with toks := e.toks ++ [t] })
      { u with steer := putIter u.steer x }
  else
    let e := (entryOf u c i t.tag).getD { tag := t.tag, toks := [] }
    let e := { e with toks := e.toks ++ [t] }
    let e := if e.toks.length = inTake w i then { e with ready := u.arrivals } else e
    setEntries u c i (putEntry (entriesOf u c i) e)

/-- A token of an operand set goes into a half of the operand buffer or of the scale store; what stays in the match entry
is its header (04 R105, R115). -/
def loadHalf (s : State) (st : Stall) (site : Site) (w : BitVec 4096) (t : Token) : State × Token :=
  let i := t.inp.val
  if siteType site ≠ .mat ∨ 4 ≤ i then (s, t) else
  let u := unitOf s st site
  let held := match entryOf u t.ctx i t.tag with | some e => e.toks.length | none => 0
  match halfFor u w t.ctx t.tag i held with
  | none => (s, t)
  | some h =>
    let line := held % max 1 (inTake w i)
    let d := if t.void then 0 else t.payload
    let u := if (mfind u.halves h).isSome then u
      else { u with halves := mput u.halves h { ctx := t.ctx, tag := t.tag, since := u.arrivals } }
    let u := if i < 2 then u else { u with scales := mset u.scales 0 (64 * h + 32 * (i - 2) + line) d }
    let s := putUnit s st site u
    (if i < 2 then putBytes s (matAddr st (siteIndex site) (0x8000 * h + 0x4000 * i + 64 * line)) (bytesOf d) else s,
     { t with payload := 0 })

/-- Record a fault of a queue's head once, and leave the token there: its lane halts, at the unit where the token has no
route, else at the input (02 R67, 03 R74). -/
def headFault (s : State) (st : Stall) (site : Site) (k : Nat) (code a0 a1 : Nat) : State :=
  let u := unitOf s st site
  if k ∈ u.faulted then s
  else
    let u := { u with faulted := u.faulted ++ [k], routeless := if code = 0x0281 then u.routeless ++ [k] else u.routeless }
    emit (putUnit s st site u) (srcIsland st site) code a0 a1

/-- A signal-only token: a plain signal when its payload is zero, else an operation record (11 R330). -/
def applyRecord (s : State) (a : Agent) (t : Token) : State :=
  if t.payload = 0 then (if t.sig then applySignal s a t.sref else s)
  else match syncOpOf (recBits t.payload 0 4) with
    | some op => syncCore s a false (agentSource s a) op (BitVec.ofNat 24 (recBits t.payload 8 24)) (BitVec.ofNat 32 (recBits t.payload 64 32))
    | none => emit (countRef s (agentSource s a)) (agentSource s a) 0x0408 (recBits t.payload 8 24) 0

/-- Whether a token's signal is applied on acceptance: at a MEM that stores it waits for the store, at a steering unit for
the settling of a data token (03 R70, R86). -/
def signalsOnAccept (t : SiteType) (w : BitVec 4096) (tok : Token) : Bool :=
  tok.sig && (if hdrSteer w then tok.inp.val != 0 else t != .mem)

/-- The head of a queue arrives at the unit, or is found without a route. -/
def tokenArrival (s : State) (st : Stall) (site : Site) (d : Dir) (lane : Slot) (high : Bool) : State :=
  if !unitsRun s st then s else
  let u := unitOf s st site
  let k := queueKey d lane high
  match (queueOf u k).head? with
  | none => s
  | some tok =>
    if d ≠ .loc then
      if (tokenOuts u tok).isNone then
        headFault s st site k 0x0281 tok.route.toNat (site.val + lane.val * 2 ^ 16)
      else s
    else if laneHalted u lane && !u.routeless.contains k then s
    else match cfgOf u tok.ctx with
      | none => headFault s st site k 0x0281 tok.route.toNat (site.val + lane.val * 2 ^ 16)
      | some w =>
        if tok.kind = .signal then
          applyRecord (putUnit s st site (dequeue u k)) (.unit st site) tok
        else
          match (if matClosed s st site then .wait else settleArrival (siteType site) u w tok) with
          | .fault => headFault s st site k 0x0282 tok.tag.toNat (site.val + tok.inp.val * 2 ^ 16)
          | .wait => putUnit s st site { u with bp := mupd u.bp 0 k (fun n => min (n + 1) (2 ^ 48 - 1)) }
          | .accept =>
            let bad := tok.kind = .data ∧ tok.fmt = 0xF
            let tok := if bad then { tok with poison := true } else tok
            let (s, kept) := loadHalf s st site w tok
            let s := matNote (updUnit s st site (fun u => acceptTok (dequeue u k) w kept)) st site
            let s := if bad then emit s (srcIsland st site) 0x0282 tok.tag.toNat (site.val + tok.inp.val * 2 ^ 16) else s
            if signalsOnAccept (siteType site) w tok then applySignal s (.unit st site) tok.sref else s

def execTokenArrival (st : Stall) (site : Site) (dir : Dir) (lane : Slot) (high : Bool) (s : State) :
    Host.Outcome State Fault Refusal :=
  finish s (tokenArrival s st site dir lane high)

/-! ### Crossings (02 R46, R64, R67) -/

def edgeReg (st : Stall) (e : Fin 4) : Nat := stallReg st (0x200 + 8 * e.val)

/-- A CRC error replays the token, up to 3 times; after that the crossing is down until a spare serves it. -/
def execCrossingCrcError (st : Stall) (edge : Fin 4) (i : Fin 24) (s : State) : Host.Outcome State Fault Refusal :=
  finish s (
    let c := crossOf s st edge i
    if c.failed then s else
    let s := satF s (edgeReg st edge) 32 16 1
    if c.replays < 3 then putCross (satF s (edgeReg st edge) 48 16 1) st edge i { c with replays := c.replays + 1 }
    else
      let s := putCross s st edge i { c with failed := true }
      setF s (edgeReg st edge) 0 24 (getF s (edgeReg st edge) 0 24 - (if getF s (edgeReg st edge) i.val 1 = 1 then 2 ^ i.val else 0)))

end Sys2Proof.Machine
end

