-- ==== Sys2Proof/Machine/Firing.lean ====
section
/-! DEFINITION. What every firing shares (03 R72–R76): which tag is ready, the output stores, taking the inputs, and
counting (03 R93). -/

namespace Sys2Proof.Machine

def enabledIn (w : BitVec 4096) : List Nat := (List.range 8).filter (inEn w)
def enabledOut (w : BitVec 4096) : List Nat := (List.range 8).filter (outEn w)

/-- Whether a unit may fire in a slot: its core runs, its region is not halted, it is not held. -/
def unitGo (s : State) (st : Stall) (u : UnitSt) (c : Slot) : Bool :=
  unitsRun s st && !unitHalted s st u c

/-- Tokens that an output store holds at most: room for the largest give count of a record, and as much more as the
hardware has; the spec gives no capacity. -/
def outCap (t : SiteType) : Nat := Config.storeRoom (2 * typeCode t) + (if t = .mat then 1024 else 256)

def outStore (u : UnitSt) (c : Slot) (o : Nat) : List Token := mget u.outs [] (ioKey c o)

def pushOut (u : UnitSt) (c : Slot) (o : Nat) (ts : List Token) : UnitSt :=
  if ts = [] then u else { u with outs := mput u.outs (ioKey c o) (outStore u c o ++ ts) }

/-- Every enabled output can accept its give count, in tokens of `unitOfGive`. -/
def outputsRoom (t : SiteType) (u : UnitSt) (w : BitVec 4096) (c : Slot) : Bool :=
  (enabledOut w).all (fun o =>
    decide ((outStore u c o).length + outGive w o * (if t = .mat then 4 else 1) ≤ outCap t))

/-- Whether an input holds its take count of a tag; a MEM's tokens must also have been stored (02 R50). -/
def inputReady (t : SiteType) (u : UnitSt) (w : BitVec 4096) (c : Slot) (tag : BitVec 16) (i : Nat) : Bool :=
  match entryOf u c i tag with
  | some e => decide (inTake w i ≤ e.toks.length) && (t != .mem || decide (inTake w i ≤ e.written))
  | none => false

/-- When a tag's last required token arrived; none while one is missing (03 R73). -/
def readyAt (t : SiteType) (u : UnitSt) (w : BitVec 4096) (c : Slot) (ins : List Nat) (tag : BitVec 16) : Option Nat :=
  if ins.all (inputReady t u w c tag) then
    some ((ins.map (fun i => match entryOf u c i tag with | some e => e.ready | none => 0)).foldl max 0)
  else none

/-- The tag that fires first: the one that became ready first, the lower value on a tie (03 R73). -/
def firstTag (t : SiteType) (u : UnitSt) (w : BitVec 4096) (c : Slot) (ins : List Nat) : Option (BitVec 16) :=
  match ins with
  | [] => none
  | i :: _ =>
    ((entriesOf u c i).filterMap (fun e => (readyAt t u w c ins e.tag).map (fun r => (r, e.tag)))).foldl
      (fun best e => match best with
        | none => some e
        | some b => if e.1 < b.1 ∨ (e.1 = b.1 ∧ e.2.toNat < b.2.toNat) then some e else some b) none
      |>.map Prod.snd

/-- The tokens a firing takes from an input, in arrival order. -/
def takenAt (u : UnitSt) (w : BitVec 4096) (c : Slot) (tag : BitVec 16) (i : Nat) : List Token :=
  match entryOf u c i tag with
  | some e => e.toks.take (inTake w i)
  | none => []

/-- Release the match entries of a tag. -/
def releaseTag (u : UnitSt) (c : Slot) (ins : List Nat) (tag : BitVec 16) : UnitSt :=
  ins.foldl (fun u i => setEntries u c i ((entriesOf u c i).filter (fun e => e.tag != tag))) u

/-- An output token of a firing (03 R72, R78). -/
def outToken (w : BitVec 4096) (c : Slot) (tag : BitVec 16) (o : Nat) : Token :=
  { route := BitVec.ofNat 6 (outRoute w o), ctx := c, tag := outTag w o tag, fmt := BitVec.ofNat 4 (outFmt w o)
    inp := outInp w o, acc := outAcc w o }

def voidToken (w : BitVec 4096) (c : Slot) (tag : BitVec 16) (o : Nat) : Token :=
  { outToken w c tag o with void := true }

/-- The stream that some tokens carry, as a number; a void reads as zeros. -/
def payloadNat (ts : List Token) : Nat := ofBytes (ts.flatMap (fun t => bytesOf (if t.void then 0 else t.payload)))

/-- Codes of a format that are zeros. -/
def zeroCodes (fmt : Nat) (cs : List Nat) : Nat :=
  let w := fmtBits fmt
  (cs.filter (fun c => (if fmt = 0xC ∨ isIntFmt fmt ∨ fmt = 0xB then c else c % 2 ^ (w - 1)) == 0)).length

/-- What token `i` of a stream of `w`-bit elements holds of a list with one entry an element; an element that straddles two
tokens belongs to both (05 R147). -/
def inToken {α : Type} (w : Nat) (l : List α) (i : Nat) : List α :=
  let lo := i * 512 / w
  (l.drop lo).take (((i + 1) * 512 + w - 1) / w - lo)

/-- The tokens of a stream of codes, poisoned where they hold an element that is `bad` (05 R144, R145). -/
def spoiledTokens (w : Nat) (base : Token) (cs : List Nat) (bad : List Bool) : List Token :=
  (tokensOf (packBytes w cs)).zipIdx.map (fun e =>
    { base with payload := e.1, poison := base.poison || (inToken w bad e.2).any id })

/-- Exactly `n` tokens: cut, or padded with voids. -/
def padTo (n : Nat) (v : Token) (ts : List Token) : List Token := ts.take n ++ List.replicate (n - ts.length) v

/-- Count a firing of a slot, and re-arm the watch of its region (03 R93, R94). -/
def countFiring (s : State) (st : Stall) (site : Site) (c : Slot) : State :=
  let u := unitOf s st site
  let s := putUnit s st site { u with fires := mupd u.fires 0 c.val (fun n => min (n + 1) (2 ^ 48 - 1)) }
  match unitRegion u c with
  | none => s
  | some r =>
    let act := match regionHome s r with | some h => rgnActive s h r | none => 0
    if act = c.val then onYard s (fun y => { y with lastFire := mput y.lastFire r.val s.time }) else s

/-- What the sequencer's control bits say of a region: run and free, in the region's home stall (06 R188, R204). -/
def seqReg (s : State) (r : Region) (off : Nat) : Option Nat :=
  (regionHome s r).map (fun st => stallReg st (off + 8 * r.val))

/-- Whether a source unit may originate a tag now (06 R188). -/
def mayOriginate (s : State) (u : UnitSt) (c : Slot) (tag : BitVec 16) : Bool :=
  match unitRegion u c with
  | none => false
  | some r =>
    match seqReg s r 0xC00 with
    | none => false
    | some a =>
      if getF s a 0 1 = 1 then (mget u.released [] c.val).head? == some tag
      else getF s a 3 1 = 1 && decide (tag = (match mfind u.lastTag c.val with | some t => t + 1 | none => 0))

/-- A source unit has originated a tag. -/
def originated (u : UnitSt) (c : Slot) (tag : BitVec 16) : UnitSt :=
  { u with released := mupd u.released [] c.val (fun l => if l.head? = some tag then l.tail else l)
           lastTag := mput u.lastTag c.val tag }

end Sys2Proof.Machine
end

