-- ==== Sys2Proof/Machine/MemUnit.lean ====
section
/-! DEFINITION. The MEM front end (02 R50, R51; 05 R156; 09 R273, R274, R283; 04 R125): storing and adding tokens,
the reduction stage and exponent tags, and what a MEM's firing emits. -/

namespace Sys2Proof.Machine

def memReg (st : Stall) (m off : Nat) : Nat := stallReg st (0x160000 + 0x10 * m + off)
def rdaReg (st : Stall) : Nat := stallReg st 0x18

/-- Address of line `k` of a record's buffer for a tag, in result slot `slot` (09 R273). -/
def lineAddr (st : Stall) (m r : Nat) (tag : BitVec 16) (slot k : Nat) : Nat :=
  memAddr st m (mrBase r + (tag.toNat % (mrNbuf r + 1)) * mrBstep r + (if mrMode r = 2 then slot * mrSstride r else 0)
    + (k / mrRlen r) * mrRstride r + (k % mrRlen r) * 64)

/-- The index of the leading control token of some tokens; 0 without one. -/
def slotIndex (ts : List Token) : Nat :=
  match ts.find? (fun t => t.kind == .control) with
  | some t => recBits t.payload 0 32
  | none => 0

def hasBx (ts : List Token) : Bool := ts.any (fun t => t.kind == .data && t.fmt == 0xC)
/-- Scale tokens of a firing so far. -/
def scaleCount (ts : List Token) : Nat := (ts.filter isScale).length

def setTag (s : State) (a : Nat) (e : Nat) : State := { s with tags := mput s.tags (a / 64) (BitVec.ofNat 8 e) }
def tagOf (s : State) (a : Nat) : Option Byte := mfind s.tags (a / 64)
def poisonLine (s : State) (a : Nat) : State := markPoison s a true

/-- A line as a token leaves it that brings the value `new`: outside the bounds of the tensor it belongs to, nothing is
written (04 R121). -/
def liveLine (old new live : BitVec 512) : BitVec 512 := (old &&& ~~~live) ||| (new &&& live)

def lineAt (s : State) (a : Nat) : BitVec 512 := BitVec.ofNat 512 (ofBytes (readBytes s a 64))

/-- Store 64 B in a line, within `live`, counting the poison marks it sets (09 R281, R286). A write of a part of the line
leaves its mark as it was. -/
def storeLine (s : State) (st : Stall) (m a : Nat) (d live : BitVec 512) (poison : Bool) : State :=
  let kept := live != BitVec.allOnes 512 && poisonedAt s a
  let s := writePiece s a (bytesOf (liveLine (lineAt s a) d live)) (poison || kept)
  if poison then addF s (memReg st m 0) 32 32 1 else s

/-! ### Accumulation (02 R50, R51) -/

/-- An FP32 contribution is added to the stored line. -/
def accFp (s : State) (st : Stall) (m a : Nat) (t : Token) (ppol : Bool) : State :=
  if t.poison then
    if ppol then satF s (memReg st m 8) 0 32 1 else addF (poisonLine s a) (memReg st m 0) 32 32 1
  else
    let old := lineAt s a
    satF (writePiece s a (bytesOf (liveLine old (fpAdd512 old t.payload) t.live)) (poisonedAt s a)) (rdaReg st) 0 32 1

/-- One line of a BX16 contribution whose exponent is equal to the stored one. -/
def accBx (s : State) (st : Stall) (a : Nat) (d : BitVec 512) : State :=
  let e := tagOf s a
  let (v, sat) := bxAdd512 (lineAt s a) d
  let s := satF (writePiece s a (bytesOf v) (poisonedAt s a)) (rdaReg st) 0 32 1
  let s := match e with | some e => setTag s a e.toNat | none => s
  if sat then satF { s with satLines := mput s.satLines (a / 64) () } (rdaReg st) 48 16 1 else s

/-- The scale of a staged bale has arrived, or is void: compare and add (05 R156). The signals that its tokens carry are
applied after that, those of void ones as well (03 R70). -/
def settleBale (s : State) (st : Stall) (site : Site) (m : Nat) (ppol : Bool) (ls : List Staged) (e : Option Nat) : State :=
  let live := ls.filter (fun l => !l.void)
  let signals (s : State) : State := each (ls.filterMap (·.sref)) (fun s r => applySignal s (.unit st site) r) s
  match live with
  | [] => signals s
  | first :: _ =>
    let addrs := live.map (fun l => memAddr st m l.line)
    let spoil (s : State) : State := each addrs (fun s a => addF (poisonLine s a) (memReg st m 0) 32 32 1) s
    let s :=
      if live.any (·.poison) && ppol then satF s (memReg st m 8) 0 32 1
      else match e with
      | none => spoil s
      | some e =>
        let tags := addrs.map (tagOf s)
        if tags.all (·.isNone) then
          each live (fun s l => setTag (storeLine s st m (memAddr st m l.line) l.data (BitVec.allOnes 512) (live.any (·.poison)))
            (memAddr st m l.line) e) s
        else if live.any (·.poison) then spoil s
        else if tags.all (fun t => match t with | some x => x.toNat == e | none => false) then
          each live (fun s l => accBx s st (memAddr st m l.line) l.data) s
        else
          let a := memAddr st m first.line
          let old := match tagOf s a with | some x => x.toNat | none => 0
          emit (satF (spoil s) (rdaReg st) 32 16 1) (srcIsland st site) 0x01C0 a (old + e * 256)
    signals s

/-- Lines of an entry port's stage that are on die. -/
def stagedOn (u : UnitSt) (port : Bool) : List Staged := u.staged.filter (fun x => x.port == port && x.place.isNone)

/-- Move staged lines into blocks of the spill area, record by record. -/
def spillStaged (s : State) (st : Stall) (site : Site) (r : Region) (bs : List Nat) (same : Staged → Bool) : State :=
  let ls := (unitOf s st site).staged.filter same
  let recNo (j : Nat) : Nat := bs.getD (j / 64) 0 * 8 + j / 8 % 8
  let s := each (List.range (ceilDiv ls.length 8)) (fun s k =>
    writeRecord s r (recNo (8 * k)) (((ls.drop (8 * k)).take 8).map stagedToken)) s
  let moved := ls.zipIdx.map (fun x => { x.1 with data := 0, place := some (recNo x.2, x.2 % 8) })
  updUnit s st site (fun u => { u with staged := u.staged.filter (fun y => !same y) ++ moved })

/-- Stage a contribution's line; a full stage of 512 lines first moves its oldest contribution to the spill area,
and the region halts when the area has no room (05 R156, R178). -/
def stageLine (s : State) (st : Stall) (site : Site) (x : Staged) : State :=
  let u := unitOf s st site
  let s :=
    match stagedOn u x.port with
    | [] => s
    | o :: rest =>
      if rest.length + 1 < 512 then s
      else
        let same (y : Staged) : Bool := y.port == o.port && y.slot == o.slot && y.tag == o.tag && y.inp == o.inp && y.place.isNone
        let n := (u.staged.filter same).length
        match unitRegion u o.slot with
        | some r =>
          if spillTotal s r < spillUsed s r + ceilDiv n 64 then haltRegion s r 0x0207
          else emit (spillStaged s st site r (freshNumbers (blocksUsed s r) (ceilDiv n 64)) same) (srcIsland st site) 0x01C1 site.val (64 * n)
        | none => s
  updUnit s st site (fun u => { u with staged := u.staged ++ [x] })

/-- Take the staged lines of bales `lo` to `hi − 1` of a contribution out of the stage. -/
def ofContribution (c : Slot) (tag : BitVec 16) (i : Fin 8) (x : Staged) : Bool := x.slot == c && x.tag == tag && x.inp == i

/-- A scale token of a BX16 contribution or write: 64 scale bytes for the bales that follow those of the scale
tokens before it (05 R156). -/
def scaleToken (s : State) (st : Stall) (site : Site) (m r : Nat) (c : Slot) (tag : BitVec 16) (slot before lines : Nat)
    (t : Token) : State :=
  let per := mrBsz r / 32
  let bytes := bytesOf t.payload
  each (List.range 64) (fun s j =>
    let k := before * 64 + j
    let mine (x : Staged) : Bool := ofContribution c tag t.inp x && decide (k * per ≤ x.index ∧ x.index < (k + 1) * per)
    let ls := (unitOf s st site).staged.filter mine
    if ls ≠ [] then
      let s := updUnit s st site (fun u => { u with staged := u.staged.filter (fun x => !mine x) })
      let ls := ls.map (stagedBack s (unitRegion (unitOf s st site) c))
      settleBale s st site m (mrPpol r) ls (if t.void then none else some (bytes.getD j 0).toNat)
    else if k * per < lines ∧ !t.acc ∧ !t.void then
      each ((List.range per).filter (fun i => k * per + i < lines))
        (fun s i => setTag s (lineAddr st m r tag slot (k * per + i)) (bytes.getD j 0).toNat) s
    else s) s

/-! ### Transposed placement (04 R125) -/

/-- The codes of a sub-tile of 1,024 elements, each with whether nothing of it is written, because its token is void or it
lies outside the stored tensor: row `i`, column `j` at `32 i + j`. A code may straddle two tokens. -/
def subTile (w : Nat) (ts : List Token) : List (Nat × Bool) :=
  let all := ofBytes (ts.flatMap (fun t => bytesOf t.payload))
  (unpackNat w 1024 all).zipIdx.map (fun e =>
    let out (b : Nat) : Bool := match ts[b / 512]? with | some t => t.void || !bitOf t.live.toNat (b % 512) | none => true
    (e.1, out (e.2 * w) || out (e.2 * w + w - 1)))

/-- Where the elements of a sub-tile go transposed: its column `j` becomes row `j`. Sub-tiles come in row-major order of the
tile that is stored, which has as many columns as the record has rows. Each: the bit address, and the code. -/
def transposedAt (st : Stall) (m r : Nat) (tag : BitVec 16) (q w : Nat) (ts : List Token) : List (Nat × Nat) :=
  let across := ceilDiv (mrRows r) 32
  let base := memAddr st m (mrBase r + (tag.toNat % (mrNbuf r + 1)) * mrBstep r)
  (subTile w ts).zipIdx.flatMap (fun e =>
    let row := q % across * 32 + e.2 % 32
    let col := q / across * 32 + e.2 / 32
    if e.1.2 || decide (mrRows r ≤ row) || decide (mrRlen r * 512 < (col + 1) * w) then []
    else [((base + row * mrRstride r) * 8 + col * w, e.1.1)])

/-- A sub-tile enters transposed (04 R125). -/
def transposeTile (s : State) (st : Stall) (m r : Nat) (tag : BitVec 16) (q w : Nat) (ts : List Token) : State :=
  let bad := ts.any (·.poison)
  writePuts s ((transposedAt st m r tag q w ts).flatMap (fun e => splitBits w e.1 w e.2 bad))

/-- An FP32 sub-tile is added transposed to what is stored; poisoned, it poisons the lines it reaches (02 R51). -/
def transposeAdd (s : State) (st : Stall) (m r : Nat) (tag : BitVec 16) (q : Nat) (ts : List Token) : State :=
  let l := transposedAt st m r tag q 32 ts
  if ts.any (·.poison) then
    if mrPpol r then satF s (memReg st m 8) 0 32 1
    else each (l.map (fun e => e.1 / 512 * 64)).eraseDups (fun s a => addF (poisonLine s a) (memReg st m 0) 32 32 1) s
  else
    each l (fun s e =>
      let a := e.1 / 8
      let old : F32 := BitVec.ofNat 32 (ofBytes (readBytes s a 4))
      writePiece s a (toBytes 4 (add32 old (BitVec.ofNat 32 e.2)).toNat) false)
      (satF s (rdaReg st) 0 32 (ts.filter (fun t => !t.void)).length)

/-! ### MEM_ENTRY -/

/-- Store the next token of an input's entry, or add it to the stored line. -/
def memEntry (s : State) (st : Stall) (site : Site) (i : Fin 8) (tag : BitVec 16) : State :=
  let u := unitOf s st site
  let c := u.active
  if siteType site ≠ .mem ∨ !unitGo s st u c then s else
  match cfgOf u c, entryOf u c i.val tag with
  | some w, some e =>
    if hdrSteer w then s else
    match e.toks[e.written]? with
    | none => s
    | some t =>
      let m := siteIndex site
      let before := e.toks.take e.written
      let slot := slotIndex (e.toks.take (e.written + 1))
      let k := lineCount before
      let s := putUnit s st site (setEntries u c i.val (putEntry (entriesOf u c i.val) { e with written := e.written + 1 }))
      let (s, later) : State × Bool :=
        match writeRec w i.val with
        | none => (s, false)
        | some r =>
          let a := lineAddr st m r tag slot k
          let bx := hasBx (before ++ [t])
          if t.kind ≠ .data then (s, false)
          else if isScale t && bx then (scaleToken s st site m r c tag slot (scaleCount before) (lineCount e.toks) t, false)
          else if t.acc && t.fmt == 0xC then
            (stageLine s st site { port := i.val % 2 == 1, slot := c, tag := tag, inp := i, index := k, line := a - memAddr st m 0
                                   data := t.payload, poison := t.poison, void := t.void
                                   sref := if t.sig then some t.sref else none }, t.sig)
          else if mrMode r = 1 && !isScale t && (!t.acc || t.fmt == 1) then
            let w := fmtBits t.fmt.toNat
            let n := 2 * w
            if (k + 1) % n = 0 then
              let ts := (before.filter (fun x => x.kind == .data)).drop (k + 1 - n) ++ [t]
              (if ts.any (fun x => x.acc && !x.void) then transposeAdd s st m r tag (k / n) ts else transposeTile s st m r tag (k / n) w ts, false)
            else (s, false)
          else if t.void then (s, false)
          else if t.acc then
            if t.fmt = 1 then (accFp s st m a t (mrPpol r), false)
            else (emit (addF (poisonLine s a) (memReg st m 0) 32 32 1) (srcIsland st site) 0x0281 t.route.toNat (site.val + c.val * 2 ^ 16), false)
          else (storeLine s st m a t.payload t.live t.poison, false)
      if t.sig && !later then applySignal s (.unit st site) t.sref else s
  | _, _ => s

def execMemEntry (st : Stall) (site : Site) (inp : Fin 8) (tag : BitVec 16) (s : State) : Host.Outcome State Fault Refusal :=
  finish s (memEntry s st site inp tag)

/-! ### A MEM's firing (09 R273, R274) -/

/-- At the firing's end: BX16 lines that no scale byte reached are poisoned with tag 0xFF, and contributions still
staged have met no scale (05 R156). -/
def closeWrites (s : State) (st : Stall) (site : Site) (w : BitVec 4096) (c : Slot) (tag : BitVec 16) (i : Fin 8)
    (ts : List Token) : State :=
  let m := siteIndex site
  match writeRec w i.val with
  | none => s
  | some r =>
    if !hasBx ts then s else
    let per := mrBsz r / 32
    let lines := lineCount ts
    let scales := ts.filter isScale
    let acc := ts.any (·.acc)
    if acc then
      let mine := ((unitOf s st site).staged.filter (ofContribution c tag i)).map (stagedBack s (unitRegion (unitOf s st site) c))
      let s := updUnit s st site (fun u => { u with staged := u.staged.filter (fun x => !ofContribution c tag i x) })
      each (List.range (ceilDiv lines per)) (fun s k =>
        settleBale s st site m (mrPpol r) (mine.filter (fun x => decide (k * per ≤ x.index ∧ x.index < (k + 1) * per))) none) s
    else
      each (List.range (ceilDiv lines per)) (fun s k =>
        match scales[k / 64]? with
        | some t => if t.void then
            each ((List.range per).filter (fun j => k * per + j < lines)) (fun s j =>
              let a := lineAddr st m r tag (slotIndex ts) (k * per + j)
              setTag (poisonLine s a) a 0xFF) s else s
        | none => each ((List.range per).filter (fun j => k * per + j < lines)) (fun s j =>
              let a := lineAddr st m r tag (slotIndex ts) (k * per + j)
              setTag (poisonLine s a) a 0xFF) s) s

/-- The token that a read output emits for a line. -/
def readToken (s : State) (w : BitVec 4096) (c : Slot) (tag : BitVec 16) (o a : Nat) : Token :=
  { outToken w c tag o with payload := BitVec.ofNat 512 (ofBytes (readBytes s a 64)), poison := poisonedAt s a }

/-- The INT32 indices of an indexed read, in order. -/
def indicesOf (ts : List Token) : List (Int × Bool) :=
  (ts.filter (fun t => !t.void)).flatMap (fun t => (unpackNat 32 16 t.payload.toNat).map (fun x => (signedOf 32 x, t.poison)))

/-- Equal neighbours in a list of rows: reads served from one SRAM read (09 R274). -/
def repeats : List Int → Nat
  | a :: b :: t => flag (a == b) + repeats (b :: t)
  | _ => 0

/-- The tokens of an indexed read, the rows read again, and the indices out of range. -/
def indexedTokens (s : State) (st : Stall) (m r : Nat) (w : BitVec 4096) (c : Slot) (tag : BitVec 16) (o : Nat)
    (is : List (Int × Bool)) : List Token × Nat × Nat :=
  let inRange (i : Int) : Bool := decide (0 ≤ i ∧ i < mrRows r)
  let toks := is.flatMap (fun i =>
    if inRange i.1 then (List.range (mrRlen r)).map (fun j =>
      let t := readToken s w c tag o (lineAddr st m r tag 0 (i.1.toNat * mrRlen r + j))
      { t with poison := t.poison || i.2 })
    else List.replicate (mrRlen r) (voidToken w c tag o))
  (toks, repeats ((is.map Prod.fst).filter inRange), (is.filter (fun i => !inRange i.1)).length)

/-- What one output of the firing emits. -/
def memOutput (s : State) (st : Stall) (site : Site) (w : BitVec 4096) (c : Slot) (tag : BitVec 16) (o : Nat)
    (taken : Nat → List Token) : State :=
  let m := siteIndex site
  match readRecOf w o with
  | none => s
  | some r =>
    let give := outGive w o
    if mrMode r = 3 then
      let (ts, again, bad) := indexedTokens s st m r w c tag o (indicesOf (taken o))
      let s := satF (satF s (memReg st m 0) 0 32 again) (memReg st m 8) 32 32 bad
      updUnit s st site (fun u => pushOut u c o (padTo give (voidToken w c tag o) ts))
    else
      let slot := slotIndex ((enabledIn w).flatMap taken)
      let ts := (List.range give).map (fun k => readToken s w c tag o (lineAddr st m r tag slot k))
      updUnit s st site (fun u => pushOut u c o ts)

/-- A MEM fires: it closes the tag's writes and emits its reads; voids are not passed on (03 R81). -/
def fireMem (s : State) (st : Stall) (site : Site) (w : BitVec 4096) (c : Slot) (tag : BitVec 16) : State :=
  let u := unitOf s st site
  let ins := enabledIn w
  let taken (i : Nat) : List Token := takenAt u w c tag i
  let s := each ins (fun s i => closeWrites s st site w c tag ⟨i % 8, by omega⟩ (taken i)) s
  let s := each (enabledOut w) (fun s o => memOutput s st site w c tag o taken) s
  countFiring (updUnit s st site (fun u => releaseTag u c ins tag)) st site c

end Sys2Proof.Machine
end

