-- ==== Sys2Proof/Machine/Ledger.lean ====
section
/-! DEFINITION. The ledger (05 R158–R171, R175–R178): statistics accumulators and their folds, the choice of gradient
format, the advance, and the adjustment of bale records. -/

namespace Sys2Proof.Machine

/-! ### Layer records (05 R159, R160) -/

/-- Counters of a record by byte offset: elems, zeros, uf4, uf5, st8, sat, zbales. -/
def recAdd48 (s : State) (a off n : Nat) : State :=
  let p := a + off
  let v := ofBytes (readRange s p 8)
  writeRange s p (toBytes 8 (setBits v 0 48 (field v 0 48 + n))) false

def recHist (s : State) (a : Nat) (h : Map Nat) : State :=
  each h (fun s e => let p := a + 96 + 4 * (e.1 % 32)
    writeRange s p (toBytes 4 (min (ofBytes (readRange s p 4) + e.2) (2 ^ 32 - 1))) false) s

/-- A fold arrives at the manger that holds the record (05 R162). -/
def foldInto (s : State) (a : Nat) (x : StatAcc) : State :=
  let old := ofBytes (readRange s (a + 8) 8)
  let s := if field old 0 48 ≠ x.step then
      let s := writeRange s (a + 8) (toBytes 8 x.step) false
      let s := writeRange s (a + 16) (List.replicate 56 0) false
      let s := writeRange s (a + 96) (List.replicate 128 0) false
      let c := ofBytes (readRange s a 8)
      writeRange s a (toBytes 8 (setBits c 16 16 0)) false
    else s
  let s := [(16, x.elems), (24, x.zeros), (32, x.uf4), (40, x.uf5), (48, x.st8), (56, x.sat), (64, x.zbales)].foldl
    (fun s e => recAdd48 s a e.1 e.2) s
  let s := recHist s a x.hist
  let c := ofBytes (readRange s a 8)
  writeRange s a (toBytes 8 (setBits c 16 16 (field c 16 16 + 1))) false

/-- A ledger reference that is illegal is recorded in an event (05 R177, R178). -/
def ledgerIllegal (s : State) (src : BitVec 16) (a0 : Nat) : State := emit s src 0x0142 a0 0

/-- A ledger-selected tensor whose layer is out of range, or with the ledger disabled, is recorded (05 R178). -/
def noteLayer (s : State) (src : BitVec 16) (t : Tensor) : State :=
  if t.lsel ∧ (layerAddr s t.layer).isNone then ledgerIllegal s src t.layer else s

/-- An array whose header is unreadable or poisoned is treated as cold and recorded, with its address (05 R177, R178). -/
def noteArray (s : State) (src : BitVec 16) (brec : Nat) : State :=
  if brec ≠ 0 ∧ (baleArray s brec).isNone then ledgerIllegal s src brec else s

/-- Fold one accumulator; it is free afterwards. -/
def foldAcc (s : State) (key : Nat) : State :=
  match mfind s.stats key with
  | none => s
  | some x =>
    let st : Stall := ⟨key / 16 % 32, by omega⟩
    let s := { s with stats := mdel s.stats key }
    let s := satF s (stallReg st 0x140088) 0 32 1
    match layerAddr s x.layer with
    | none => ledgerIllegal s (srcStall st x.island.val) x.layer
    | some a => if rangeCode s a 256 = 0 then foldInto s a x else refuseAt s (srcStall st x.island.val) a 256

def stallAccs (s : State) (st : Stall) : List Nat := (s.stats.filter (fun e => e.1 / 16 == st.val)).map Prod.fst

/-- The accumulator used least recently. -/
def lruAcc (s : State) (st : Stall) : Option Nat :=
  (s.stats.filter (fun e => e.1 / 16 == st.val)).foldl (fun best e => match best with
    | none => some e
    | some b => if e.2.used < b.2.used then some e else some b) none |>.map Prod.fst

/-- A conversion adds its counts (05 R162). -/
def gather (s : State) (st : Stall) (isl : Island) (layer : Nat) (c : Counts) : State :=
  match layerAddr s layer with
  | none => ledgerIllegal s (srcStall st isl.val) layer
  | some _ =>
    let mine := s.stats.filter (fun e => e.1 / 16 == st.val)
    let next := (s.stats.map (fun e => e.2.used)).foldl max 0 + 1
    let (s, key) : State × Nat :=
      match mine.find? (fun e => e.2.layer == layer) with
      | some e => (s, e.1)
      | none =>
        match (List.range 16).find? (fun a => (mfind s.stats (st.val * 16 + a)).isNone) with
        | some a => (s, st.val * 16 + a)
        | none => match lruAcc s st with
          | some k => (satF (foldAcc s k) (stallReg st 0x140088) 32 32 1, k)
          | none => (s, st.val * 16)
    let x := (mfind s.stats key).getD { layer := layer, island := isl, step := ledgerStep s, used := next }
    let x := { x with used := next, elems := x.elems + c.elems, zeros := x.zeros + c.zeros, uf4 := x.uf4 + c.uf4
                      uf5 := x.uf5 + c.uf5, st8 := x.st8 + c.st8, sat := x.sat + c.sat, zbales := x.zbales + c.zbales
                      hist := c.hist.foldl (fun h e => mupd h 0 e.1 (· + e.2)) x.hist }
    { s with stats := mput s.stats key x }

def execStatisticsFold (st : Stall) (a : Fin 16) (s : State) : Host.Outcome State Fault Refusal :=
  finish s (foldAcc s (st.val * 16 + a.val))

/-- LDG_FOLD.go of a stall (05 R175). -/
def foldStall (s : State) (st : Stall) : State := each (stallAccs s st) foldAcc s

def execLdgFold (st : Stall) (s : State) : Host.Outcome State Fault Refusal := finish s (foldStall s st)

/-! ### The advance (05 R163, R164) -/

/-- `count / n > threshold` and `count / n ≤ threshold`, exactly; both are false of a NaN. -/
def overRate (count n : Nat) (thr : F32) : Bool := vLt (vMul (val32 thr) (vInt n)) (vInt count)
def withinRate (count n : Nat) (thr : F32) : Bool := vLe (vInt count) (vMul (val32 thr) (vInt n))

/-- The format that a record's statistics choose. -/
def decide164 (s : State) (mode elems uf4 uf5 st8 : Nat) : Nat :=
  match mode with
  | 1 => 5
  | 2 => 4
  | 3 => 2
  | _ =>
    let t := getReg s (mangerReg 0 0x200020)
    let t5 := getReg s (mangerReg 0 0x200028)
    if overRate st8 elems (BitVec.ofNat 32 (field t.toNat 32 32)) then 2
    else if withinRate uf4 elems (BitVec.ofNat 32 (field t.toNat 0 32)) then 5
    else if withinRate uf5 elems (BitVec.ofNat 32 (field t5.toNat 0 32)) then 4
    else 2

def ldgSrc (a : Nat) : BitVec 16 := srcManger (nameManger (a / segSize)) 0x3F

/-- One record in step 3 of the advance. -/
def advanceRec (s : State) (layer : Nat) : State :=
  match layerAddr s layer with
  | none => s
  | some a =>
    if rangeCode s a 256 ≠ 0 then refuseAt s (ldgSrc a) a 256
    else if poisonRange s a 256 then
      let c := ofBytes (readRange s a 8)
      let s := writeRange s a (toBytes 8 (setBits (setBits c 0 4 2) 6 1 0)) false
      emit s (ldgSrc a) 0x0382 a 0
    else
      let w (off : Nat) : Nat := field (ofBytes (readRange s (a + off) 8)) 0 48
      if w 8 ≠ ledgerStep s ∨ w 16 = 0 then s
      else
        let c := ofBytes (readRange s a 8)
        let old := if bitOf c 6 then field c 0 4 else 2
        let new := decide164 s (field c 4 2) (w 16) (w 32) (w 40) (w 48)
        let s := writeRange s a (toBytes 8 (setBits (setBits c 0 4 new) 6 1 1)) false
        let s := setF s (mangerReg 0 0x200018) 1 1 0
        if old = new then s
        else emit (satF s (mangerReg 0 0x200018) 32 32 1) (ldgSrc a) 0x08C0 layer (old + 16 * new)

/-- LDG_ADV.go (05 R163): fold, decide, step. -/
def ledgerAdvance (s : State) : State :=
  let s := setF (setF s (mangerReg 0 0x200018) 32 32 0) (mangerReg 0 0x200018) 16 16 0
  let s := each ((s.stats.map Prod.fst).filter (fun k => stallState s ⟨k / 16 % 32, by omega⟩ == .inService)) foldAcc s
  let n := if bitOf (ldgTbl s) 60 then field (ldgTbl s) 48 12 + 1 else 0
  let s := each (List.range n) advanceRec s
  addF s (mangerReg 0 0x200008) 0 48 1

def execLedgerAdvance (s : State) : Host.Outcome State Fault Refusal := finish s (ledgerAdvance s)

/-! ### A cold ledger (05 R167, R176–R178) -/

/-- Whether no record of the table is warm. -/
def allCold (s : State) : Bool :=
  (List.range (field (ldgTbl s) 48 12 + 1)).all (fun i => match readRec s (field (ldgTbl s) 0 48 + 256 * i) 8 with
    | some w => !bitOf w 6
    | none => true)

/-- A write of LDG_TBL that enables a table none of whose records is warm creates a cold ledger: LDG_STAT.cold is set and
the ledger-cold event recorded. Its cause is 2 where a ledger stood before; else 1 after a start whose retention latch tells
of an earlier run, and 0 after any other cold start (the model's reading, log entry 127). -/
def tableWritten (s : State) : State :=
  if !bitOf (ldgTbl s) 60 || !allCold s then s else
  let cause := if getF s (mangerReg 0 0x200018) 1 1 = 0 then 2 else if (getReg s pwrRetain).toNat ≠ 0 then 1 else 0
  emit (setF s (mangerReg 0 0x200018) 1 1 1) (srcManger 0 0x3F) 0x08C3 cause 0

/-- Every record of an array loses its validity. -/
def coldArray (s : State) (addr : Nat) : State :=
  match baleArray s addr with
  | none => s
  | some a =>
    let h := ofBytes (readRange s addr 64)
    let s := writeRange s addr (toBytes 64 (setBits h 112 32 a.bales)) false
    writeRange s (addr + 64) (List.replicate (2 * (ceilDiv (2 * a.bales) 64 * 64)) 0) false

/-! ### Bale records (05 R166–R168) -/

/-- The adjustment of a bale's record from the reduced bale (05 R168): the new record, and whether it was raised,
lowered or invalidated. -/
def adjustRec (s : State) (old : Nat) (b : Bale) : Nat × Nat × Nat × Nat :=
  let cfg := (getReg s (mangerReg 0 0x200030)).toNat
  let base := setBits old 10 1 0
  if b.mm then (setBits (setBits (setBits base 8 1 0) 10 1 1) 11 4 0, 0, 0, 1)
  else if b.poison then (base, 0, 0, 0)
  else
    let n := setBits (setBits base 0 8 b.e.toNat) 8 1 1
    if b.sat then
      let e := min (b.e.toNat + 1) 0xFE
      (setBits (setBits (setBits n 0 8 e) 9 1 1) 11 4 0, flag (e ≠ b.e.toNat), 0, 0)
    else
      let n := setBits n 9 1 0
      let top := (b.elems.map (fun x => (signedOf 16 x.toNat).natAbs)).foldl max 0
      let lsteps := field cfg 4 4
      if lsteps ≠ 0 ∧ top < 2 ^ (15 - field cfg 0 4) then
        let low := field n 11 4 + 1
        if lsteps ≤ low then (setBits (setBits n 0 8 (b.e.toNat - 1)) 11 4 0, 0, flag (b.e ≠ 0), 0)
        else (setBits n 11 4 low, 0, 0, 0)
      else (setBits n 11 4 0, 0, 0, 0)

/-- The exponent of a bale under an array (05 R167): the record's when valid; else none. -/
def agreedOf (s : State) (b : BaleArray) (i : Nat) : Option Nat :=
  let r := recWord s b (ledgerStep s) i
  if bitOf r 8 then some (field r 0 8) else none

end Sys2Proof.Machine
end

