-- ==== Sys2Proof/Machine/Links.lean ====
section
/-! DEFINITION. Sending on the link ports (12 R355–R362, R369–R371): packets as bytes, flits with their trailer and CRC,
credits, and the choice of a port. -/

namespace Sys2Proof.Machine

/-! ### Ports -/

def portOf (s : State) (p : Port) : PortSt := mget s.fab.ports {} p.val
def portShed (p : Port) : Shed := ⟨p.val / 4, by omega⟩

/-- The 32 B entry of a flow, with its step field as it runs; the shed in which its element runs, and the element
(12 R374, R375, R383). -/
def flowEntry (s : State) (k : Nat) : Nat :=
  (List.range 4).foldl (fun n w => n + (getReg s (shedReg 0 (0x2000000 + 0x20 * k + 8 * w))).toNat * 2 ^ (64 * w)) 0
def feShed (e : Nat) : Shed := ⟨field e 2 2 % 4, by omega⟩
def elOf (s : State) (k : Nat) : FlowEl := mget s.fab.flows {} k

/-- Numbers of the flow entries that hold something. -/
def listedFlows (s : State) : List Nat :=
  (s.regs.filterMap (fun e =>
    let base := shedReg 0 0x2000000
    if base ≤ e.1 ∧ e.1 < base + 0x800000 then some ((e.1 - base) / 0x20) else none)).eraseDups

/-- Blocks of Ivain's copies in HUSH, in the pools of SH0 and SH2: taken in the fourth step of the entry (14 R422). -/
def hushBlocks (s : State) (x : Shed) : Nat :=
  let r := aonReg 0
  if x.val % 2 = 0 ∧ (getF s r 0 3 = 2 ∨ s.power.entry.any (fun e => e.target == 2 && decide (4 ≤ getF s r 3 3))) then 4096 else 0

/-- Blocks that a shed's queues, windows and stagings hold (12 R364, R383). -/
def poolUsed (s : State) (x : Shed) : Nat :=
  let total (l : List Nat) : Nat := l.foldl (· + ·) 0
  let ports := (List.finRange 16).filter (fun p => portShed p == x)
  total (ports.map (fun p => let q := portOf s p; total (q.queue.map Prod.snd) + total (q.red.map (·.blocks)) + q.txq.length + total (q.parseBlocks.map Prod.snd)))
  + total ((listedFlows s).map (fun k => if feShed (flowEntry s k) = x then (elOf s k).window.length else 0))
  + hushBlocks s x

/-- The most blocks in use are kept. -/
def notePool (s : State) (x : Shed) : State :=
  let u := poolUsed s x
  if mget s.fab.poolPeak 0 x.val < u then onFab s (fun f => { f with poolPeak := mput f.poolPeak x.val u }) else s

def putPort (s : State) (p : Port) (x : PortSt) : State :=
  notePool (onFab s (fun f => { f with ports := mset f.ports {} p.val x })) (portShed p)
def updPort (s : State) (p : Port) (f : PortSt → PortSt) : State := putPort s p (f (portOf s p))
def portReg (p : Port) (off : Nat) : Nat := shedReg (portShed p) (0x1000 + 0x40 * (p.val % 4) + off)
def portState (s : State) (p : Port) : Nat := getF s (portReg p 0) 0 3
def setPortState (s : State) (p : Port) (v : Nat) : State := setF s (portReg p 0) 0 3 v
def portStatus (s : State) (p : Port) (code : Nat) : State := setF s (portReg p 0) 32 16 code
def portPeer (s : State) (p : Port) : Nat := getF s (portReg p 0) 8 16

/-- The channel of a packet kind, numbered as R358 lists the channels: request, response, reduction, management. -/
def channelOf (kind : Nat) : Fin 4 :=
  if kind ≤ 3 then 0 else if kind ≤ 6 then 1 else if kind ≤ 8 then 2 else 3

/-! ### Packets as bytes (12 R358, R359) -/

/-- Bytes in whole 32 B units. -/
def padUnits (d : List Byte) : List Byte := d ++ List.replicate ((32 - d.length % 32) % 32) 0

def packetHeader (p : Packet) : Nat :=
  p.kind.toNat + (flag p.ext) <<< 4 + (flag p.last) <<< 5 + p.dmod.toNat <<< 8 + p.smod.toNat <<< 24 + p.hops.toNat <<< 40
  + p.addr.toNat <<< 48 + p.len.toNat <<< 96 + p.tag.toNat <<< 104 + p.rstep.toNat <<< 120

def packetBytes (p : Packet) : List Byte :=
  padUnits (toBytes 16 (packetHeader p)
    ++ (if p.ext then toBytes 16 (p.sref.toNat + (flag p.sig) <<< 24 + p.pmask.toNat <<< 64) else []) ++ p.data)

/-- The 256 B bodies that carry a packet alone. -/
def packetBodies (p : Packet) : List (BitVec 2048) := (chunk 256 (packetBytes p)).map (fun d => BitVec.ofNat 2048 (ofBytes d))

/-! ### The trailer (12 R356) -/

/-- One bit of the IEEE 802.3 CRC-32, reflected. -/
def crcBit (c : Nat) : Nat := if c % 2 = 1 then Nat.xor (c / 2) 0xEDB88320 else c / 2
def crcByte (c : Nat) (b : Byte) : Nat := (List.range 8).foldl (fun c _ => crcBit c) (Nat.xor c b.toNat)
def crc32 (d : List Byte) : Nat := Nat.xor (d.foldl crcByte 0xFFFFFFFF) 0xFFFFFFFF

def trailerCrc (body : BitVec 2048) (low : Nat) : Nat := crc32 (toBytes 256 body.toNat ++ toBytes 4 (low % 2 ^ 32))

/-- A flit with its CRC. -/
def makeFlit (body : BitVec 2048) (seq ack : BitVec 11) (nak : Bool) (vc : Fin 4) : Flit :=
  let low := seq.toNat + ack.toNat <<< 11 + (flag nak) <<< 22 + vc.val <<< 23
  { body := body, trailer := BitVec.ofNat 64 (low + (trailerCrc body low) <<< 32) }

/-! ### Sending -/

/-- Whether a port carries a channel: all of them when up and the module has its identifier, management alone while
discovering, quarantined or without an identifier (12 R366, R368, R380). -/
def carries (s : State) (p : Port) (vc : Fin 4) : Bool :=
  let st := portState s p
  (st == 3 && ownModule s != 0xFFFF) || (vc == 3 && (st == 2 || st == 3 || st == 4))

/-- Send one body: it takes a sequence number and a credit, and stays in the replay buffer. -/
def sendBody (s : State) (p : Port) (b : TxBody) : State :=
  let x := portOf s p
  let f := makeFlit b.body x.txSeq x.rxLast x.nak b.vc
  let s := putPort s p { x with
    txSeq := x.txSeq + 1, replay := x.replay ++ [f], txMoved := s.time
    credits := mset x.credits 0 b.vc.val (mget x.credits 0 b.vc.val - 1) }
  match b.pkt with
  | some k => send s (.packet p k)
  | none => s

/-- Send what the credits of each channel and the replay buffer of 2,048 flits allow, in order within a channel. -/
def pumpBodies (s : State) (p : Port) (stuck : List (Fin 4)) : List TxBody → State
  | [] => s
  | b :: t =>
    let x := portOf s p
    if stuck.contains b.vc ∨ !carries s p b.vc ∨ mget x.credits 0 b.vc.val = 0 ∨ 2048 ≤ x.replay.length then
      pumpBodies (putPort s p { x with txq := x.txq ++ [b] }) p (b.vc :: stuck) t
    else pumpBodies (sendBody s p b) p stuck t

def pumpStaged (s : State) (p : Port) : State :=
  let q := (portOf s p).txq
  pumpBodies (updPort s p (fun x => { x with txq := [] })) p [] q

/-- Stage a packet toward a port. -/
def stagePacket (s : State) (p : Port) (k : Packet) : State :=
  let bs := packetBodies k
  let q := bs.zipIdx.map (fun b => ({ vc := channelOf k.kind.toNat, body := b.1, pkt := if b.2 + 1 = bs.length then some k else none } : TxBody))
  pumpStaged (updPort s p (fun x => { x with txq := x.txq ++ q, txMoved := if x.txq = [] then s.time else x.txMoved })) p

/-- Packets that their senders hold enter the staging, in order, while its cap of 1,024 blocks leaves room (12 R364). -/
def stageHeld (p : Port) : Nat → State → State
  | 0, s => s
  | n + 1, s =>
    let x := portOf s p
    match x.hold with
    | [] => s
    | k :: t =>
      if 1024 < x.txq.length + (packetBodies k).length then s
      else stageHeld p n (stagePacket (putPort s p { x with hold := t }) p k)

/-- Send on a port what its channels, its replay buffer and its staging admit. -/
def pumpPort (s : State) (p : Port) : State := stageHeld p (portOf s p).hold.length (pumpStaged s p)

/-- Send a packet toward a port, behind those that wait for its staging. -/
def txPort (s : State) (p : Port) (k : Packet) : State :=
  let s := updPort s p (fun x => { x with hold := x.hold ++ [k] })
  stageHeld p (portOf s p).hold.length s

/-! ### Routing (12 R369, R370) -/

/-- Registers that Ivain keeps alike in the four sheds (12 R369, R383). -/
def setSheds (s : State) (off : Nat) (v : Word) : State :=
  ([0, 1, 2, 3] : List Shed).foldl (fun s x => setReg s (shedReg x off) v) s

/-- Routing entry of a module (12 R369). -/
def routeEntry (s : State) (m : ModuleId) : Nat := (getReg s (shedReg 0 (0x1000000 + 8 * m.toNat))).toNat
def routeValid (e : Nat) : Bool := bitOf e 2
def routeLocal (e : Nat) : Bool := bitOf e 3
def routePorts (e : Nat) : List Port := (List.range (field e 0 2 + 1)).map (fun i => ⟨field e (4 + 4 * i) 4 % 16, by omega⟩)

/-- The port of a packet among those of its entry that are up. -/
def choosePort (s : State) (k : Packet) : Option Port :=
  let ups := (routePorts (routeEntry s k.dmod)).filter (fun p => portState s p == 3)
  ups[(Nat.xor (Nat.xor k.smod.toNat k.dmod.toNat) (field k.addr.toNat 12 20)) % ups.length]?

/-- Send a packet, or let it wait for a port of its entry. -/
def sendPacket (s : State) (k : Packet) : State :=
  match choosePort s k with
  | some p => txPort s p k
  | none => onFab s (fun f => { f with waiting := f.waiting ++ [(k, s.time)] })

/-- Packets that waited for a port go when one has come up. -/
def sendWaiting (s : State) : State :=
  let l := s.fab.waiting
  l.foldl (fun s e => match choosePort s e.1 with
    | some p => txPort s p e.1
    | none => onFab s (fun f => { f with waiting := f.waiting ++ [e] })) (onFab s (fun f => { f with waiting := [] }))

end Sys2Proof.Machine
end

