-- ==== Sys2Proof/Machine/Requests.lean ====
section
/-! DEFINITION. Issuing packets to other modules (12 R358–R361, R368–R372): routing entries, refusals at the issuing
shed, transaction tags, and the requests that wait for a response. -/

namespace Sys2Proof.Machine

/-! ### Paths to the edges of the yard (01 R22, R24; 02 R47, R55, R58) -/

/-- Whether a stall forwards: it is not failed. -/
def forwards (s : State) (st : Stall) : Bool := stallState s st != .failed

/-- Bypass and diagonal links of a stall in use (02 R47, R65): a bypass where the stall it passes has failed, a diagonal
where a vertical neighbour lies one column apart. -/
def auxBits (s : State) (st : Stall) : Nat :=
  let c := stallCol st
  let off (k : Nat) : Bool := stallState s (mkStall (stallRow st) ⟨k % 8, by omega⟩) == .failed
  let up := stallState s st != .failed
  let near (lp : Option Nat) (col : Nat) : Bool := match lp.bind (lpStall s) with | some q => stallCol q == col | none => false
  let above := (stallLp s st).bind (fun p => if 7 ≤ p then some (p - 7) else none)
  let below := (stallLp s st).bind (fun p => if p + 7 < 28 then some (p + 7) else none)
  flag (up && decide (1 ≤ c) && off (c - 1)) + (flag (up && decide (c ≤ 6) && off (c + 1))) <<< 1
    + (flag (decide (1 ≤ c) && near above (c - 1))) <<< 2 + (flag (near above (c + 1))) <<< 3
    + (flag (decide (1 ≤ c) && near below (c - 1))) <<< 4 + (flag (near below (c + 1))) <<< 5
    + (flag (stallState s st == .relay)) <<< 6

/-- Links from a stall, with their cost: 10,000 a crossing, 100 more for a bypass, 1 more for a diagonal. -/
def linksFrom (s : State) (st : Stall) : List (Stall × Nat) :=
  let r := (stallRow st).val
  let c := stallCol st
  let at' (r c : Nat) : Stall := ⟨(r * 8 + c) % 32, by omega⟩
  let go (ok : Bool) (t : Stall) (cost : Nat) : List (Stall × Nat) := if ok && forwards s t then [(t, cost)] else []
  let aux := auxBits s st
  if !forwards s st then [] else
  go (decide (1 ≤ r)) (at' (r - 1) c) 10000 ++ go (decide (r ≤ 2)) (at' (r + 1) c) 10000
  ++ go (decide (1 ≤ c)) (at' r (c - 1)) 10000 ++ go (decide (c ≤ 6)) (at' r (c + 1)) 10000
  ++ go (decide (2 ≤ c) && !forwards s (at' r (c - 1))) (at' r (c - 2)) 10100
  ++ go (decide (c ≤ 5) && !forwards s (at' r (c + 1))) (at' r (c + 2)) 10100
  ++ go (bitOf aux 2 && decide (1 ≤ r)) (at' (r - 1) (c - 1)) 10001
  ++ go (bitOf aux 3 && decide (1 ≤ r)) (at' (r - 1) (c + 1)) 10001
  ++ go (bitOf aux 4 && decide (r ≤ 2)) (at' (r + 1) (c - 1)) 10001
  ++ go (bitOf aux 5 && decide (r ≤ 2)) (at' (r + 1) (c + 1)) 10001

/-- Whether a stall's own edge faces manger or shed `d`: MG0 to MG3, then SH0 to SH3. -/
def facesDie (st : Stall) (d : Nat) : Bool :=
  let r := (stallRow st).val
  let c := stallCol st
  match d with
  | 0 => r = 0 && c < 4
  | 1 => r = 0 && 4 ≤ c
  | 2 => r = 3 && c < 4
  | 3 => r = 3 && 4 ≤ c
  | 4 => c = 0 && r < 2
  | 5 => c = 0 && 2 ≤ r
  | 6 => c = 7 && r < 2
  | _ => c = 7 && 2 ≤ r

/-- The cost of leaving a stall straight for a die: by its own edge, or by the bypass from column 1 or 6 to a shed. -/
def lastHop (s : State) (st : Stall) (d : Nat) : Option Nat :=
  let r := stallRow st
  let c := stallCol st
  if !forwards s st then none
  else if facesDie st d then some 10000
  else if 4 ≤ d ∧ c = 1 ∧ facesDie (mkStall r 0) d ∧ !forwards s (mkStall r 0) then some 10100
  else if 4 ≤ d ∧ c = 6 ∧ facesDie (mkStall r 7) d ∧ !forwards s (mkStall r 7) then some 10100
  else none

def farCost : Nat := 1000000

def leastCost (l : List Nat) : Nat := l.foldl min farCost

/-- One round of relaxation of the costs of all stalls. -/
def relax (s : State) (d : Nat) (cost : List Nat) : List Nat :=
  (List.finRange 32).map (fun st => leastCost (
    (match lastHop s st d with | some c => [c] | none => []) ++ (linksFrom s st).map (fun e => e.2 + cost.getD e.1.val farCost)))

/-- The least cost from a stall to a die; a path has at most 31 links. -/
def pathCost (s : State) (st : Stall) (d : Nat) : Nat :=
  (((List.range 12).foldl (fun c _ => relax s d c) (List.replicate 32 farCost))).getD st.val farCost

/-- A dest entry: crossings, class, bypass and diagonal links. -/
def destEntry (s : State) (st : Stall) (d : Nat) : Nat :=
  let c := pathCost s st d
  let cls := if facesDie st d then 3 else 4
  min 15 (c / 10000) + cls <<< 4 + (min 15 (c % 10000 / 100)) <<< 8 + (min 15 (c % 100)) <<< 12

/-- The shed nearest a stall by the distance record, the lower number of two at one distance (12 R371). -/
def nearestShed (s : State) (st : Stall) : Shed :=
  let c (x : Shed) : Nat := pathCost s st (4 + x.val) / 10000
  ([1, 2, 3] : List Shed).foldl (fun best x => if c x < c best then x else best) 0

/-- The shed through which an agent's packets leave: the nearest one of an agent of the yard; of any other, shed 0 (the
model's choice, log entry 126). -/
def issuingShed (s : State) : Agent → Shed
  | .barrow b | .image b | .claimer b => if h : b.die.val < 32 then nearestShed s ⟨b.die.val, h⟩ else 0
  | .unit st _ => nearestShed s st
  | .seq r _ | .window r => match regionHome s r with | some st => nearestShed s st | none => 0
  | _ => 0

/-- FAB_ID.role: 0 unassigned, 1 active, 2 standby. -/
def fabRole (s : State) : Nat := getF s (shedReg 0 0) 32 2

def fabRefusal (s : State) (x : Shed) (addr code : Nat) (m : ModuleId) : State :=
  emit s (srcShed x 0x3F) 0x0581 addr (code + m.toNat * 2 ^ 16)

/-- The status of issuing a packet toward a module; 0 when it may go (12 R368, R372). -/
def sendCode (s : State) (m : ModuleId) : Nat :=
  if ownModule s = 0xFFFF then 0x0509
  else if m = 0xFFFF then 0x0501
  else if routeValid (routeEntry s m) then 0 else 0x0501

/-- Issue a request of an agent, or refuse it at the shed with an event: the status, and the state after. -/
def request (s : State) (a : Agent) (kind : BitVec 4) (m : ModuleId) (addr size : Nat) (data : List Byte) (poison : Bool)
    (sref : Option Sref) : Nat × State :=
  let c := sendCode s m
  if c ≠ 0 then (c, fabRefusal s (issuingShed s a) addr c m) else
  let tag := s.fab.nextTag
  let p : Packet :=
    { kind := kind, ext := sref.isSome || poison, last := true, dmod := m, smod := ownModule s, addr := BitVec.ofNat 48 addr
      len := BitVec.ofNat 8 (ceilDiv (if kind = 1 then size else data.length) 32), tag := tag, sref := sref.getD 0, sig := sref.isSome
      pmask := if poison then BitVec.ofNat 64 (2 ^ (ceilDiv data.length 64) - 1) else 0, data := data }
  let s := onFab s (fun f => { f with
    nextTag := f.nextTag + 1
    outstanding := f.outstanding ++ [{ tag := tag, agent := a, kind := kind, addr := BitVec.ofNat 48 addr, size := size, dmod := m }] })
  (0, sendPacket s p)

def readRemote (s : State) (a : Agent) (m : ModuleId) (addr size : Nat) : Nat × State := request s a 1 m addr size [] false none
def writeRemote (s : State) (a : Agent) (m : ModuleId) (addr : Nat) (d : List Byte) (poison : Bool) (sref : Option Sref) :
    Nat × State := request s a 2 m addr d.length d poison sref

/-- Requests of an agent that wait for a response. -/
def waitingOf (s : State) (a : Agent) (kind : BitVec 4) : List Outstanding :=
  s.fab.outstanding.filter (fun o => o.agent == a && o.kind == kind)

/-! ### Responses (12 R358, R359, R372) -/

/-- Poison of each 64 B of a range as a mask. -/
def poisonMask (s : State) (a n : Nat) : Nat :=
  (List.range (ceilDiv n 64)).foldl (fun m i => if poisonRange s (a + 64 * i) (min 64 (n - 64 * i)) then m + 2 ^ i else m) 0

/-- Answer a request: the status stands in the low bits of the address field. -/
def respond (s : State) (m : ModuleId) (kind : BitVec 4) (tag : BitVec 16) (status : Nat) (data : List Byte) (marks : Nat) : State :=
  let p : Packet :=
    { kind := kind, ext := decide (marks ≠ 0), last := true, dmod := m, smod := ownModule s, addr := BitVec.ofNat 48 (status % 2 ^ 16)
      len := BitVec.ofNat 8 (ceilDiv data.length 32), tag := tag, pmask := BitVec.ofNat 64 marks, data := data }
  let c := sendCode s m
  if c ≠ 0 then fabRefusal s 0 0 c m else sendPacket s p

/-- Write bytes with a poison bit for each 64 B (12 R359). -/
def writeMarked (s : State) (a : Nat) (d : List Byte) (marks : Nat) : State :=
  ((chunk 64 d).zipIdx).foldl (fun s c => writeRange s (a + 64 * c.2) c.1 (bitOf marks c.2)) s

/-- A 16 B operation record (11 R330): operation, reference, module, operand. -/
def syncRecord (op : Nat) (m : ModuleId) (sref : Sref) (n : BitVec 32) : List Byte :=
  toBytes 16 (op + sref.toNat * 2 ^ 8 + m.toNat * 2 ^ 32 + n.toNat * 2 ^ 64)

/-- A sync operation on an object of a module: local at once, or as a sync-op packet (12 R358). -/
def syncAt (s : State) (a : Agent) (m : ModuleId) (code : Nat) (sref : Sref) (n : BitVec 32) : Nat × State :=
  if m = ownModule s then
    match syncOpOf code with
    | some op => (0, syncOp s a op sref n)
    | none => (0x0402, s)
  else request s a 3 m 0 16 (syncRecord code m sref n) false none

end Sys2Proof.Machine
end

