-- ==== Sys2Proof/Machine/Sets.lean ====
section
/-! DEFINITION. Parameter sets (07 R206–R210, R227), engines' rings (07 R222, R223, R235, R237) and the staging of reduced
gradients (07 R232). -/

namespace Sys2Proof.Machine

/-! ### Set descriptors and shard records -/

/-- The 256 B descriptor of a set; none beyond the table, unreadable or poisoned. -/
def setDesc (s : State) (set : BitVec 16) : Option Nat :=
  let r := (getReg s (mangerReg 0 0x300000)).toNat
  if field r 48 16 < set.toNat then none else readRec s (field r 0 48 + 256 * set.toNat) 256

def sdMfmt (d : Nat) : Nat := field d 0 2
def sdNstate (d : Nat) : Nat := field d 2 2
def sdBfState (d : Nat) : Bool := bitOf d 4
def sdSrState (d : Nat) : Bool := bitOf d 5
def sdClip (d : Nat) : Nat := field d 6 2
def sdProg (d : Nat) : Nat := field d 8 3
/-- A derived copy's fields: enabled, format, bale size, scale format, fetched by replicas. -/
structure CopySpec where
  en : Bool
  fmt : Nat
  bale : Nat
  ue : Bool
  fetch : Bool
  deriving DecidableEq, Repr
def sdCopy (d i : Nat) : CopySpec :=
  let b := 11 + 9 * i
  { en := bitOf d b, fmt := field d (b + 1) 4, bale := 16 * 2 ^ field d (b + 5) 2, ue := bitOf d (b + 7), fetch := bitOf d (b + 8) }
def sdGnClose (d : Nat) : Bool := bitOf d 29
def sdShards (d : Nat) : Nat := field d 32 24
def sdOmap (d : Nat) : Nat := field d 64 48
def sdBrec (d : Nat) : Nat := field d 112 48
def sdGscale (d : Nat) : F32 := BitVec.ofNat 32 (field d 160 32)
def sdClipc (d : Nat) : F32 := BitVec.ofNat 32 (field d 192 32)
def sdLrmult (d : Nat) : F32 := BitVec.ofNat 32 (field d 224 32)
def sdSched (d : Nat) : Nat := field d 256 48
def sdRlist (d : Nat) : Nat := field d 304 48
def sdNrep (d : Nat) : Nat := field d 352 12 + 1
def sdUgate (d : Nat) : Sref := BitVec.ofNat 24 (field d 364 24)
def sdNtally (d : Nat) : Sref := BitVec.ofNat 24 (field d 388 24)
def sdNrec (d : Nat) : Nat := field d 412 48
def sdNown (d : Nat) : Nat := field d 460 12 + 1
def sdOord (d : Nat) : Nat := field d 472 12
def sdLayer (d : Nat) : Nat := field d 484 12
def sdUc (d i : Nat) : F32 := BitVec.ofNat 32 (field d (512 + 32 * i) 32)

/-- Whether a descriptor keeps the fields' rules that can be read off it alone (07 R207). -/
def sdLegal (d : Nat) : Bool :=
  sdMfmt d != 3 && sdNstate d != 3 && decide (1 ≤ sdShards d) && field d 30 2 == 0 && field d 56 8 == 0 && field d 496 16 == 0 && field d 1024 1024 == 0

/-- A 64 B shard record of the owner map. -/
def shardRec (s : State) (d : Nat) (shard : BitVec 24) : Option Nat :=
  if sdShards d ≤ shard.toNat then none else readRec s (sdOmap d + 64 * shard.toNat) 64
def srModule (r : Nat) : ModuleId := BitVec.ofNat 16 (field r 0 16)
def srEng (r : Nat) : Fin 16 := ⟨field r 16 4 % 16, by omega⟩
def srFtally (r : Nat) : Sref := BitVec.ofNat 24 (field r 20 24)
def srMaster (r : Nat) : Nat := field r 48 48
def srState (r : Nat) : Nat := field r 96 48
def srCopy (r i : Nat) : Nat := field r (144 + 48 * i) 48
def srJrnl (r : Nat) : Nat := field r 240 48
def srStart (r : Nat) : Nat := field r 288 48
def srLen (r : Nat) : Nat := field r 336 48

/-- A shard record's own rules: lens are multiples of 8 and of every bale size, and reserved bits are 0 (07 R209). The bale
size of an array whose header is poisoned is not known, and the array is treated as cold (05 R178). -/
def srLegal (s : State) (d r : Nat) : Bool :=
  srLen r % 8 == 0 && [0, 1].all (fun i => !(sdCopy d i).en || srLen r % (sdCopy d i).bale == 0)
  && (sdBrec d == 0 || (match baleArray s (sdBrec d) with | some b => srLen r % b.bsz == 0 | none => poisonRange s (sdBrec d) 64))
  && field r 384 128 == 0

/-- From shard `i` on, `n` shards cover a set's elements from `start`, in order, without gap or overlap (07 R209). -/
def mapCovers (s : State) (d : Nat) : Nat → Nat → Nat → Bool
  | 0, _, _ => true
  | n + 1, i, start =>
    match shardRec s d (BitVec.ofNat 24 i) with
    | none => false
    | some r => srLegal s d r && srStart r == start && mapCovers s d n (i + 1) (start + srLen r)

/-- Whether a set's owner map keeps R209. -/
def mapLegal (s : State) (d : Nat) : Bool := mapCovers s d (sdShards d) 0 0

/-- Key of a shard. -/
def shardKey (set : BitVec 16) (shard : BitVec 24) : Nat := set.toNat * 2 ^ 24 + shard.toNat

/-- Set and shard in an event argument (07 R238). -/
def setShard (set : BitVec 16) (shard : BitVec 24) : Nat := set.toNat + shard.toNat * 2 ^ 16

/-! ### Journals (07 R227) -/

def journal (s : State) (r : Nat) : Option Nat := readRec s (srJrnl r) 64
def jStep (j : Nat) : Nat := field j 0 48
def jPhase (j : Nat) : Nat := field j 48 2
def jSkip (j : Nat) : Bool := bitOf j 50
def jPois (j : Nat) : Bool := bitOf j 51
def jSig (j : Nat) : Bool := bitOf j 52
def jCursor (j : Nat) : Nat := field j 64 32
def jLr (j : Nat) : F32 := BitVec.ofNat 32 (field j 96 32)
def jClipf (j : Nat) : F32 := BitVec.ofNat 32 (field j 128 32)
def jStg (j : Nat) : Nat := field j 304 48
def jTstep (j : Nat) : Nat := field j 352 16

/-- The full step of a 16-bit field nearest a reference (07 R223): from `J − 32,767` to `J + 32,768`. -/
def fullStep (j low bits : Nat) : Nat :=
  let m := 2 ^ bits
  let d := (low + m - j % m) % m
  if d ≤ m / 2 then j + d else j + d - m

/-! ### Engines -/

def engReg (e : Fin 16) (off : Nat) : Nat := mangerReg ⟨e.val / 4, by omega⟩ (0x300100 + 0x40 * (e.val % 4) + off)
def engOf (s : State) (e : Fin 16) : EngSt := mget s.upd.engines {} e.val
def putEng (s : State) (e : Fin 16) (x : EngSt) : State := onUpd s (fun u => { u with engines := mset u.engines {} e.val x })
def engSrc (e : Fin 16) : BitVec 16 := srcManger ⟨e.val / 4, by omega⟩ (0x20 + e.val % 4)
def engState (s : State) (e : Fin 16) : Nat := getF s (engReg e 8) 0 3
def engAt (m : Mg) (e : Fin 4) : Fin 16 := ⟨m.val * 4 + e.val, by omega⟩

/-- Whether an engine takes triggers: not failed, and its manger's engines domain on (07 R235, 14 R418). -/
def engUp (s : State) (e : Fin 16) : Bool := engState s e != 5 && engineDomOn s ⟨e.val / 4, by omega⟩

/-- The engine that serves an engine's shards: itself while it is up; else the one that served_by names, or when no
engine of the manger is up the same engine of the next manger. The fuel is the engines tried. -/
def servingFrom (s : State) : Nat → Fin 16 → Fin 16
  | 0, e => e
  | n + 1, e =>
    if engUp s e then e
    else
      let b := e.val / 4 * 4
      let t := b + getF s (engReg e 8) 4 2
      if engUp s ⟨t % 16, by omega⟩ then ⟨t % 16, by omega⟩
      else
        let none := [0, 1, 2, 3].all (fun i => !engUp s ⟨(b + i) % 16, by omega⟩)
        servingFrom s n (if none then ⟨(e.val + 4) % 16, by omega⟩ else ⟨(b + (t + 1) % 4) % 16, by omega⟩)

def serving (s : State) (e : Fin 16) : Fin 16 := servingFrom s 16 e

/-- Push a trigger into a ring of 256; none when it is full. -/
def pushTrigger (s : State) (e : Fin 16) (w : Word) : Option State :=
  let e := serving s e
  let x := engOf s e
  if 256 ≤ x.ring.length then none else some (putEng s e { x with ring := x.ring ++ [w] })

/-- Push a trigger, behind those that wait for the same ring; with no room there it waits, and is not lost. -/
def pushLater (s : State) (e : Fin 16) (w : Word) : State :=
  match (if s.upd.trigs.any (fun x => serving s x.1 == serving s e) then none else pushTrigger s e w) with
  | some s => s
  | none => onUpd s (fun u => { u with trigs := u.trigs ++ [(e, w)] })

/-- Push what waits for room in a ring. -/
def pumpTrigs (s : State) : State :=
  s.upd.trigs.foldl (fun s x => pushLater s x.1 x.2) (onUpd s (fun u => { u with trigs := [] }))

def triggerWord (set : BitVec 16) (shard : BitVec 24) (step kind : Nat) : Word :=
  BitVec.ofNat 64 (set.toNat + shard.toNat * 2 ^ 16 + (step % 2 ^ 16) * 2 ^ 40 + kind * 2 ^ 56)

/-! ### Staging (07 R232) -/

def poolReg (spill : Bool) : Nat := mangerReg 0 (if spill then 0x300010 else 0x300008)

/-- Segments of a pool in use, as first address and count. -/
def stagedSegs (s : State) (spill : Bool) : List (Nat × Nat) :=
  (s.upd.staging.filter (fun x => x.spill == spill)).map (fun x => (x.addr.toNat / segSize, x.segs))

/-- First segments of the runs of `n` free segments in a pool. -/
def freeRuns (s : State) (spill : Bool) (n : Nat) : List Nat :=
  let r := poolReg spill
  let base := getF s r 0 27
  let used := stagedSegs s spill
  (List.range (getF s r 32 11 + 1 - n)).filterMap (fun i =>
    let lo := base + i
    if used.all (fun u => lo + n ≤ u.1 || u.1 + u.2 ≤ lo) then some lo else none)

/-- Bytes of a staged gradient: 2 B an element, then 2 B of header for each bale (05 R157) at the next 64 B. -/
def stageHeaders (len : Nat) : Nat := ceilDiv (2 * len) 64 * 64
def stageBytes (len bsz : Nat) : Nat := stageHeaders len + 2 * ceilDiv len bsz

/-- The staging of a shard's gradient of one step: each gradient has its own (07 R230, R232). -/
def isStaging (set : BitVec 16) (shard : BitVec 24) (step : Nat) (x : Staging) : Bool :=
  x.set == set && x.shard == shard && x.tstep.toNat == step % 2 ^ 16

def stagingOf (s : State) (set : BitVec 16) (shard : BitVec 24) (step : Nat) : Option Staging :=
  s.upd.staging.find? (isStaging set shard step)

/-- Allocate whole segments for a shard's gradient, in the loft pool, else in the spill pool; none when neither has
room. Which free run is taken is a free choice. -/
def allocStaging (s : State) (set : BitVec 16) (shard : BitVec 24) (tstep len bsz : Nat) : Option State :=
  let n := ceilDiv (stageBytes len bsz) segSize
  let put (s : State) (spill : Bool) (runs : List Nat) : State :=
    let (k, s) := pick s runs.length
    onUpd s (fun u => { u with staging := u.staging ++
      [{ set := set, shard := shard, addr := BitVec.ofNat 48 (runs.getD k 0 * segSize), segs := n, spill := spill, bsz := bsz, tstep := BitVec.ofNat 16 tstep }] })
  match freeRuns s false n with
  | r :: t => some (put s false (r :: t))
  | [] => match freeRuns s true n with
    | r :: t => some (emit (put s true (r :: t)) (srcManger 0 0x3F) 0x0884 (setShard set shard) 0)
    | [] => none

/-- Free a shard's staging (07 R230). -/
def freeStaging (s : State) (set : BitVec 16) (shard : BitVec 24) (step : Nat) : State :=
  onUpd s (fun u => { u with staging := u.staging.filter (fun x => !isStaging set shard step x) })

/-- Staging for a shard's gradient of a step, allocated where it has none; with no room the gradient waits, with one
staging-wait event (07 R232, R235). The second result says whether there is staging. -/
def gainStaging (s : State) (set : BitVec 16) (shard : BitVec 24) (step len bsz : Nat) : State × Bool :=
  let key : BitVec 16 × BitVec 24 × BitVec 16 := (set, shard, BitVec.ofNat 16 step)
  if (stagingOf s set shard step).isSome then (s, true) else
  match allocStaging s set shard (step % 2 ^ 16) len bsz with
  | some s => (onUpd s (fun u => { u with stgWait := u.stgWait.filter (· != key) }), true)
  | none =>
    if s.upd.stgWait.contains key then (s, false)
    else (emit (onUpd s (fun u => { u with stgWait := u.stgWait ++ [key] })) (srcManger 0 0x3F) 0x0885 (setShard set shard) 0, false)

/-- A bale header (05 R157). -/
def baleHeader (b : Bale) : Nat := b.e.toNat + (flag b.sat) * 2 ^ 8 + (flag b.poison) * 2 ^ 9 + (flag b.mm) * 2 ^ 10 + (flag b.pre) * 2 ^ 11

/-- Store bale `i` of a staged gradient. -/
def stageBale (s : State) (x : Staging) (len bsz i : Nat) (b : Bale) : State :=
  let s := writeRange s (x.addr.toNat + 2 * bsz * i) (b.elems.flatMap (fun e => toBytes 2 e.toNat)) b.poison
  writeRange s (x.addr.toNat + stageHeaders len + 2 * i) (toBytes 2 (baleHeader b)) false

/-- Read bale `i` of a staged gradient. -/
def stagedBale (s : State) (stg len bsz i : Nat) : Bale :=
  let h := ofBytes (readRange s (stg + stageHeaders len + 2 * i) 2)
  let d := readRange s (stg + 2 * bsz * i) (2 * bsz)
  { e := BitVec.ofNat 8 (field h 0 8), sat := bitOf h 8, poison := bitOf h 9 || poisonRange s (stg + 2 * bsz * i) (2 * bsz), mm := bitOf h 10
    elems := (unpackBytes 16 bsz d).map (BitVec.ofNat 16) }

end Sys2Proof.Machine
end

