-- ==== Sys2Proof/Machine/Reduction.lean ====
section
/-! DEFINITION. In-network reduction (12 R373–R376, R379; 05 R157, R170; 16 R466): flow entries, an element's window,
completed bales, delivery at the root, and sums that come down. -/

namespace Sys2Proof.Machine

/-! ### Flow entries (12 R373, R374, R383) -/

/-- Number of a flow's entry in the set that its region has selected. -/
def flowIndex (s : State) (flow : BitVec 16) : Nat :=
  let r := recBits flow 8 6
  let set := getF s (shedReg 0 (0x30 + 8 * (r / 16))) (4 * (r % 16)) 4
  16384 * set + 256 * r + recBits flow 0 8

def putFlowEntry (s : State) (k v : Nat) : State :=
  (List.range 4).foldl (fun s w => setSheds s (0x2000000 + 0x20 * k + 8 * w) (BitVec.ofNat 64 (field v (64 * w) 64))) s

def feValid (e : Nat) : Bool := bitOf e 0
def feAll (e : Nat) : Bool := bitOf e 1
def feParent (e : Nat) : Port := ⟨field e 4 4 % 16, by omega⟩
def feRoot (e : Nat) : Bool := bitOf e 8
def feBsz (e : Nat) : Nat := 32 * 2 ^ field e 9 2
def feChildren (e : Nat) : List Port := (List.finRange 16).filter (fun p => bitOf e (16 + p.val))
def feLc (e : Nat) : Nat := field e 32 3
def fePrio (e : Nat) : Nat := field e 36 4
def feWin (e : Nat) : Nat := field e 40 12
def feDst (e : Nat) : Nat := field e 64 48
def feNb (e : Nat) : Nat := field e 112 32
def feStep (e : Nat) : Nat := field e 144 8
def feSet (e : Nat) : BitVec 16 := BitVec.ofNat 16 (field e 152 16)

/-- An entry that R374 allows. -/
def feLegal (e : Nat) : Bool := field e 9 2 != 3 && field e 11 5 == 0 && field e 52 12 == 0 && decide (16 ≤ feWin e) && field e 168 88 == 0

/-! ### Reserves and the selection of a flow set (12 R365) -/

/-- The set selected for a region, with one region's selection replaced. -/
def flowSetOf (s : State) (change : Option (Nat × Nat)) (r : Nat) : Nat :=
  match change with
  | some (q, set) => if q = r then set else getF s (shedReg 0 (0x30 + 8 * (r / 16))) (4 * (r % 16)) 4
  | none => getF s (shedReg 0 (0x30 + 8 * (r / 16))) (4 * (r % 16)) 4

/-- Blocks that the selected flows homed in a shed reserve: (lc + children) × win each. -/
def flowReserve (s : State) (x : Shed) (change : Option (Nat × Nat)) : Nat :=
  ((listedFlows s).map (fun k =>
    let e := flowEntry s k
    if feValid e ∧ feShed e = x ∧ flowSetOf s change (k % 16384 / 256) = k / 16384 then
      (feLc e + (feChildren e).length) * feWin e else 0)).foldl (· + ·) 0

/-- Select a region's flow set: 0x0506, and no change, when some shed's reserves would exceed its rbudget. -/
def flowSelect (s : State) (r : Region) (set : Nat) : Nat × State :=
  if ([0, 1, 2, 3] : List Shed).any (fun x => decide (getF s (shedReg x 0x10) 0 18 < flowReserve s x (some (r.val, set)))) then (0x0506, s)
  else
    let off := 0x30 + 8 * (r.val / 16)
    let w := BitVec.ofNat 64 (setBits (getReg s (shedReg 0 off)).toNat (4 * (r.val % 16)) 4 set)
    (0, setReg s (shedReg 0 off) w)

def putEl (s : State) (k : Nat) (e : FlowEl) : State :=
  notePool (onFab s (fun f => { f with flows := mset f.flows {} k e })) (feShed (flowEntry s k))
def redSrc (e : Nat) : BitVec 16 := srcShed (feShed e) 0x10

/-- Packets of a flow that are dropped are counted in an event (12 R380, R386). -/
def flowDropN (s : State) (flow : BitVec 16) (k e n : Nat) : State :=
  if n = 0 then s else
  let x := elOf s k
  emit (putEl s k { x with dropped := x.dropped + n }) (redSrc e) 0x058A flow.toNat (x.dropped + n)
def flowDrop (s : State) (flow : BitVec 16) (k e : Nat) : State := flowDropN s flow k e 1

/-! ### Bales on the wire (05 R157, 12 R359) -/

def baleBytes (b : Bale) : List Byte := toBytes 2 (baleHeader b) ++ b.elems.flatMap (fun e => toBytes 2 e.toNat)

/-- The bales of a packet's data; fuel is their count. -/
def parseBales (bsz : Nat) : Nat → List Byte → List Bale
  | 0, _ => []
  | n + 1, d =>
    let h := ofBytes (d.take 2)
    let pre := bitOf h 11
    let len := if pre then 0 else 2 * bsz
    { e := BitVec.ofNat 8 (field h 0 8), sat := bitOf h 8, poison := bitOf h 9, mm := bitOf h 10, pre := pre
      elems := (unpackBytes 16 (if pre then 0 else bsz) ((d.drop 2).take len)).map (BitVec.ofNat 16) }
      :: parseBales bsz n (d.drop (2 + len))

/-- A packet of the tree, for the neighbour behind a port. -/
def balePacket (s : State) (p : Port) (kind : BitVec 4) (flow : BitVec 16) (step first : Nat) (bs : List Bale) : Packet :=
  { kind := kind, dmod := BitVec.ofNat 16 (portPeer s p), smod := ownModule s, addr := BitVec.ofNat 48 first, len := BitVec.ofNat 8 bs.length
    tag := flow, rstep := BitVec.ofNat 8 step, data := bs.flatMap baleBytes }

/-! ### The window (12 R375) -/

def isOwn : Contributor → Bool
  | .own _ => true
  | .child _ => false

/-- Whether a contributor belongs to the flow. -/
def contributes (e : Nat) : Contributor → Bool
  | .own k => decide (k.val < feLc e)
  | .child p => (feChildren e).contains p

def partsOf (e : Nat) : Nat := feLc e + (feChildren e).length

/-- Whether every contribution of bale `i` has been accepted in the step. -/
def baleDone (x : FlowEl) (e i : Nat) : Bool := decide (partsOf e ≤ (x.seen.filter (fun y => y.1 == i)).length)

/-- The lowest incomplete index; fuel is the flow's bale count. -/
def lowestFrom (x : FlowEl) (e : Nat) : Nat → Nat → Nat
  | 0, i => i
  | n + 1, i => if baleDone x e i then lowestFrom x e n (i + 1) else i
def lowest (x : FlowEl) (e : Nat) : Nat := lowestFrom x e (feNb e) 0

/-- The sum of a bale in the fixed order: own contributions as they came, then children by rising port. -/
def sumOrder (l : List (Nat × Contributor × Bale)) : List Bale :=
  (l.filter (fun y => isOwn y.2.1)).map (·.2.2)
  ++ (List.finRange 16).flatMap (fun p => (l.filter (fun y => y.2.1 == .child p)).map (·.2.2))

def sumBales : List Bale → Option Bale
  | [] => none
  | b :: t => some (t.foldl baleAdd b)

/-! ### Delivery -/

/-- Write a sum through an all-reduce flow's dst (12 R376): a bale of the tensor, in the order of its scale array. -/
def writeThrough (s : State) (src : BitVec 16) (dst bsz i : Nat) (b : Bale) : State :=
  match readTensor s dst .dest with
  | .error _ => refuseAt s src dst 64
  | .ok t =>
    let t := { t with bale := if t.bale = 0 then bsz else t.bale }
    let raw := t.fmt == 0xC
    match (baleStarts { t with bale := bsz })[i]? with
    | none => s
    | some start =>
      let idx := baleIdx { t with bale := bsz } start
      let vals := b.elems.map (fun x => bxVal b.e.toNat x.toNat)
      let spots := idx.map (spotOf s t)
      let codes : List Nat := if raw then b.elems.map (·.toNat) else vals.map (fun v => (convElem t.fmt false t.sat v).code)
      let w := fmtBits t.fmt
      let puts := (spots.zip codes).flatMap (fun p => match p.1 with
        | some q => if q.module.isNone then splitBits w q.bit w p.2 b.poison else []
        | none => [])
      -- as a packet's writes: lines that refuse them are left, each with its memory-area event (01 R36, 10 R303)
      let code (a : Nat) : Nat := writeCode s (.remote (ownModule s) 0) a
      let s := each ((putLines puts).filter (fun a => code a ≠ 0)) (fun s a => emit s src 0x0381 a (code a)) s
      let s := writePuts s (puts.filter (fun p => code (p.addr / 64 * 64) == 0))
      match raw, spots.head? with
      | true, some (some q) => if q.module.isNone && !inMem (q.bit / 8) then writeRange s q.scale [b.e] false
          else { s with tags := (putLines puts).foldl (fun m a => mput m (a / 64) b.e) s.tags }
      | _, _ => s

/-- The shard that an element of a set belongs to, with its record. -/
def shardAt (s : State) (d elem : Nat) : Option (BitVec 24 × Nat) :=
  ((List.range (sdShards d)).map (fun i => (BitVec.ofNat 24 i, shardRec s d (BitVec.ofNat 24 i)))).findSome? (fun e =>
    match e.2 with
    | some r => if srStart r ≤ elem ∧ elem < srStart r + srLen r then some (e.1, r) else none
    | none => none)

/-- Stage a sum at the root of a reduce-to-owner flow; after a shard's last bale its trigger is pushed (12 R376,
07 R222, R232). The second result says whether it was staged: it waits while neither pool, or the ring, has room. -/
def stageSum (s : State) (e i : Nat) (b : Bale) : State × Bool :=
  match setDesc s (feSet e) with
  | none => (s, true)
  | some d =>
    let bsz := feBsz e
    match shardAt s d (i * bsz) with
    | none => (s, true)
    | some (shard, r) =>
      let j := match journal s r with | some j => jStep j + 1 | none => 1
      let step := fullStep j (feStep e) 8
      match gainStaging s (feSet e) shard step (srLen r) bsz with
      | (s, false) => (s, false)
      | (s, true) =>
        match stagingOf s (feSet e) shard step with
        | none => (s, false)
        | some x =>
          let full := ceilDiv (srLen r) bsz == x.filled + 1
          match (if full then pushTrigger s (srEng r) (triggerWord (feSet e) shard step 0) else some s) with
          | none => (s, false)
          | some s =>
            let s := stageBale s x (srLen r) bsz (i - srStart r / bsz) b
            (onUpd s (fun u => { u with staging := u.staging.map (fun y =>
              if isStaging (feSet e) shard step y then { y with filled := y.filled + 1 } else y) }), true)

/-- Send sums to the children. -/
def sendDown (s : State) (flow : BitVec 16) (e first : Nat) (bs : List Bale) : State :=
  (feChildren e).foldl (fun s p => txPort s p (balePacket s p 8 flow (feStep e) first bs)) s

/-- The increase that the root adds in a pre-pass: ceil(log2 parts) of the flow's bale-record array (05 R170). Where the
array's header cannot be read the spec states no parts: the model takes the contributors that the flow's element counts
(DESIGN CHOICE, log entry 128). -/
def log2Up (n : Nat) : Nat := if n ≤ 1 then 0 else Nat.log2 (n - 1) + 1
def preHeadroom (s : State) (e : Nat) : Nat :=
  let addr := if feAll e then (match readTensor s (feDst e) .dest with | .ok t => t.brec | .error _ => 0)
    else (match setDesc s (feSet e) with | some d => sdBrec d | none => 0)
  match baleArray s addr with
  | some a => log2Up a.parts
  | none => log2Up (partsOf e)

/-- A complete bale goes to the parent, or is delivered at the root. The second result says whether it did: it waits while
delivery has no room. -/
def passOn (s : State) (flow : BitVec 16) (e i : Nat) (b : Bale) : State × Bool :=
  if !feRoot e then (txPort s (feParent e) (balePacket s (feParent e) 7 flow (feStep e) i [b]), true)
  else if b.pre then
    let b := { b with e := BitVec.ofNat 8 (min (b.e.toNat + preHeadroom s e) 0xFE) }
    (sendDown s flow e i [b], true)
  else if feAll e then (sendDown (writeThrough s (redSrc e) (feDst e) (feBsz e) i b) flow e i [b], true)
  else stageSum s e i b

/-- Close the step when every bale has been delivered (12 R375). -/
def closeStep (s : State) (k e : Nat) : State :=
  let x := elOf s k
  if feNb e ≤ x.delivered then
    putEl (putFlowEntry s k (setBits e 144 8 (feStep e + 1))) k { x with delivered := 0, seen := [], window := [] }
  else s

/-- Take one contribution to a bale into the element. The second result says whether it must wait. -/
def acceptBale (s : State) (flow : BitVec 16) (k e : Nat) (c : Contributor) (i : Nat) (b : Bale) : State × Bool :=
  let x := elOf s k
  if b.pre then
    if x.prepass.any (fun y => y.1 == i && y.2.1 == c) then (s, false)
    else
      let x := { x with prepass := x.prepass ++ [(i, c, b.e)] }
      let mine := x.prepass.filter (fun y => y.1 == i)
      if partsOf e ≤ mine.length then
        let m := (mine.map (fun y => y.2.2.toNat)).foldl max 0
        let s := putEl s k { x with prepass := x.prepass.filter (fun y => y.1 != i) }
        ((passOn s flow e i { b with e := BitVec.ofNat 8 m, elems := [] }).1, false)
      else (putEl s k x, false)
  else if x.seen.contains (i, c) then
    -- a contribution already accepted in the step: a duplicate of a replay (16 R466)
    (match s.svc.replay with
     | some r => onSvc s (fun v => { v with replay := some { r with dups := r.dups + 1 } })
     | none => s, false)
  else if feNb e ≤ i then (flowDrop s flow k e, false)
  else if lowest x e + feWin e ≤ i then (s, true)
  else
    let x := { x with seen := x.seen ++ [(i, c)], window := x.window ++ [(i, c, b)] }
    if baleDone x e i then
      match sumBales (sumOrder (x.window.filter (fun y => y.1 == i))) with
      | none => (putEl s k x, false)
      | some t =>
        match passOn s flow e i t with
        | (s, false) => (s, true)
        | (s, true) =>
          let x := { x with window := x.window.filter (fun y => y.1 != i), delivered := x.delivered + 1 }
          (closeStep (putEl s k x) k e, false)
    else (putEl s k x, false)

/-- Take the bales of a packet one by one; those from the first that must wait on are left over. -/
def acceptAll (s : State) (flow : BitVec 16) (k : Nat) (c : Contributor) : Nat → List Bale → State × Nat × List Bale
  | i, [] => (s, i, [])
  | i, b :: t =>
    match acceptBale s flow k (flowEntry s k) c i b with
    | (s, false) => acceptAll s flow k c (i + 1) t
    | (s, true) => (s, i, b :: t)

/-! ### Packets that wait (12 R375, R378) -/

/-- A drop by rstep is counted by a replay that is under way (16 R466). -/
def staleDrop (s : State) (flow : BitVec 16) (k e : Nat) : State :=
  match s.svc.replay with
  | some r =>
    onSvc (putEl s k { elOf s k with dropped := (elOf s k).dropped + 1 }) (fun v => { v with replay := some { r with dups := r.dups + 1 } })
  | none => flowDrop s flow k e

/-- Blocks of a queue are free: their credits return to the peer in units of four, in the trailers of link-control flits that
an idle port sends (12 R356, R362; log entry 136). -/
def freeBlocks (s : State) (p : Port) (vc n : Nat) : State :=
  updPort s p (fun x =>
    let o := mget x.owed 0 vc + n
    { x with granted := mupd x.granted 0 vc (· + o / 4 * 4), owed := mset x.owed 0 vc (o % 4) })

def shedSpl (x : Shed) : Nat := shedReg x 0x20

/-- Free blocks of a shed's spill area: a segment holds 128. -/
def shedSpillFree (s : State) (x : Shed) : Nat :=
  let n := getF s (shedSpl x) 32 11
  if areaValid s (getF s (shedSpl x) 0 27) n then n * 128 - getF s (shedSpl x) 43 21 else 0

/-- Bodies that an extension holds. -/
def extBodies (x : FlowEl) : Nat := (x.ext.map (fun e => e.2.blocks)).foldl (· + ·) 0

/-- Set the blocks of a flow's extension to what its bodies need, 64 to a block. -/
def fitExt (s : State) (k e : Nat) : State :=
  let x := elOf s k
  let n := ceilDiv (extBodies x) 64
  let r := shedSpl (feShed e)
  setF (putEl s k { x with extBlocks := n }) r 43 21 (getF s r 43 21 - x.extBlocks + n)

/-- Move packets of a port to the tail of their flow's extension; none when the area has no block left. -/
def extendFlow (s : State) (k e : Nat) (p : Port) (l : List RedPkt) : Option State :=
  let x := elOf s k
  let y := { x with ext := x.ext ++ l.map (fun r => (p, r)) }
  if ceilDiv (extBodies y) 64 - x.extBlocks ≤ shedSpillFree s (feShed e) then
    some (each l (fun s r => freeBlocks s p 2 r.blocks) (fitExt (putEl s k y) k e))
  else none

def extOn (x : FlowEl) (p : Port) : Bool := x.ext.any (fun e => e.1 == p)

/-- What becomes of the packet at the head of a port's reduction queue: gone, or it stays. -/
def headStep (s : State) (p : Port) (r : RedPkt) : State × Option RedPkt :=
  let k := flowIndex s r.flow
  let e := flowEntry s k
  let x := elOf s k
  if !feValid e ∨ !contributes e (.child p) then (freeBlocks (flowDrop s r.flow k e) p 2 r.blocks, none)
  else if r.rstep.toNat ≠ feStep e ∧ r.rstep.toNat ≠ (feStep e + 1) % 256 then (freeBlocks (staleDrop s r.flow k e) p 2 r.blocks, none)
  else if extOn x p then
    match extendFlow s k e p [r] with
    | some s => (s, none)
    | none => (s, some r)
  else if x.halted ∨ r.rstep.toNat ≠ feStep e then (s, some r)
  else
    match acceptAll s r.flow k (.child p) r.first r.bales with
    | (s, _, []) => (freeBlocks s p 2 r.blocks, none)
    | (s, i, l) => (s, some { r with first := i, bales := l })

/-- Serve a port's reduction queue from its head. -/
def servePort (s : State) (p : Port) : List RedPkt → State
  | [] => s
  | r :: t =>
    match headStep s p r with
    | (s, none) => servePort (updPort s p (fun x => { x with redMoved := s.time })) p t
    | (s, some q) => updPort s p (fun x => { x with red := x.red ++ q :: t, redMoved := if q.bales.length = r.bales.length then x.redMoved else s.time })

/-- Whether earlier bales of a contributor wait: its order is kept. -/
def waitsBefore (x : FlowEl) (c : Contributor) : Bool := x.waiting.any (fun y => y.1 == c)

def keepWaiting (s : State) (k : Nat) (w : Contributor × BitVec 8 × Nat × List Bale) : State :=
  let x := elOf s k
  putEl s k { x with waiting := x.waiting ++ [w] }

/-- Serve the local contributions that wait at a flow. -/
def serveOwn (s : State) (k : Nat) : State :=
  let x := elOf s k
  if x.halted then s else
  let flow : BitVec 16 := BitVec.ofNat 16 (k % 16384)
  x.waiting.foldl (fun s w =>
    if w.2.1.toNat = feStep (flowEntry s k) ∧ !waitsBefore (elOf s k) w.1 then
      match acceptAll s flow k w.1 w.2.2.1 w.2.2.2 with
      | (s, _, []) => s
      | (s, i, l) => keepWaiting s k (w.1, w.2.1, i, l)
    else keepWaiting s k w) (putEl s k { x with waiting := [] })

/-- Bales that wait anywhere. -/
def waitingBales (s : State) : Nat :=
  (s.fab.ports.map (fun e => (e.2.red.map (fun r => r.bales.length + 1)).foldl (· + ·) 0)).foldl (· + ·) 0
  + (s.fab.flows.map (fun e => (e.2.waiting.map (fun w => w.2.2.2.length + 1)).foldl (· + ·) 0)).foldl (· + ·) 0

/-- Serve every queue once. -/
def servePass (s : State) : State :=
  let s := each (s.fab.flows.map Prod.fst) serveOwn s
  each ((List.finRange 16).filter (fun p => (portOf s p).red ≠ [])) (fun s p =>
    let l := (portOf s p).red
    servePort (updPort s p (fun x => { x with red := [] })) p l) s

/-- Serve what waits until nothing moves. -/
def serveAll : Nat → State → State
  | 0, s => s
  | n + 1, s =>
    let t := servePass s
    if waitingBales t < waitingBales s then serveAll n t else t

def pumpReduction (s : State) : State := serveAll (waitingBales s + 1) s

/-! ### The commands -/

/-- A child's packet arrives: behind what already waits in its port's reduction queue. -/
def childUp (s : State) (p : Port) (r : RedPkt) : State :=
  let x := portOf s p
  if x.red ≠ [] then putPort s p { x with red := x.red ++ [r] }
  else pumpReduction (servePort (putPort s p { x with redMoved := s.time }) p [r])

/-- A local agent's bales arrive at a flow's element. -/
def ownUp (s : State) (flow : BitVec 16) (c : Contributor) (rstep : Byte) (first : Nat) (bales : List Bale) : State :=
  let k := flowIndex s flow
  let e := flowEntry s k
  let x := elOf s k
  if !feValid e ∨ !contributes e c then flowDrop s flow k e
  else if rstep.toNat ≠ feStep e ∧ rstep.toNat ≠ (feStep e + 1) % 256 then staleDrop s flow k e
  else if x.halted ∨ rstep.toNat ≠ feStep e ∨ waitsBefore x c then keepWaiting s k (c, rstep, first, bales)
  else
    match acceptAll s flow k c first bales with
    | (s, _, []) => pumpReduction s
    | (s, i, l) => pumpReduction (keepWaiting s k (c, rstep, i, l))

/-- Take a packet of a kind and tag out of the queues that hold it: the blocks it held, and its port. -/
def takeQueued (s : State) (test : Port → Packet → Bool) : Option (Port × Nat) × State :=
  match (List.finRange 16).findSome? (fun p => ((portOf s p).queue.find? (fun e => test p e.1)).map (fun e => (p, e))) with
  | some (p, e) => (some (p, e.2), updPort s p (fun x => { x with queue := x.queue.erase e }))
  | none => (none, s)

/-- A contributor's bales arrive at a flow's element (12 R375). -/
def reductionUp (s : State) (flow : BitVec 16) (c : Contributor) (rstep : Byte) (first : Nat) (bales : List Bale) : State :=
  match c with
  | .child p =>
    let (q, s) := takeQueued s (fun i k => i == p && k.kind == 7 && k.tag == flow && k.rstep == rstep && k.addr.toNat == first)
    let n := match q with | some e => e.2 | none => 0
    if recBits flow 14 2 ≠ 0 then freeBlocks (flowDrop s flow (flowIndex s flow) 0) p 2 n
    else childUp s p { flow := flow, rstep := rstep, first := first, bales := bales, blocks := n }
  | c => if recBits flow 14 2 ≠ 0 then flowDrop s flow (flowIndex s flow) 0 else ownUp s flow c rstep first bales

def execReductionUp (flow : BitVec 16) (c : Contributor) (rstep : Byte) (first : Nat) (bales : List Bale) (s : State) :
    Host.Outcome State Fault Refusal :=
  finish s (reductionUp s flow c rstep first bales)

/-- Sums come down: written through dst and forwarded (12 R376). -/
def reductionDown (s : State) (flow : BitVec 16) (rstep : Byte) (first : Nat) (bales : List Bale) : State :=
  let (q, s) := takeQueued s (fun _ k => k.kind == 8 && k.tag == flow && k.rstep == rstep && k.addr.toNat == first)
  let s := match q with | some e => freeBlocks s e.1 2 e.2 | none => s
  let k := flowIndex s flow
  let e := flowEntry s k
  if recBits flow 14 2 ≠ 0 ∨ !feValid e then flowDrop s flow k e
  else
    let s := bales.zipIdx.foldl (fun s b => if b.1.pre then s else writeThrough s (redSrc e) (feDst e) (feBsz e) (first + b.2) b.1) s
    (feChildren e).foldl (fun s p => txPort s p { balePacket s p 8 flow (feStep e) first bales with rstep := rstep }) s

def execReductionDown (flow : BitVec 16) (rstep : Byte) (first : Nat) (bales : List Bale) (s : State) :
    Host.Outcome State Fault Refusal :=
  finish s (reductionDown s flow rstep first bales)

/-- A local agent's bale takes the first contribution of that index not yet given (12 R374). -/
def ownOrdinal (x : FlowEl) (i : Nat) (pre : Bool) : Fin 7 :=
  let n := if pre then (x.prepass.filter (fun y => y.1 == i && isOwn y.2.1)).length
    else (x.seen.filter (fun y => y.1 == i && isOwn y.2)).length
  ⟨n % 7, by omega⟩

/-- A local agent sends bales into a flow at consecutive indices. -/
def contribute (s : State) (flow : BitVec 16) (first : Nat) (bales : List Bale) : State :=
  let k := flowIndex s flow
  let e := flowEntry s k
  reductionUp s flow (.own (ownOrdinal (elOf s k) first (bales.any (·.pre)))) (BitVec.ofNat 8 (feStep e)) first bales

end Sys2Proof.Machine
end

