-- ==== Sys2Proof/Machine/Barrow.lean ====
section
/-! DEFINITION. Barrows (09 R264–R271, R285, R288): their registers, descriptors and the checks at issue, how a descriptor
begins, waits, fails and completes, queues, and the faults of a manger's barrow. -/

namespace Sys2Proof.Machine

/-! ### Registers and state -/

def brwBase (b : BrwId) : Nat :=
  if h : b.die.val < 32 then stallReg ⟨b.die.val, h⟩ (0x180000 + 0x80 * b.b.val)
  else mangerReg ⟨(b.die.val - 32) % 4, by omega⟩ (0x400000 + 0x80 * (b.b.val % 8))
def brwKey (b : BrwId) : Nat := b.die.val * 32 + b.b.val
def brwOf (s : State) (b : BrwId) : BrwSt := mget s.barrows {} (brwKey b)
def putBrw (s : State) (b : BrwId) (x : BrwSt) : State := { s with barrows := mset s.barrows {} (brwKey b) x }
def updBrw (s : State) (b : BrwId) (f : BrwSt → BrwSt) : State := putBrw s b (f (brwOf s b))
def brwStall (b : BrwId) : Option Stall := if h : b.die.val < 32 then some ⟨b.die.val, h⟩ else none
def brwSrc (s : State) (b : BrwId) : BitVec 16 := agentSource s (.barrow b)
def brwCode (s : State) (b : BrwId) : Nat := getF s (brwBase b + 0x20) 0 3
def brwState (s : State) (b : BrwId) (v : Nat) : State := setF s (brwBase b + 0x20) 0 3 v

/-- Whether a barrow exists and runs. -/
def brwOn (s : State) (b : BrwId) : Bool :=
  (match brwStall b with
   | some st => unitsRun s st
   | none => decide (b.b.val < 8) && fullOn s) && brwCode s b != 5

/-- Cycles of a barrow's clock in some ns: its island's step, or 1.8 GHz in a manger (09 R264). -/
def brwCycles (s : State) (b : BrwId) (ns : Nat) : Nat :=
  match brwStall b with
  | some st => ns * 9 * (islandStep s st (islandOf (iouSite b.b)) + 1) / 160
  | none => ns * 9 / 5

/-! ### The descriptor (09 R266) -/

abbrev Desc := BitVec 512
def bdOp (d : Desc) : Nat := recBits d 0 4
def bdSk (d : Desc) : Nat := recBits d 4 2
def bdDk (d : Desc) : Nat := recBits d 6 2
def bdGdim (d : Desc) : Nat := recBits d 8 3
def bdSig (d : Desc) : Bool := recBits d 11 1 = 1
def bdTrig (d : Desc) : Bool := recBits d 12 1 = 1
def bdLead (d : Desc) : Nat := recBits d 13 3 + 1
def bdWk (d : Desc) : Nat := recBits d 16 2
def bdPerm (d : Desc) (i : Nat) : Nat := recBits d (18 + 3 * i) 3
def bdYin (d : Desc) : Nat := recBits d 36 3
def bdYout (d : Desc) : Nat := recBits d 39 3
def bdYsc (d : Desc) : Nat := recBits d 42 3
def bdSrc (d : Desc) : Nat := recBits d 64 48
def bdDst (d : Desc) : Nat := recBits d 112 48
def bdIdx (d : Desc) : Nat := recBits d 160 48
def bdSref (d : Desc) : Sref := BitVec.ofNat 24 (recBits d 208 24)
def bdWobj (d : Desc) : Sref := BitVec.ofNat 24 (recBits d 232 24)
def bdWn (d : Desc) : BitVec 32 := BitVec.ofNat 32 (recBits d 256 16)
def bdTtok (d : Desc) : Nat := recBits d 272 10 + 1
def bdFlow (d : Desc) : BitVec 16 := BitVec.ofNat 16 (recBits d 288 16)
def bdTrigger (d : Desc) : Word := BitVec.ofNat 64 (recBits d 304 64)
def bdTeng (d : Desc) : Fin 16 := ⟨recBits d 368 4 % 16, by omega⟩

/-- perm is a permutation, the identity at and above the rank; perm[perm0] = 0 on the transposing path. -/
def permLegal (d : Desc) (rank : Nat) : Bool :=
  (List.range 6).all (fun i => if i < rank then decide (bdPerm d i < rank) else bdPerm d i == i)
  && ((List.range 6).map (bdPerm d)).eraseDups.length == 6
  && (bdPerm d 0 == 0 || bdPerm d (bdPerm d 0) == 0)
def permIdentity (d : Desc) : Bool := (List.range 6).all (fun i => bdPerm d i == i)

/-- Fields that need no descriptor read (status 0x0105). `image` says the descriptor stands in an image list. -/
def bdLegal (d : Desc) (image : Bool) : Bool :=
  decide (bdOp d ≤ 5) && decide (bdSk d ≤ 1) && decide (bdDk d ≤ 2)
  && recBits d 45 19 == 0 && recBits d 282 6 == 0 && recBits d 372 140 == 0
  && (image || (bdSk d == 0 && bdDk d != 1))
  && (decide (bdWk d < 2) || bdWn d != 0)
  && (match bdOp d with
      | 1 => !(bdSk d == 1 && bdDk d == 1)
      | 2 => permIdentity d
      | 3 => permIdentity d && bdDk d == 0
      | 4 => permIdentity d && bdDk d == 0
      | 5 => bdSk d == 0 && bdDk d == 2
      | _ => true)

/-! ### Streams (09 R266, 05 R165) -/

def streamData (t : Tensor) : Nat := tokensFor' (elemCount t) (if t.lsel then 16 else fmtBits t.fmt)
where tokensFor' (n w : Nat) : Nat := ceilDiv (n * w) 512
def baleCount (t : Tensor) : Nat :=
  let b := if t.lsel then 32 else t.bale
  if b = 0 then 0 else ((List.range 6).map (fun d => if d = t.baxis then ceilDiv (sizeAt t d) b else sizeAt t d)).foldl (· * ·) 1
def streamScales (t : Tensor) : Nat := ceilDiv (baleCount t) 64

/-! ### Issue checks (09 R261, R267, R271, R276) -/

def sizesMatch (d : Desc) (src dst : Tensor) : Bool :=
  src.rank == dst.rank && (List.range 6).all (fun i => sizeAt dst i == sizeAt src (bdPerm d i))

/-- Sizes of a gather (`g` on the destination) or of a scatter (`g` on the source). -/
def sizesExcept (g : Nat) (a b : Tensor) : Bool :=
  a.rank == b.rank && decide (g < a.rank) && (List.range 6).all (fun i => i == g || sizeAt a i == sizeAt b i)

def indexLegal (x : Tensor) (n : Nat) : Bool := x.rank == 1 && x.fmt == 0xB && sizeAt x 0 == n

/-- Whether a tensor lies in SRAM windows. -/
def inSram (s : State) (t : Tensor) : Bool :=
  let win (a : Nat) : Bool := decide (0xF00000000000 ≤ a ∧ a < 0xF02000000000)
  if !t.dist then win t.addr
  else match readRec s t.addr 64 with
    | none => false
    | some h => (List.range (field h 192 32)).all (fun i => match readRec s (t.addr + 64 + 16 * i) 16 with
        | some e => field e 16 8 != 0xFF || win (field e 32 48)
        | none => false)

def sameForm (d : Desc) (a b : Tensor) : Bool :=
  a.fmt == b.fmt && a.bale == b.bale && (a.bale == 0 || (a.sfmt == b.sfmt && a.baxis == bdPerm d b.baxis))

def sameView (a b : Tensor) : Bool := a.stride == b.stride && a.sstride == b.sstride

def wider (a b : Option Tensor) : Nat :=
  max (match a with | some t => streamData t | none => 0) (match b with | some t => streamData t | none => 0)

/-- Room in the staging memory: 64 KiB straight, 32 KiB transposing. -/
def leadLegal (d : Desc) : Bool := decide (bdLead d * bdTtok d * 64 ≤ (if bdOp d = 1 ∧ bdPerm d 0 ≠ 0 then 0x8000 else 0x10000))

/-- The form in which an end of a transfer is read or written: the ledger's choice at the start, kept for a stream beside
its flag, since a yard source's tokens say their own format (05 R165). -/
def endForm (s : State) (t : Tensor) : Tensor := { resolved s t with lsel := t.lsel }

/-- The use of an end: in memory, or a stream (09 R266). -/
def endUse (kind : Nat) (dest : Bool) : TensorUse := if kind ≠ 0 then .stream else if dest then .dest else .source

/-- What reading the descriptors of a transfer leaves behind (01 R36, 00 R6). -/
def notePlan (s : State) (who : Agent) (d : Desc) : State :=
  if bdOp d = 0 then s
  else if bdOp d = 5 then noteDesc (noteRead s who (bdSrc d) 128) who (bdDst d)
  else
    let s := noteDesc (noteDesc s who (bdSrc d)) who (bdDst d)
    if bdOp d = 1 then s else noteDesc s who (bdIdx d)

/-- Two tensors in memory whose spans meet (09 R276). -/
def spansClash (s : State) (x y : Tensor) (inMemory : Bool) : Bool := inMemory && spansMeet (spansOf s x) (spansOf s y)

/-- The whole-tensor rules of a COPY (09 R267, R276): 0, or the status. -/
def copyCode (s : State) (d : Desc) (a b : Tensor) : Nat :=
  if !permLegal d b.rank then 0x0105
  else if !sizesMatch d a b then 0x0106
  else if (a.fmt = 0 ∨ b.fmt = 0) ∧ !sameForm d a b then 0x0140
  else if bdDk d = 2 ∧ b.fmt ≠ 0xC then 0x0140
  else if spansClash s a b (bdSk d = 0 && bdDk d = 0) && !(permIdentity d && sameForm d a b && sameView a b) then 0x0107
  else 0

/-- The whole-tensor rules of GATHER, SCATTER and SCATTER-ADD (09 R267, R276). An M40 tensor moves bit for bit only. -/
def indexedCode (s : State) (d : Desc) (a b x : Tensor) : Nat :=
  let g := bdGdim d
  let gather := bdOp d = 2
  if !(if gather then sizesExcept g b a else sizesExcept g a b) then 0x0106
  else if !indexLegal x (if gather then sizeAt b g else sizeAt a g) then 0x0108
  else if bdOp d = 4 ∧ !((b.fmt == 1 || b.fmt == 0xC) && inSram s b) then 0x0109
  else if (a.fmt = 0 ∨ b.fmt = 0) ∧ !sameForm d a b then 0x0140
  else if bdDk d = 2 ∧ b.fmt ≠ 0xC then 0x0140
  else if spansClash s a b (bdSk d = 0 && bdDk d = 0) || spansClash s x b (bdDk d = 0) then 0x0107
  else 0

/-- Read the tensors of a descriptor and check it as a whole; the first failing check gives the status. A CLOSE also has
its pool's slot tensor for a source (06 R191). -/
def plan (s : State) (d : Desc) (image : Bool) : Except Nat Plan :=
  if !bdLegal d image then .error 0x0105
  else if bdOp d = 0 then .ok {}
  else if !leadLegal d then .error 0x010A
  else if bdOp d = 5 then
    match readRec s (bdSrc d) 128, readTensor s (bdDst d) .stream with
    | none, _ => .error 0x0102
    | _, .error c => .error c
    | some w, .ok t =>
      match readTensor s (field w 160 48) .source with
      | .error c => .error c
      | .ok slots => if t.fmt ≠ 0xC then .error 0x0140 else .ok { src := some slots, dst := some t }
  else
  match readTensor s (bdSrc d) (endUse (bdSk d) false), readTensor s (bdDst d) (endUse (bdDk d) true) with
  | .error c, _ => .error c
  | _, .error c => .error c
  | .ok a0, .ok b0 =>
    let a := endForm s a0
    let b := endForm s b0
    if bdOp d = 1 then
      match copyCode s d a b with
      | 0 => .ok { src := some a, dst := some b }
      | c => .error c
    else
      match readTensor s (bdIdx d) .source with
      | .error c => .error c
      | .ok x => match indexedCode s d a b x with
        | 0 => .ok { src := some a, dst := some b, idx := some x }
        | c => .error c

/-! ### Jobs -/

def imageOf (j : BrwJob) : Bool := j.firing.isSome

/-- The agent that a descriptor acts as: a barrow may wait for one of its queue and for one of an image list at once. -/
def jobAgent (b : BrwId) (j : BrwJob) : Agent := if imageOf j then .image b else .barrow b

/-- The region of a barrow's firing. -/
def jobRegion (s : State) (b : BrwId) (j : BrwJob) : Option Region :=
  match brwStall b, j.firing with
  | some st, some (c, _) => unitRegion (unitOf s st (iouSite b.b)) c
  | _, _ => none

/-- The descriptors of a barrow's firing that are under way. -/
def imageJobs (x : BrwSt) : List BrwJob := x.landing ++ x.job.toList.filter imageOf

/-- Whether the barrow runs a block of its image list. -/
def firingOn (x : BrwSt) : Bool := imageJobs x != []

/-- Change the descriptor that acts as an agent of the barrow: the one of its queue, or the one at hand of its block. -/
def updAgentJob (x : BrwSt) (image : Bool) (f : BrwJob → BrwJob) : BrwSt :=
  let g (j : BrwJob) : BrwJob := if imageOf j == image then f j else j
  { x with job := x.job.map g, preempted := x.preempted.map g }

def putJob (s : State) (b : BrwId) (j : BrwJob) : State := updBrw s b (fun x => { x with job := some j })

def showCur (s : State) (b : BrwId) (a : Addr) : State := setF s (brwBase b + 0x28) 0 48 a.toNat
def showFetched (s : State) (b : BrwId) : State := setF s (brwBase b + 0x20) 8 5 (brwOf s b).fetched.length
/-- BRW_STAT.state of a job that is under way. -/
def showJob (s : State) (b : BrwId) (j : BrwJob) : State := brwState s b (if !j.waitMet then 3 else if imageOf j then 1 else 2)
/-- BRW_STAT.state with nothing under way. -/
def showIdle (s : State) (b : BrwId) : State := brwState s b (if (brwOf s b).stopped then 4 else 0)

/-- The barrow whose registers hold a queue: its own, or the failed one's. -/
def servedQueue (b : BrwId) : Option (Fin 8) → BrwId
  | some k => ⟨b.die, ⟨k.val, by omega⟩⟩
  | none => b

def qLg (s : State) (b : BrwId) : Nat := max 4 (getF s (brwBase b) 48 4)
def qHead (s : State) (b : BrwId) : Nat := getF s (brwBase b + 0x10) 0 12
def qTail (s : State) (b : BrwId) : Nat := getF s (brwBase b + 0x08) 0 12 % 2 ^ qLg s b

/-- The queue stops with a status; what was fetched is fetched again when it resumes. -/
def stopQueue (s : State) (b : BrwId) (code : Nat) (a : Addr) : State :=
  let s := updBrw s b (fun x => { x with fetched := [], stopReq := false, stopped := true })
  let s := if firingOn (brwOf s b) then s else showCur (brwState s b 4) b a
  emit (showFetched (setF s (brwBase b + 0x20) 32 16 code) b) (brwSrc s b) 0x0184 code a.toNat

/-- Begin a job: it registers its wait, or may move at once; a restarted one whose wait has been met does not wait again. -/
def beginJob (s : State) (b : BrwId) (j : BrwJob) : State :=
  let w := if j.waitMet then 0 else bdWk j.desc
  let j := { j with waitMet := decide (w = 0), waitSince := s.time }
  let s := showCur (showJob (putJob s b j) b j) b j.addr
  match w with
  | 0 => s
  | 1 => syncOp s (jobAgent b j) .arriveWait (bdWobj j.desc) 0
  | 2 => syncOp s (jobAgent b j) .take (bdWobj j.desc) (bdWn j.desc)
  | _ => syncOp s (jobAgent b j) .waitGe (bdWobj j.desc) (bdWn j.desc)

/-- With nothing under way, the next window fill or fetched queue descriptor begins. -/
def startNext (s : State) (b : BrwId) : State :=
  let x := brwOf s b
  if x.job.isSome ∨ firingOn x ∨ x.stopped ∨ brwCode s b = 5 ∨ getF s (brwBase b + 0x18) 0 1 = 0 then s else
  match x.fills, x.fetched with
  | (d, a, f) :: t, _ => beginJob (putBrw s b { x with fills := t }) b { desc := d, addr := a, firing := none, fill := some f }
  | [], [] => showIdle s b
  | [], (none, a) :: _ => stopQueue s b 0x0102 a
  | [], (some d, a) :: t =>
    let met := x.adopted.any (fun e => some e.1 == x.turn && e.2)
    let s := showFetched (putBrw s b { x with fetched := t, adopted := x.adopted.map (fun e => (e.1, e.2 && some e.1 != x.turn)) }) b
    beginJob s b { desc := d, addr := a, firing := none, waitMet := met, queue := x.turn }

/-- A queue descriptor fails: the queue stops at it (09 R288). -/
def failQueue (s : State) (b : BrwId) (j : BrwJob) (code : Nat) : State :=
  stopQueue (updBrw s b (fun x => { x with job := none, turn := j.queue })) b code j.addr

def advanceHead (s : State) (q : BrwId) : State := setF s (brwBase q + 0x10) 0 12 ((qHead s q + 1) % 2 ^ qLg s q)

/-- With no firing left the preempted queue descriptor goes on. -/
def restorePreempted (s : State) (b : BrwId) : State :=
  let x := brwOf s b
  match x.preempted with
  | some j =>
    let s := showCur (showJob (setF (putBrw s b { x with job := some j, preempted := none }) (brwBase b + 0x20) 3 1 0) b j) b j.addr
    if j.failed ≠ 0 then failQueue s b j j.failed.toNat else s
  | none => startNext (showIdle (putBrw s b { x with job := none }) b) b

/-- The firing of a barrow is over, completed or not. -/
def dropBlock (s : State) (b : BrwId) : State :=
  restorePreempted (updBrw s b (fun x => { x with job := x.job.filter (fun j => !imageOf j), landing := [] })) b

/-- A descriptor fails: its region halts, or its queue stops; no signal, no trigger (09 R277, R288). -/
def failJob (s : State) (b : BrwId) (j : BrwJob) (code : Nat) : State :=
  if imageOf j then
    let r := jobRegion s b j
    let s := setF s (brwBase b + 0x20) 32 16 code
    let s := dropBlock (showCur s b j.addr) b
    match r with | some r => haltRegion s r code | none => s
  else failQueue s b j code

/-- The firing's end: its tokens are consumed (03 R72). -/
def endFiring (s : State) (b : BrwId) (c : Slot) (tag : BitVec 16) : State :=
  match brwStall b with
  | none => s
  | some st =>
    let site := iouSite b.b
    let u := unitOf s st site
    match cfgOf u c with
    | none => s
    | some w =>
      let u := releaseTag u c (enabledIn w) tag
      countFiring (putUnit s st site (if hdrSource w then originated u c tag else u)) st site c

/-- YRD_WINST of a region: a window's entry has been filled or reused (10 R324). -/
def fillDone (s : State) (r : Region) : State :=
  match regionHome s r with
  | some st => addF s (stallReg st (0x1800 + 8 * r.val)) 0 16 1
  | none => s

def winOf (s : State) (r : Region) : WinSt := mget s.homes.windows {} r.val
def putWin (s : State) (r : Region) (x : WinSt) : State :=
  onHomes s (fun h => { h with windows := mset h.windows {} r.val x })

/-- Whether a job is the last share of its fill, or no fill at all. -/
def lastShare (s : State) (j : BrwJob) : Bool :=
  match j.fill with
  | some f => decide (mget (winOf s f.region).left 0 f.entry ≤ 1)
  | none => true

/-- A barrow has done its share of a fill; with the last one the entry is filled (10 R314). -/
def shareDone (s : State) (f : WinFill) : State :=
  let x := winOf s f.region
  let n := mget x.left 0 f.entry
  if n ≤ 1 then fillDone (putWin s f.region { x with left := mdel x.left f.entry }) f.region
  else putWin s f.region { x with left := mput x.left f.entry (n - 1) }

/-- The last read of a block's descriptor has been issued: the next one starts (09 R269). -/
def nextInBlock (s : State) (b : BrwId) (j : BrwJob) : State :=
  let s := updBrw s b (fun x => { x with job := none, landing := x.landing ++ [{ j with rest := [] }] })
  match j.rest with
  | (some d, a) :: t => beginJob s b { desc := d, addr := a, firing := j.firing, rest := t }
  | (none, a) :: _ => failJob s b { desc := 0, addr := a, firing := j.firing } 0x0102
  | [] => s

/-- A descriptor has completed: a block's firing ends with its last one; a queue goes on, or stops where it was asked to. -/
def completeJob (s : State) (b : BrwId) (j : BrwJob) : State :=
  match j.firing with
  | some (c, tag) =>
    let s := updBrw s b (fun x => { x with landing := x.landing.tail })
    if firingOn (brwOf s b) then s else restorePreempted (endFiring s b c tag) b
  | none =>
    let s := match j.fill with
      | some f => shareDone s f
      | none => advanceHead s (servedQueue b j.queue)
    let x := brwOf s b
    let s := putBrw s b { x with job := none, stopped := x.stopReq, stopReq := false }
    startNext (showIdle s b) b

/-- The reply or release of a barrow's wait (11 R341); a refused one fails the descriptor. -/
def barrowWoken (s : State) (b : BrwId) (image : Bool) (status : Nat) : State :=
  let x := brwOf s b
  match (x.job.toList ++ x.preempted.toList).find? (fun j => imageOf j == image && !j.waitMet) with
  | none => s
  | some j =>
    let s := satF s (brwBase b + 0x50) 0 48 (brwCycles s b (s.time - j.waitSince))
    let j' : BrwJob := { j with waitMet := decide (status = 0), failed := BitVec.ofNat 16 status }
    let s := updBrw s b (fun x => updAgentJob x image (fun _ => j'))
    if x.job ≠ some j then s
    else if status ≠ 0 then failJob s b j' status
    else showJob s b j'

/-! ### Queues (09 R270, R285) -/

def execQueueTailWrite (b : BrwId) (tail : Word) (s : State) : Host.Outcome State Fault Refusal :=
  finish s (setF s (brwBase b + 0x08) 0 12 (field tail.toNat 0 12))

/-- Index of the next descriptor to fetch of a queue that a barrow serves. -/
def fetchIndex (s : State) (b : BrwId) (q : Option (Fin 8)) : Nat :=
  let x := brwOf s b
  let mine (j : BrwJob) : Bool := !imageOf j && j.fill.isNone && j.queue == q
  (qHead s (servedQueue b q) + flag (x.job.any mine || x.preempted.any mine)) % 2 ^ qLg s (servedQueue b q)

/-- Descriptors of a queue that are there to be fetched. -/
def fetchable (s : State) (b : BrwId) (q : Option (Fin 8)) : Nat :=
  let n := 2 ^ qLg s (servedQueue b q)
  (qTail s (servedQueue b q) + n - fetchIndex s b q) % n

/-- The queue that a barrow fetches from next: its own, or one that it has taken over, in turn (09 R288). -/
def nextQueue (s : State) (b : BrwId) : Option (Fin 8) :=
  let x := brwOf s b
  let l := none :: x.adopted.map (fun e => some e.1)
  let after := (l.dropWhile (· ≠ x.turn)).drop 1
  ((after ++ l).find? (fun q => decide (0 < fetchable s b q))).getD none

/-- A descriptor as the barrow reads it. -/
def descAt (s : State) (a : Nat) : Option Desc × Addr := ((readRec s a 64).map (BitVec.ofNat 512), BitVec.ofNat 48 a)

/-- Up to 16 descriptors between head and tail are fetched when none is left of the last batch. -/
def descriptorFetch (s : State) (b : BrwId) : State :=
  let x := brwOf s b
  if !brwOn s b ∨ x.fetched ≠ [] ∨ x.stopped ∨ getF s (brwBase b + 0x18) 0 1 = 0 then s else
  let q := nextQueue s b
  let n := 2 ^ qLg s (servedQueue b q)
  let base := getF s (brwBase (servedQueue b q)) 0 48
  let at' := (List.range (min 16 (fetchable s b q))).map (fun k => base + 64 * ((fetchIndex s b q + k) % n))
  let s := each at' (fun s a => noteRead s (.barrow b) a 64) s
  startNext (showFetched (putBrw s b { x with fetched := at'.map (descAt s), turn := q }) b) b

def execDescriptorFetch (b : BrwId) (s : State) : Host.Outcome State Fault Refusal := finish s (descriptorFetch s b)

def barrowStop (s : State) (b : BrwId) : State :=
  let x := brwOf s b
  if (x.job.toList ++ x.preempted.toList).any (fun j => !imageOf j) then putBrw s b { x with stopReq := true }
  else if brwCode s b = 5 then s
  else
    let s := showFetched (putBrw s b { x with fetched := [], stopped := true }) b
    if firingOn x then s else brwState s b 4

def barrowResume (s : State) (b : BrwId) : State :=
  let x := brwOf s b
  if !x.stopped then s else
  let s := putBrw s b { x with stopped := false, stopReq := false }
  descriptorFetch (if firingOn x then s else brwState s b 0) b

def barrowSkip (s : State) (b : BrwId) : State :=
  let s := handRecord s (brwSrc s b)
  if (brwOf s b).stopped then barrowResume (advanceHead s (servedQueue b (brwOf s b).turn)) b
  else s

def execBarrowStop (b : BrwId) (s : State) : Host.Outcome State Fault Refusal := finish s (barrowStop s b)
def execBarrowResume (b : BrwId) (s : State) : Host.Outcome State Fault Refusal := finish s (barrowResume s b)
def execBarrowSkip (b : BrwId) (s : State) : Host.Outcome State Fault Refusal := finish s (barrowSkip s b)

/-- A failed manger barrow's queue passes to the next barrow of its group of four (09 R288): that one serves it, from the
failed one's registers, beside its own. The descriptor in progress restarts there, its wait not made again where it was met;
queues that the failed one served pass on as well. -/
def barrowFault (s : State) (m : Mg) (b : Fin 8) : State :=
  let die : Fin 36 := ⟨32 + m.val, by omega⟩
  let f : BrwId := ⟨die, ⟨b.val, by omega⟩⟩
  let t : BrwId := ⟨die, ⟨4 * (b.val / 4) + (b.val + 1) % 4, by omega⟩⟩
  let x := brwOf s f
  let met (q : Option (Fin 8)) : Bool := x.job.any (fun j => j.fill.isNone && j.queue == q && j.waitMet)
  let s := dropWaits s (fun a => a == .barrow f)
  let s := updBrw s t (fun y => { y with adopted := y.adopted ++ (b, met none) :: x.adopted.map (fun e => (e.1, e.2 || met (some e.1))) })
  let s := showFetched (brwState (putBrw s f {}) f 5) f
  descriptorFetch (emit s (srcManger m (0x28 + b.val)) 0x0185 b.val t.b.val) t

def execBarrowFault (m : Mg) (b : Fin 8) (s : State) : Host.Outcome State Fault Refusal := finish s (barrowFault s m b)

end Sys2Proof.Machine
end

