-- ==== Sys2Proof/Machine/Functions.lean ====
section
/-! DEFINITION. The real functions of the SFN (04 R123, R128, R130, R132), computed far more finely than FP32 holds, and
the choice of any FP32 result within a function's error bound. The formulas of GELU and of the Box–Muller method are the
published ones (PRESUMED, log entry 40). -/

namespace Sys2Proof.Machine

/-! ### Fixed point: a number stands for itself times 2^-160 -/

def fixOne : Nat := 2 ^ 160
def fixMul (a b : Nat) : Nat := a * b / fixOne

/-- The magnitude of a finite value, cut off below. -/
def fixOf : Val → Nat
  | .fin _ m e => if e + 160 < 0 then m / 2 ^ (e + 160).natAbs else m * 2 ^ (e + 160).toNat
  | _ => 0

def fixVal (neg : Bool) (n : Nat) : Val := .fin neg n (-160)

/-- The sum of `n` terms that follow `t`, term `k` being the one before times `r / d k`. -/
def series (r : Nat) (d : Nat → Nat) : Nat → Nat → Nat → Nat
  | 0, _, _ => 0
  | n + 1, k, t => t + series r d n (k + 1) (fixMul t r / d k)

/-- ln 2 = the sum of 1 / (k 2^k). -/
def ln2Fix : Nat := ((List.range 170).map (fun i => fixOne / ((i + 1) * 2 ^ (i + 1)))).foldl (· + ·) 0

/-- e^v of a finite value; beyond 2^9 in magnitude it stands for any result far out of FP32's range. -/
def expVal (v : Val) : Val :=
  if vIsZero v then vInt 1
  else
    let neg := vLt v vZero
    if 9 < floorLog v then .fin false 1 (if neg then -4096 else 4096)
    else
      let a := fixOf v
      let up : Val := .fin false (series (a % ln2Fix) (· + 1) 50 0 fixOne) ((a / ln2Fix : Nat) - 160)
      if neg then vDiv (vInt 1) up else up

/-- The sum over odd powers z^(2i+1) / (2i+1), from `t = z^(2i+1)`. -/
def oddSum (zz : Nat) : Nat → Nat → Nat → Nat
  | 0, _, _ => 0
  | n + 1, i, t => t / (2 * i + 1) + oddSum zz n (i + 1) (fixMul t zz)

/-- ln of a positive finite value: k ln 2 + 2 artanh((y − 1) / (y + 1)) with the value y 2^k, 1 ≤ y < 2. -/
def lnVal (v : Val) : Val :=
  match v with
  | .fin _ m e =>
    let y := m * fixOne / 2 ^ Nat.log2 m
    let z := (y - fixOne) * fixOne / (y + fixOne)
    let n : Int := (e + (Nat.log2 m : Int)) * (ln2Fix : Int) + (2 * oddSum (fixMul z z) 60 0 z : Nat)
    fixVal (decide (n < 0)) n.natAbs
  | w => w

def half (v : Val) : Val := vShift v (-1)

/-- tanh: near 0 from its series, else from e^(−2|v|). -/
def tanhVal (v : Val) : Val :=
  if vLt (vAbs v) (.fin false 1 (-20)) then vDiv (vMul v (vSub (vInt 3) (vMul v v))) (vInt 3)
  else
    let u := expVal (vNeg (vShift (vAbs v) 1))
    let r := vDiv (vSub (vInt 1) u) (vAdd (vInt 1) u)
    if vLt v vZero then vNeg r else r

def sigmoidVal (v : Val) : Val :=
  if vLt v vZero then let t := expVal v; vDiv t (vAdd (vInt 1) t)
  else vDiv (vInt 1) (vAdd (vInt 1) (expVal (vNeg v)))

/-- arctan(1 / n) from its series. -/
def atanInv (n : Nat) : Int :=
  ((List.range 120).map (fun k => sgnM (k % 2 == 1) (fixOne / ((2 * k + 1) * n ^ (2 * k + 1))))).foldl (· + ·) 0
/-- π = 16 arctan(1/5) − 4 arctan(1/239). -/
def piFix : Nat := (16 * atanInv 5 - 4 * atanInv 239).toNat
/-- The square root of a fixed-point number. -/
def fixSqrt (n : Nat) : Nat := isqrt (n * fixOne)

/-- Φ, the standard normal distribution function, for magnitudes up to 8: (1 ± erf(|v| / √2)) / 2. -/
def normalCdf (v : Val) : Val :=
  let z := fixOf v * fixOne / fixSqrt (2 * fixOne)
  let zz := fixMul z z
  let sum := series (2 * zz) (fun k => 2 * k + 3) 400 0 z
  let erf := fixMul (fixMul (fixOf (expVal (vNeg (fixVal false zz)))) sum) (2 * fixOne * fixOne / fixSqrt piFix)
  half (fixVal false (if vLt v vZero then fixOne - erf else fixOne + erf))

def geluErfVal (v : Val) : Val :=
  if vLt (vInt 8) (vAbs v) then (if vLt v vZero then .fin true 0 0 else v) else vMul v (normalCdf v)

/-- v × sigmoid(2 √(2/π) (v + 0.044715 v³)), which is (v/2)(1 + tanh(√(2/π) (v + 0.044715 v³))). -/
def geluTanhVal (v : Val) : Val :=
  let w := vAdd v (vMul (vDiv (vInt 44715) (vInt 1000000)) (vMul v (vMul v v)))
  vMul v (sigmoidVal (vMul (fixVal false (2 * fixSqrt (2 * fixOne * fixOne / piFix))) w))

def siluVal (v : Val) : Val := vMul v (sigmoidVal v)

/-- cos and sin of a quarter turn's part `f` (0 ≤ f < 1 in fixed point), from their series. -/
def cosSin (f : Nat) : Int × Int :=
  let x := fixMul f (piFix / 2)
  let t : List Int := (List.range 60).map (fun k => (((List.range k).foldl (fun t i => fixMul t x / (i + 1)) fixOne : Nat) : Int))
  let pick (r : Nat) : Int := (t.zipIdx.map (fun e => if e.2 % 2 = r then (if e.2 / 2 % 2 = 0 then e.1 else -e.1) else 0)).foldl (· + ·) 0
  (pick 0, pick 1)

/-- cos and sin of `u` whole turns, 0 ≤ u < 1. -/
def turnCosSin (u : Val) : Val × Val :=
  let a := 4 * fixOf u
  let (c, s) := cosSin (a % fixOne)
  let (c, s) := match a / fixOne with | 0 => (c, s) | 1 => (-s, c) | 2 => (-c, -s) | _ => (s, -c)
  (fixVal (decide (c < 0)) c.natAbs, fixVal (decide (s < 0)) s.natAbs)

/-! ### Results within a bound -/

/-- One unit in the last place of FP32 at a finite value. -/
def ulpVal (v : Val) : Val := .fin false 1 ((if vIsZero v then -126 else max (floorLog v) (-126)) - 23)

/-- A result within `err` of `f`: the free candidate when it is one, else `f` rounded. Every FP32 value within the bound,
and no other, can be the result. -/
def freeWithin (f err : Val) (cand : F32) : F32 :=
  let c := val32 cand
  if vFinite c && vFinite f && vLe (vAbs (vSub c f)) err then cand else to32 f

/-- `k` units in the last place. -/
def ulps (k : Nat) (f : Val) : Val := vMul (vInt k) (ulpVal f)

/-- The larger of 4 units in the last place and 2^−20. -/
def geluErr (f : Val) : Val := let u := ulps 4 f; if vLt u (.fin false 1 (-20)) then .fin false 1 (-20) else u

end Sys2Proof.Machine
end

