-- ==== Sys2Proof/Machine/Sfn.lean ====
section
/-! DEFINITION. The SFN (04 R127–R132): operation records, elementwise and row operations, the piecewise-polynomial
tables, the generator, and a firing. A result that the spec bounds but does not fix is free within its bound. -/

namespace Sys2Proof.Machine

/-- A value on its way through an SFN: FP32 bits, or an INT32. -/
structure SVal where
  int : Bool := false
  bits : BitVec 32
  deriving DecidableEq, Repr

def sf (x : F32) : SVal := { bits := x }
def si (x : BitVec 32) : SVal := { int := true, bits := x }
/-- The FP32 value of either. -/
def SVal.f (v : SVal) : F32 := if v.int then to32 (vInt (signedOf 32 v.bits.toNat)) else v.bits

def nan32 : F32 := 0x7FC00000
def isNan32 (x : F32) : Bool := vNan (val32 x)
def one32 : F32 := 0x3F800000
def negInf32 : F32 := 0xFF800000
def posInf32 : F32 := 0x7F800000

/-! ### Elementwise functions (04 R130) -/

/-- The results that are exact: those of a NaN and of the special values of R130, and the limits at an infinity. -/
def sfnSpecial (op : Nat) (x : F32) : Option F32 :=
  if isNan32 x then some nan32 else
  match op with
  | 0x01 => if x = posInf32 then some posInf32 else if x = negInf32 then some 0 else none
  | 0x02 => if x = 0 then some negInf32 else if lt32 x 0 then some nan32 else if x = posInf32 then some posInf32 else none
  | 0x03 => if x = posInf32 then some 0 else if x = negInf32 then some 0x80000000
            else if x = 0 then some posInf32 else if x = 0x80000000 then some negInf32 else none
  | 0x04 => if x = 0 then some posInf32 else if lt32 x 0 then some nan32 else if x = posInf32 then some 0 else none
  | 0x05 => if x = posInf32 then some one32 else if x = negInf32 then some 0xBF800000 else none
  | 0x06 => if x = negInf32 then some 0 else if x = posInf32 then some one32 else none
  | 0x07 | 0x08 | 0x09 => if x = negInf32 then some 0x80000000 else if x = posInf32 then some posInf32 else none
  | _ => none

/-- A function's exact value and its error bound at other finite operands (R130); none where the spec states no result:
LOG and RSQRT of −0. -/
def sfnReal (op : Nat) (x : F32) : Option (Val × Val) :=
  let v := val32 x
  let within (k : Nat) (f : Val) : Option (Val × Val) := some (f, ulps k f)
  match op with
  | 0x01 => within 2 (expVal v)
  | 0x02 => if vIsZero v then none else within 2 (lnVal v)
  | 0x03 => within 1 (vDiv (vInt 1) v)
  | 0x04 => if vIsZero v then none else within 1 (vDiv (vInt 1) (vSqrt v))
  | 0x05 => within 3 (tanhVal v)
  | 0x06 => within 3 (sigmoidVal v)
  | 0x07 => let f := geluTanhVal v; some (f, geluErr f)
  | 0x08 => let f := geluErfVal v; some (f, geluErr f)
  | 0x09 => let f := siluVal v; some (f, geluErr f)
  | _ => none

/-- EXP to SILU of an operand: exact where R130 says so, else free within the bound; an overflow of EXP gives +inf, an
underflow +0. Where the spec states no result, any value. -/
def sfnBounded (op : Nat) (x : F32) (draw : Nat) : F32 :=
  let cand := Config.sfnValue op x draw
  match sfnSpecial op x, sfnReal op x with
  | some y, _ => y
  | none, some (f, err) =>
    if op = 0x01 ∧ (to32 f = posInf32 ∨ to32 f = 0) then to32 f else freeWithin f err cand
  | none, none => cand

/-- Coefficient `c` of segment `seg` of table `t`, and the range of a table (04 R131, R139). -/
def pwCoef (s : State) (st : Stall) (t seg c : Nat) : F32 :=
  let i := t * 256 + seg * 4 + c
  BitVec.ofNat 32 (getF s (stallReg st (0x130000 + 8 * (i / 2))) (32 * (i % 2)) 32)
def pwRange (s : State) (st : Stall) (t : Nat) : F32 × F32 :=
  let a := stallReg st (0x130800 + 8 * t)
  (BitVec.ofNat 32 (getF s a 0 32), BitVec.ofNat 32 (getF s a 32 32))

/-- A piecewise polynomial, rounded once (04 R131); the spec does not say where it rounds. -/
def piecewise (s : State) (st : Stall) (t : Nat) (x : F32) : F32 :=
  let (lo, hi) := pwRange s st t
  if !lt32 lo hi || isNan32 x then nan32
  else
    let x := if lt32 x lo then lo else if lt32 hi x then hi else x
    let d := vSub (val32 hi) (val32 lo)
    let off := vSub (val32 x) (val32 lo)
    let seg : Nat := match vDiv (vMul off (vInt 64)) d with
      | .fin _ m e => if e < 0 then m / 2 ^ e.natAbs else m * 2 ^ e.toNat
      | _ => 63
    let seg : Nat := min 63 seg
    let u := vSub off (vDiv (vMul (vInt seg) d) (vInt 64))
    let c (k : Nat) : Val := val32 (pwCoef s st t seg k)
    to32 (vAdd (c 0) (vAdd (vMul (c 1) u) (vAdd (vMul (c 2) (vMul u u)) (vMul (c 3) (vMul u (vMul u u))))))

/-- A function of one operand (04 R128, codes 0x01 to 0x0D; 0x00 is not listed and gives any value). -/
def sfnUnary (s : State) (st : Stall) (op : Nat) (x : F32) (draw : Nat) : F32 :=
  match op with
  | 0x0A => if isNan32 x then nan32 else if lt32 x 0 then 0 else x
  | 0x0B => if isNan32 x then nan32 else if lt32 x 0 then 0 else mul32 x x
  | 0x0C => piecewise s st 0 x
  | 0x0D => piecewise s st 1 x
  | 0 => Config.sfnValue op x draw
  | _ => sfnBounded op x draw

/-- The store path's activations are the same functions (04 R123). -/
def actOp (act : Nat) : Nat :=
  match act with
  | 1 => 0x0A | 2 => 0x07 | 3 => 0x08 | 4 => 0x09 | 5 => 0x06 | 6 => 0x05 | 7 => 0x0B | 8 => 0x0C | _ => 0x0D

def cmp32 (k : Nat) (a b : F32) : Bool :=
  match k with
  | 0 => lt32 a b
  | 1 => le32 a b
  | 2 => vEq (val32 a) (val32 b)
  | 3 => !vEq (val32 a) (val32 b)
  | 4 => le32 b a
  | 5 => lt32 b a
  | _ => false

def max32 (a b : F32) : F32 := if isNan32 a || isNan32 b then nan32 else if lt32 a b then b else a
def min32 (a b : F32) : F32 := if isNan32 a || isNan32 b then nan32 else if lt32 b a then b else a

/-- An operation of two operands and the constants (codes 0x10 to 0x19). CMP gives 1.0 or 0.0 and SELECT one of its operands
of a NaN as well: R128 names no other result, though R130 says that a NaN input gives a NaN result (DEDUCED, log entry
40). Flags 6 and 7 of CMP and the codes that R128 does not list give free values. -/
def sfnBinary (op flags : Nat) (c0 c1 a b : F32) (draw : Nat) : F32 :=
  match op with
  | 0x10 => add32 a b
  | 0x11 => mul32 a b
  | 0x12 => fma32 a c0 b
  | 0x13 => max32 a b
  | 0x14 => min32 a b
  | 0x15 => fma32 a c0 c1
  | 0x18 => if (if flags % 8 < 6 then cmp32 (flags % 8) a b else Config.pick draw % 2 == 1) then one32 else 0
  | 0x19 => if vIsZero (val32 a) then c0 else b
  | _ => Config.sfnValue op a draw

/-! ### Row operations -/

/-- A sum in an order that the spec leaves open: two of the terms, freely chosen, are added and rounded, again and
again. The fuel is the count of terms. -/
def freeSum : Nat → List F32 → Nat → F32
  | 0, l, _ => l.headD 0
  | _ + 1, [], _ => 0
  | _ + 1, [x], _ => x
  | n + 1, x :: t, d =>
    let i := Config.pick d % t.length
    let y := t.getD i 0
    freeSum n (t.eraseIdx i ++ [add32 x y]) (d + 1)

def rowSum (l : List F32) (d : Nat) : F32 := if l.any isNan32 then nan32 else freeSum l.length l d
def rowMax (l : List F32) : F32 := l.foldl max32 (l.headD negInf32)

/-- An exponential, within its bound. -/
def exp32 (x : F32) (d : Nat) : F32 := sfnBounded 0x01 x d

def softmaxRow (l : List F32) (d : Nat) : List F32 :=
  if l.any isNan32 then l.map (fun _ => nan32) else
  let m := rowMax l
  let es := l.zipIdx.map (fun e => exp32 (sub32 e.1 m) (d + e.2))
  let t := rowSum es (d + l.length)
  es.map (fun e => div32 e t)

def of32 (n : Nat) : F32 := to32 (vInt n)

/-- Reciprocal square root within 1 ulp. -/
def rsqrt32 (x : F32) (d : Nat) : F32 := sfnBounded 0x04 x d

/-- Element `i` of operand b; where b is shorter than operand a, the spec states no value and any is read. -/
def opB (b : List F32) (i draw : Nat) : F32 := b.getD i (Config.sfnValue 0x100 (BitVec.ofNat 32 i) draw)

def rmsRow (l b : List F32) (c0 : F32) (d : Nat) : List F32 :=
  let ms := div32 (rowSum (l.map (fun x => mul32 x x)) d) (of32 l.length)
  let r := rsqrt32 (add32 ms c0) (d + l.length)
  l.zipIdx.map (fun e => mul32 (mul32 e.1 r) (opB b e.2 d))

def layerRow (l b : List F32) (c0 : F32) (d : Nat) : List F32 :=
  let mean := div32 (rowSum l d) (of32 l.length)
  let xs := l.map (fun x => sub32 x mean)
  let var := div32 (rowSum (xs.map (fun x => mul32 x x)) (d + l.length)) (of32 l.length)
  let r := rsqrt32 (add32 var c0) (d + 2 * l.length)
  xs.zipIdx.map (fun e => mul32 (mul32 e.1 r) (opB b e.2 d))

/-- Insert a candidate, larger values first; ties go to the lower index. -/
def insertCand (x : F32 × Nat) : List (F32 × Nat) → List (F32 × Nat)
  | [] => [x]
  | y :: t => if lt32 y.1 x.1 ∨ (vEq (val32 x.1) (val32 y.1) ∧ x.2 < y.2) then x :: y :: t else y :: insertCand x t

def topCands (k : Nat) (l : List (F32 × Nat)) : List (F32 × Nat) :=
  ((l.filter (fun e => !isNan32 e.1)).foldl (fun acc x => (insertCand x acc).take k) [])

/-- A candidate list in tokens: each value followed by its INT32 index (the model's choice). -/
def candVals (l : List (F32 × Nat)) : List SVal := l.flatMap (fun e => [sf e.1, si (BitVec.ofNat 32 e.2)])
def candsOf : List SVal → List (F32 × Nat)
  | v :: i :: t => (v.bits, i.bits.toNat) :: candsOf t
  | _ => []

/-- The shortest prefix whose sum reaches a bound. -/
def topPrefix (bound : F32) : F32 → List (F32 × Nat) → List (F32 × Nat)
  | _, [] => []
  | acc, x :: t => let a := add32 acc x.1; if le32 bound a then [x] else x :: topPrefix bound a t

/-- The first candidate at which the cumulative probability reaches `u`; the last one when it never does. -/
def drawCand (u : F32) : F32 → List (F32 × Nat) → Nat
  | _, [] => 0
  | acc, x :: t => let a := add32 acc x.1; if le32 u a ∨ t = [] then x.2 else drawCand u a t

/-! ### The generator (04 R132) -/

/-- Which of a call's four words serves a value that needs one: the spec does not say, it is one constant. -/
def rngWord : Nat := Config.unstated 0x132 0

def rngCounter (base : Nat) (tag : BitVec 16) (j op elem : Nat) : Nat :=
  base * 2 ^ 80 + tag.toNat * 2 ^ 64 + (j % 64) * 2 ^ 58 + (op % 16) * 2 ^ 54 + elem % 2 ^ 48

/-- Uniform on [0, 1): (word >> 8) × 2^−24. -/
def uniform (w : BitVec 32) : F32 := to32 (.fin false (w.toNat / 256) (-24))

/-- A pair of standard normal values by the Box–Muller method: r cos 2πu₂ and r sin 2πu₂ with r = √(−2 ln u₁). The spec
states no error bound; each lies within 4 units in the last place (log entry 40). At u₁ = 0 the method has no result. -/
def normalPair (w1 w2 : BitVec 32) (second : Bool) (draw : Nat) : F32 :=
  let u1 := val32 (uniform w1)
  let cand := Config.sfnValue 0x31 w1 draw
  if vIsZero u1 then cand
  else
    let r := vSqrt (vShift (vNeg (lnVal u1)) 1)
    let (c, s) := turnCosSin (val32 (uniform w2))
    let f := vMul r (if second then s else c)
    freeWithin f (ulps 4 f) cand

/-- Value `i` of an iteration: 0x30 uniform, 0x31 normal, 0x32 Bernoulli. Values 2k and 2k + 1 are a pair of RNGN: both take
two words of the call at the counter of 2k (the model's choice, log entry 41). -/
def rngValue (op : Nat) (c0 : F32) (key : Word) (ctr : Nat → Nat) (i draw : Nat) : F32 :=
  let w := philoxWord key (ctr i) rngWord
  match op with
  | 0x30 => uniform w
  | 0x31 =>
    let c := ctr (i - i % 2)
    normalPair (philoxWord key c rngWord) (philoxWord key c (rngWord + 1)) (i % 2 == 1) draw
  | _ => if lt32 (uniform w) c0 then one32 else 0

/-! ### A firing -/

structure SfnOp where
  op : Nat
  a : Nat
  b : Nat
  out : Nat
  chain : Bool
  flags : Nat
  c0 : F32
  c1 : BitVec 32
  len : Nat
  deriving DecidableEq, Repr

def sfnOpOf (w : BitVec 4096) (j : Nat) : SfnOp :=
  let r := progBits w (208 + 16 * j) 0 128
  { op := field r 0 8, a := field r 8 3, b := field r 11 3, out := field r 14 3, chain := bitOf r 17
    flags := field r 24 8, c0 := BitVec.ofNat 32 (field r 32 32), c1 := BitVec.ofNat 32 (field r 64 32), len := field r 96 32 }

/-- The operations of a program. The header's count is 1 to 16; of another count the spec says nothing, and the model runs
no operation for 0 and 16 for more (DESIGN CHOICE, log entry 40). -/
def sfnOps (w : BitVec 4096) : List SfnOp := (List.range (min 16 (progBits w 200 0 5))).map (sfnOpOf w)

/-- The format by which a token's values are read; a control token carries INT32s. -/
def valFmt (t : Token) : Nat := if t.kind = .control then 0xB else t.fmt.toNat

/-- Cut tokens into runs of one format: the streams that they carry (05 R147). -/
def fmtRuns : List Token → List (Nat × List Token)
  | [] => []
  | t :: l => match fmtRuns l with
    | (f, r) :: rest => if valFmt t = f then (f, t :: r) :: rest else (valFmt t, [t]) :: (f, r) :: rest
    | [] => [(valFmt t, [t])]

def narrowFmt (f : Nat) : Bool := decide (0x4 ≤ f ∧ f ≤ 0xA)

/-- Of the data tokens of a ledger-selected tensor in a narrow format, the first half: the rest of the count is void and
carries no element (05 R165). -/
def realTokens (scaled : Bool) (ts : List Token) : List Token :=
  let k := ts.length - ts.length / 2
  if scaled && ts.any (fun t => !t.void && (t.fmt == 4 || t.fmt == 5)) && (ts.drop k).all (·.void) then ts.take k else ts

/-- The values that an input's tokens carry, in order. The elements of a run of tokens are one stream, so that an element may
straddle two of them; a void reads as zeros. Real scale tokens after narrow values scale them, 32 values each, as R165 has
it; the spec names no bale size to an SFN (log entry 40). -/
def inputVals (ts : List Token) : List SVal :=
  let scs := ts.filter (fun t => isScale t && !t.void)
  let sfmt := match scs.head? with | some t => t.fmt.toNat | none => 0xD
  let scales := scs.flatMap (fun t => bytesOf t.payload)
  let data := realTokens (!scs.isEmpty) (ts.filter (fun t => !isScale t))
  (fmtRuns data).flatMap (fun r =>
    let w := fmtBits r.1
    let cs := unpackNat w (512 * r.2.length / w) (payloadNat r.2)
    if r.1 = 0xB then cs.map (fun x => si (BitVec.ofNat 32 x))
    else cs.zipIdx.map (fun e => sf (to32 (
      if scs.isEmpty then elemVal r.1 e.1
      else
        let x := (scales.getD (e.2 / 32) 0).toNat
        if r.1 = 0xC then bxVal x e.1 else if narrowFmt r.1 then baledVal r.1 sfmt x e.1 else elemVal r.1 e.1))))

/-- Cut into rows of `len`; one row when len is 0. -/
def rowsOf (len : Nat) (l : List SVal) : List (List F32) :=
  ((if len = 0 then [l] else chunk len l)).map (fun r => r.map SVal.f)

/-- Of a row sent twice, the first pass (04 R129). -/
def firstPass (len : Nat) (l : List SVal) : List SVal :=
  if len = 0 then l.take (l.length / 2)
  else ((chunk len l).zipIdx.filter (fun e => e.2 % 2 == 0)).flatMap Prod.fst

/-- The count of TOPK and TOPKMERGE, 1 to 64; of another the spec states nothing, and the count is free. -/
def topCount (o : SfnOp) : Nat :=
  let k := o.c1.toNat
  if 1 ≤ k ∧ k ≤ 64 then k else Config.unstated 0x128 k % 64 + 1

/-- An input's values as operation `o` reads them: of candidate lists that arrive in tokens, the padding of each list's last
token is no candidate. A list has the record's row length, or c1 candidates in a TOPKMERGE that gives none (08 R247; log
entry 40). -/
def unpadded (o : SfnOp) (l : List SVal) : List SVal :=
  let n := if o.len ≠ 0 then o.len else if o.op = 0x29 then topCount o else 0
  if o.op < 0x29 ∨ 0x2B < o.op ∨ n = 0 then l
  else (chunk (ceilDiv n 8 * 16) l).flatMap (fun r => r.take (2 * n))

/-- The results of one operation on its operands; `draw` is the next free value. -/
def sfnApply (s : State) (st : Stall) (j opIdx : Nat) (tag : BitVec 16) (o : SfnOp) (a b : List SVal) (draw : Nat) : List SVal :=
  let base := stallReg st (0x120000 + 0x40 * j)
  let key := getReg s base
  let ctrBase := getF s (base + 8) 0 48
  let ctr (i : Nat) : Nat := rngCounter ctrBase tag j opIdx i
  if o.op ≤ 0x0D then a.zipIdx.map (fun e => sf (sfnUnary s st o.op e.1.f (draw + e.2)))
  else if o.op ≤ 0x19 then
    a.zipIdx.map (fun e => sf (sfnBinary o.op o.flags o.c0 o.c1 e.1.f (opB (b.map SVal.f) e.2 draw) (draw + e.2)))
  else match o.op with
    | 0x20 => (rowsOf o.len a).map (fun r => sf (rowMax r))
    | 0x21 => (rowsOf o.len a).zipIdx.map (fun r => sf (rowSum r.1 (draw + r.2 * r.1.length)))
    | 0x22 => (rowsOf o.len (firstPass o.len a)).zipIdx.flatMap (fun r => (softmaxRow r.1 (draw + r.2 * 2 * r.1.length)).map sf)
    | 0x23 => (rowsOf o.len (firstPass o.len a)).zipIdx.flatMap (fun r =>
        (rmsRow r.1 (b.map SVal.f) o.c0 (draw + r.2 * 2 * r.1.length)).map sf)
    | 0x24 => (rowsOf o.len (firstPass o.len a)).zipIdx.flatMap (fun r =>
        (layerRow r.1 (b.map SVal.f) o.c0 (draw + r.2 * 3 * r.1.length)).map sf)
    | 0x28 => (rowsOf o.len a).flatMap (fun r => candVals (topCands (topCount o) r.zipIdx))
    | 0x29 => candVals (topCands (topCount o) (candsOf a ++ candsOf b))
    | 0x2A =>
      let cs := candsOf a
      let ps := softmaxRow (cs.map (fun c => div32 c.1 o.c0)) draw
      candVals (topPrefix o.c1 0 (ps.zip (cs.map Prod.snd)))
    | 0x2B =>
      let cs := candsOf a
      if vIsZero (val32 o.c0) then [si (BitVec.ofNat 32 ((cs.head?.map Prod.snd).getD 0))]
      else [si (BitVec.ofNat 32 (drawCand (uniform (philoxWord key (ctr 0) rngWord)) 0 cs))]
    | 0x30 | 0x31 | 0x32 =>
      (List.range (if o.len = 0 then a.length else o.len)).map (fun i => sf (rngValue o.op o.c0 key ctr i (draw + i)))
    | _ => a.zipIdx.map (fun e => sf (BitVec.ofNat 32 (Config.unstated o.op (draw + e.2))))

/-- What running a program gives: results by output, and the NaN elements that TOPK passed over (04 R129). -/
structure SfnOut where
  res : List (Nat × SVal) := []
  skipped : Nat := 0
  deriving DecidableEq, Repr

/-- Run the operations in order. -/
def sfnRun (s : State) (st : Stall) (j : Nat) (tag : BitVec 16) (ins : Nat → List SVal) :
    List SfnOp → Nat → Option (List SVal) → Nat → SfnOut
  | [], _, _, _ => {}
  | o :: t, k, held, d =>
    let a := match held with | some v => v | none => unpadded o (ins o.a)
    let r := sfnApply s st j k tag o a (unpadded o (ins o.b)) d
    let d' := d + 4 * (a.length + 1)
    let next := sfnRun s st j tag ins t (k + 1) (if o.chain then some r else none) d'
    { res := (if o.chain then [] else r.map (fun v => (o.out, v))) ++ next.res
      skipped := (if o.op = 0x28 then (a.filter (fun v => isNan32 v.f)).length else 0) + next.skipped }

/-- Draws that a run may use. -/
def sfnDraws (ins : Nat → List SVal) (os : List SfnOp) : Nat := (os.map (fun o => 4 * (64 * 256 * 16 + (ins o.a).length))).foldl (· + ·) 0

/-- The destination of an SFN output, as a tensor: its saturation mode, and the layer whose statistics it gathers. R144 and
R161 take them from the destination tensor's descriptor, and no field of an SFN's configuration names one: they are one
unknown constant for each unit, slot and output (log entry 40). -/
def sfnMode (st : Stall) (site : Site) (c : Slot) (o : Nat) : Bool := bitOf (Config.unstated 0x144 (unitKey st site * 32 + c.val * 8 + o)) 0
def sfnLayer (st : Stall) (site : Site) (c : Slot) (o : Nat) : Option Nat :=
  let x := Config.unstated 0x161 (unitKey st site * 32 + c.val * 8 + o)
  if bitOf x 0 then some (field x 1 12) else none

/-- Codes of an output's values in its format (04 R130; 05 R143–R145): an INT32 goes into a 32-bit format as it is. -/
def sfnCode (fmt : Nat) (mode : Bool) (v : SVal) : Conv :=
  if v.int && (fmt == 0xB || fmt == 1) then { code := v.bits.toNat }
  else if fmt = 1 then { code := v.bits.toNat }
  else convElem fmt false mode (val32 v.f)

/-- Statistics of a conversion of unbaled values, in runs of 32 (05 R161). -/
def runStats (fmt : Nat) (vs : List Val) (cs : List Conv) : Counts :=
  ((chunk 32 (vs.zip cs)).map (fun r =>
    countBale (r.map Prod.fst) (zeroCodes fmt (r.map (fun e => e.2.code))) ((r.filter (fun e => e.2.sat)).length))).foldl addCounts {}

/-- An SFN fires (04 R127; 03 R81, R282). -/
def fireSfn (s : State) (st : Stall) (site : Site) (w : BitVec 4096) (c : Slot) (tag : BitVec 16) : State :=
  let u := unitOf s st site
  let ins := enabledIn w
  let outs := enabledOut w
  let taken (i : Nat) : List Token := takenAt u w c tag i
  let all := ins.flatMap taken
  let j := siteIndex site
  let reg := stallReg st (0x120000 + 0x40 * j + 0x20)
  let void := all.any (fun t => t.void && t.kind == .data) && !hdrVoidZero w
  let bad := all.any (·.poison)
  let (u', s) :=
    if void then
      (outs.foldl (fun u o => pushOut u c o (List.replicate (outGive w o) { voidToken w c tag o with poison := bad })) u, s)
    else
      let vals (i : Nat) : List SVal := inputVals (taken i)
      let os := sfnOps w
      let run := sfnRun s st j tag vals os 0 none s.draws
      let s := { s with draws := s.draws + sfnDraws vals os }
      let s := satF (satF s reg 0 32 (run.res.filter (fun r => !r.2.int && isNan32 r.2.bits)).length) reg 32 32 run.skipped
      let made (o : Nat) : List (Val × Conv) :=
        (run.res.filter (fun r => r.1 == o)).map (fun r => (val32 r.2.f, sfnCode (outFmt w o) (sfnMode st site c o) r.2))
      let s := each outs (fun s o => match sfnLayer st site c o with
        | some layer => gather s st (islandOf site) layer (runStats (outFmt w o) ((made o).map Prod.fst) ((made o).map Prod.snd))
        | none => s) s
      (outs.foldl (fun u o =>
        let cs := (made o).map Prod.snd
        let ts := spoiledTokens (fmtBits (outFmt w o)) { outToken w c tag o with poison := bad } (cs.map (·.code)) (cs.map (·.bad))
        pushOut u c o (padTo (outGive w o) { voidToken w c tag o with poison := bad } ts)) u, s)
  countFiring (putUnit s st site (releaseTag u' c ins tag)) st site c

end Sys2Proof.Machine
end

