-- ==== Sys2Proof/Machine/Mat.lean ====
section
/-! DEFINITION. The MAT (04 R105–R126, R136–R138): issue and its checks, one step of a tile, the store path at a
tile's end, ECC findings, and retirement. -/

namespace Sys2Proof.Machine

def matReg (st : Stall) (k off : Nat) : Nat := stallReg st (0x100000 + 0x40 * k + off)

/-- The SFN adjacent to a MAT (02 R38, R39): the site of its island block with local column and row 1 or 4. -/
def sfnOfMat (site : Site) : Site :=
  let near (v : Nat) : Nat := v / 6 * 6 + (if v % 6 < 3 then 1 else 4)
  siteAt (near (site.val % 24)) (near (site.val / 24))

/-! ### The instruction record (04 R110) -/

def matInstr (w : BitVec 4096) (i : Nat) : Nat := progBits w (208 + 64 * i) 0 512
def miOp (r : Nat) : Nat := field r 0 4
def miAct (r : Nat) : Nat := field r 4 4
def miM (r : Nat) : Nat := field r 8 8
def miN (r : Nat) : Nat := field r 16 8
def miK (r : Nat) : Nat := field r 24 12
def miBiasEn (r : Nat) : Bool := bitOf r 36
def miBiasRow (r : Nat) : Bool := bitOf r 37
def miScaleEn (r : Nat) : Bool := bitOf r 38
def miTrans (r : Nat) : Bool := bitOf r 39
def miSatNan (r : Nat) : Bool := bitOf r 40
def miSig (r : Nat) : Bool := bitOf r 41
def miSigEach (r : Nat) : Bool := bitOf r 42
def miA (r : Nat) : Nat := field r 64 48
def miB (r : Nat) : Nat := field r 112 48
def miC (r : Nat) : Nat := field r 160 48
def miBias (r : Nat) : Nat := field r 208 48
def miScale (r : Nat) : F32 := BitVec.ofNat 32 (field r 256 32)
def miSref (r : Nat) : Sref := BitVec.ofNat 24 (field r 288 24)
def miSlots (r : Nat) : Nat := field r 312 32

/-! ### The issue checks (04 R118) -/

/-- The descriptors of an instruction, as tensors. -/
structure MatOps where
  a : Tensor
  b : Tensor
  c : Tensor
  bias : Option Tensor
  deriving DecidableEq, Repr

def recordLegal (r : Nat) : Bool :=
  decide (1 ≤ miOp r ∧ miOp r ≤ 3 ∧ miAct r ≤ 9) && field r 43 21 == 0 && field r 344 168 == 0
  && miA r % 64 == 0 && miB r % 64 == 0 && miC r % 64 == 0 && (!miBiasEn r || miBias r % 64 == 0)
  && (!miSigEach r || miSig r)

/-- The descriptors that an instruction names: address, the ranks it may have, use. -/
def matDescs (r : Nat) : List (Nat × Nat × Nat × TensorUse) :=
  [(miA r, 2, 6, .source), (miB r, 2, 6, .source), (miC r, 2, 6, .dest)]
  ++ (if miBiasEn r then [(miBias r, 1, 1, .source)] else [])

/-- The descriptors as the sequencer reads them. Each must be readable and of a rank within its bounds (R118); then the
checks that every reader of a descriptor makes apply, with their own statuses (09 R261; DEDUCED, log entry 37). -/
def matOps (s : State) (r : Nat) : Except Nat MatOps :=
  let ws := (matDescs r).map (fun d => (d, descWords s d.1))
  if ws.any (fun e => match e.2 with
      | none => true
      | some (w, _) => decide (field w 48 3 < e.1.2.1 ∨ e.1.2.2.1 < field w 48 3)) then .error 0x020F
  else
    let ts := ws.filterMap (fun e => e.2.map (fun x => (x, e.1.2.2.2)))
    match (ts.map (fun e => tensorCode s e.1.1 e.1.2 e.2)).find? (· ≠ 0), ts.map (fun e => tensorOf e.1.1 (some e.1.2)) with
    | some code, _ => .error code
    | none, a :: b :: c :: rest => .ok { a := a, b := b, c := c, bias := rest.head? }
    | none, _ => .error 0x020F

/-- Width at which an operand is counted: a ledger-selected one as 16-bit (05 R165). -/
def planBits (t : Tensor) : Nat := if t.lsel then 16 else fmtBits t.fmt
/-- Bale size for which scales are counted. -/
def planBale (t : Tensor) : Nat := if t.lsel then 32 else t.bale

def tileLegal (r : Nat) : Bool :=
  let ok (v : Nat) : Bool := v == 32 || v == 64 || v == 96 || v == 128
  ok (miM r) && ok (miN r) && decide (miM r * miN r ≤ 16384)

def setLegal (r : Nat) (o : MatOps) : Bool :=
  miK r != 0 && miK r % 32 == 0 && decide (miM r * miK r * planBits o.a ≤ 16384 * 8) && decide (miK r * miN r * planBits o.b ≤ 16384 * 8)

def operandFmt (t : Tensor) : Bool := t.lsel || decide (1 ≤ t.fmt ∧ t.fmt ≤ 0xA)
def formatsLegal (o : MatOps) : Bool :=
  let int (t : Tensor) : Bool := !t.lsel && isIntFmt t.fmt
  operandFmt o.a && operandFmt o.b && (int o.a == int o.b)

/-- The tile's extent along an axis of C as it is stored. -/
def storedExtent (r axis : Nat) : Nat :=
  match axis with
  | 0 => if miTrans r then miM r else miN r
  | 1 => if miTrans r then miN r else miM r
  | _ => 1

def balesLegal (r : Nat) (o : MatOps) : Bool :=
  (planBale o.a == 0 || (o.a.baxis == 0 && miK r % planBale o.a == 0))
  && (planBale o.b == 0 || (o.b.baxis == 1 && miK r % planBale o.b == 0))
  && (planBale o.c == 0 || storedExtent r o.c.baxis % planBale o.c == 0)

def bigM (o : MatOps) : Nat := sizeAt o.a 1
def bigN (o : MatOps) : Nat := sizeAt o.b 0
def bigK (o : MatOps) : Nat := sizeAt o.a 0
def outerOf (t : Tensor) : List Nat := (t.size.take 6).drop 2

def shapesLegal (r : Nat) (o : MatOps) : Bool :=
  sizeAt o.b 1 == bigK o
  && (if miTrans r then sizeAt o.c 0 == bigM o && sizeAt o.c 1 == bigN o else sizeAt o.c 0 == bigN o && sizeAt o.c 1 == bigM o)
  && outerOf o.c == outerOf o.a && (outerOf o.b == outerOf o.a || (outerOf o.b).all (· == 1))
  && (match o.bias with
      | none => true
      | some x => x.fmt == 1 && sizeAt x 0 == (if miBiasRow r then bigM o else bigN o))

def storeLegal (r : Nat) (w : BitVec 4096) (o : MatOps) : Bool :=
  (o.c.lsel || decide (1 ≤ o.c.fmt ∧ o.c.fmt ≤ 0xA) || o.c.fmt == 0xC)
  && (miOp r != 2 || (!o.c.lsel && (o.c.fmt == 1 || o.c.fmt == 0xC) && miAct r == 0 && !miTrans r))
  && (miOp r != 3 || (!outAcc w 0 && decide (0 < miSlots r)))
  && (!miTrans r || o.c.fmt != 0xC || o.c.lsel)

def tokensFor (count bits : Nat) : Nat := ceilDiv (count * bits) 512
def dataTokens (r : Nat) (o : MatOps) : Nat := tokensFor (miM r * miN r) (planBits o.c)
def scaleTokens (r : Nat) (o : MatOps) : Nat := if planBale o.c = 0 then 0 else ceilDiv (miM r * miN r / planBale o.c) 64

/-- The ports, takes and give that an instruction needs (04 R106, R115). -/
def planLegal (r : Nat) (w : BitVec 4096) (o : MatOps) : Bool :=
  let takes : List (Option Nat) :=
    [some (tokensFor (miM r * miK r) (planBits o.a)), some (tokensFor (miK r * miN r) (planBits o.b)),
     if planBale o.a = 0 then none else some (ceilDiv (miM r * (miK r / planBale o.a)) 64),
     if planBale o.b = 0 then none else some (ceilDiv (miN r * (miK r / planBale o.b)) 64),
     if miBiasEn r then some ((if miBiasRow r then miM r else miN r) / 16) else none,
     if miOp r = 3 then some 1 else none, none, none]
  (takes.zipIdx.all (fun e => match e.1 with
    | some n => inEn w e.2 && inTake w e.2 == n
    | none => !inEn w e.2))
  && (enabledOut w == [0])
  && outGive w 0 == ceilDiv (dataTokens r o + scaleTokens r o + flag (miOp r = 3)) 4

/-- The first failing check's status; 0 when the instruction may start. -/
def issueCode (s : State) (w : BitVec 4096) (r : Nat) : Nat :=
  if !recordLegal r then 0x020E else
  match matOps s r with
  | .error code => code
  | .ok o =>
    if !tileLegal r then 0x0209
    else if !setLegal r o then 0x020A
    else if !formatsLegal o then 0x020B
    else if !balesLegal r o then 0x020C
    else if !shapesLegal r o then 0x020D
    else if !storeLegal r w o then 0x020E
    else if !planLegal r w o then 0x0210 else 0

/-- What is latched (04 R112, 05 R165). -/
def latch (s : State) (r : Nat) (o : MatOps) : MatIssue :=
  let c := resolved s o.c
  { instr := BitVec.ofNat 512 r, m := miM r, n := miN r, k := miK r, bigM := bigM o, bigN := bigN o, bigK := bigK o
    outer := (outerOf o.a).foldl (· * ·) 1
    fa := if o.a.lsel then 2 else o.a.fmt, fb := if o.b.lsel then 2 else o.b.fmt, fc := c.fmt
    lselA := o.a.lsel, lselB := o.b.lsel
    baleA := planBale o.a, baleB := planBale o.b, baleC := c.bale
    ueA := o.a.sfmt == 0xE, ueB := o.b.sfmt == 0xE, ueC := o.c.sfmt == 0xE
    inner := o.c.baxis == 0, lselC := o.c.lsel, layer := o.c.layer, stats := o.c.stats && o.c.hasExt
    brec := BitVec.ofNat 48 o.c.brec }

/-! ### Issue -/

def qr (q : MatIssue) : Nat := q.instr.toNat
def putPos (u : UnitSt) (c : Slot) (p : Option MatPos) : UnitSt :=
  match p with
  | some p => { u with mat := mput u.mat c.val p }
  | none => { u with mat := mdel u.mat c.val }

/-- The state field shows running and idle only while the MAT serves its own site. -/
def matShow (s : State) (st : Stall) (k v : Nat) : State :=
  if 3 ≤ getF s (matReg st k 0) 0 3 then s else setF s (matReg st k 0) 0 3 v

/-- The instruction of a tag is done: the next one follows, or the iteration ends. -/
def nextInstr (s : State) (st : Stall) (site : Site) (w : BitVec 4096) (c : Slot) (p : MatPos) : State :=
  let k := siteIndex site
  if p.instr + 1 < progBits w 200 0 3 then
    updUnit s st site (fun u => putPos u c (some { tag := p.tag, instr := p.instr + 1 }))
  else matShow (updUnit s st site (fun u => putPos u c none)) st k 0

/-- A signal-only token on output 0's route (04 R121). -/
def signalToken (w : BitVec 4096) (c : Slot) (tag : BitVec 16) (r : Sref) : Token :=
  { outToken w c tag 0 with kind := .signal, last := true, sig := true, sref := r }

/-- Which tag may be issued: with none under way, the tag that becomes ready first; else the one under way. -/
def issuable (u : UnitSt) (w : BitVec 4096) (c : Slot) (tag : BitVec 16) : Option Nat :=
  match mfind u.mat c.val with
  | some p => if p.tag = tag ∧ p.issue.isNone then some p.instr else none
  | none =>
    match firstTag .mat u w c (enabledIn w) with
    | some t => if t = tag then some 0 else none
    | none => some 0

def matIssue (s : State) (st : Stall) (mat : Fin 256) (tag : BitVec 16) : State :=
  let site := matSite mat
  let u := unitOf s st site
  let c := u.active
  let stat := matReg st mat.val 0
  match cfgOf u c with
  | none => s
  | some w =>
    if !unitGo s st u c ∨ getF s stat 0 3 = 2 ∨ getF s stat 0 3 = 3 ∨ getF s stat 0 3 = 5 then s else
    let fresh := hdrSource w && (mfind u.mat c.val).isNone
    if fresh && !mayOriginate s u c tag then s else
    match issuable u w c tag with
    | none => s
    | some i =>
      let s := if fresh then updUnit s st site (fun u => originated u c tag) else s
      let r := matInstr w i
      let s := setF (setF s stat 3 2 c.val) stat 5 2 i
      let s := if recordLegal r then each (matDescs r) (fun s d => noteDesc s (.unit st site) d.1) s else s
      match issueCode s w r, matOps s r with
      | 0, .ok o =>
        let s := setF s stat 32 16 0
        let s := noteLayer s (srcIsland st site) o.c
        let q := latch s r o
        let p : MatPos := { tag := tag, instr := i, issue := some q }
        if tilesOf q = 0 then
          let s := if miSig r then updUnit s st site (fun u => pushOut u c 0 [signalToken w c tag (miSref r)]) else s
          nextInstr s st site w c p
        else matNote (matShow (setF (updUnit s st site (fun u => putPos u c (some p))) stat 8 24 0) st mat.val 1) st site
      | code, _ =>
        let code := if code = 0 then 0x020F else code
        let s := setF (setF s stat 32 16 code) stat 0 3 2
        match unitRegion u c with
        | some g => haltRegion s g code
        | none => s

def execMatIssue (st : Stall) (mat : Fin 256) (tag : BitVec 16) (s : State) : Host.Outcome State Fault Refusal :=
  finish s (matIssue s st mat tag)

/-! ### One step (04 R108, R113–R116) -/

/-- The format of an operand: the descriptor's; of a ledger-selected tensor the one that its tokens carry, the first real
data token's (05 R165). -/
def setFmt (ts : List Token) (lsel : Bool) (f : Nat) : Nat :=
  match (if lsel then ts.find? (fun t => t.kind == .data && !t.void) else none) with
  | some t => t.fmt.toNat
  | none => f

/-- The values of an operand set, each times nothing yet, and the scales: line by line of length `k`. -/
structure OperandSet where
  vals : List Val
  scales : List Val
  bale : Nat
  fmt : Nat
  deriving DecidableEq, Repr

/-- Decode a set of `lines` lines of `k` values; values outside `inside` read as zero (04 R114). -/
def operandSet (vt st : List Token) (lsel : Bool) (f bale : Nat) (ue : Bool) (lines k : Nat) (inside : Nat → Nat → Bool) : OperandSet :=
  let fmt := setFmt vt lsel f
  let w := fmtBits fmt
  let cs := unpackNat w (lines * k) (payloadNat vt)
  let vals := cs.zipIdx.map (fun e => if inside (e.2 / k) (e.2 % k) then
    (if bale ≠ 0 ∧ isIntFmt fmt then vShift (elemVal fmt e.1) (intFrac fmt) else elemVal fmt e.1) else vZero)
  let baled := bale ≠ 0 ∧ (!lsel ∨ fmt ≠ 2)
  let b := if baled then bale else 0
  let scales := if b = 0 then [] else
    (unpackNat 8 (lines * (k / b)) (payloadNat st)).map (scaleVal (if ue then 0xE else 0xD))
  { vals := vals, scales := scales, bale := b, fmt := fmt }

/-- A void token that covers a value inside makes the tile void (03 R81, 04 R114). -/
def voidInside (ts : List Token) (w lines k : Nat) (inside : Nat → Nat → Bool) : Bool :=
  ts.zipIdx.any (fun e => e.1.void && e.1.kind == .data &&
    (let lo := e.2 * 512 / w
     let hi := min (lines * k) (((e.2 + 1) * 512 + w - 1) / w)
     (List.range (hi - lo)).any (fun i => inside ((lo + i) / k) ((lo + i) % k))))

/-- The run length of R108. -/
def runLength (a b : OperandSet) : Nat :=
  let one (o : OperandSet) : Nat := if o.bale ≠ 0 then o.bale else if o.fmt = 1 then 1 else 32
  min (one a) (one b)

def scaleAt (o : OperandSet) (k line idx : Nat) : Val :=
  if o.bale = 0 then vInt 1 else o.scales.getD (line * (k / o.bale) + idx / o.bale) vZero

/-- Add one set's products for an element to its accumulator (04 R108). -/
def accumulate (a b : OperandSet) (k row col : Nat) (acc : F32) : F32 :=
  let l := runLength a b
  (List.range (k / l)).foldl (fun acc q =>
    let sum := (List.range l).foldl (fun v i =>
      vAdd v (vMul (a.vals.getD (row * k + q * l + i) vZero) (b.vals.getD (col * k + q * l + i) vZero))) vZero
    let p := vMul (vMul sum (scaleAt a k row (q * l))) (scaleAt b k col (q * l))
    to32 (vAdd (val32 acc) p)) acc

/-- MACs per cycle of a pair of formats (04 R107). -/
def macRate (fa fb : Nat) : Nat :=
  let one (f : Nat) : Nat := match fmtBits f with | 4 => 2048 | 6 => 1024 | 8 => 1024 | 16 => 512 | _ => 64
  min (one fa) (one fb)

/-- The tile's batch instance, row and column of tiles. -/
def tilePos (q : MatIssue) (t : Nat) : Nat × Nat × Nat :=
  let nj := ceilDiv q.bigN q.n
  let ni := ceilDiv q.bigM q.m
  (t / (ni * nj), t / nj % ni, t % nj)

/-- The tokens of an input's next set: headers from the match entry, payloads from its half of the operand buffer or of the
scale store (04 R105). -/
def setTokens (s : State) (st : Stall) (site : Site) (u : UnitSt) (w : BitVec 4096) (c : Slot) (tag : BitVec 16) (i : Nat) : List Token :=
  let h := (ownHalves u c tag).headD 0
  let line (j : Nat) : BitVec 512 :=
    if i < 2 then BitVec.ofNat 512 (ofBytes (readBytes s (matAddr st (siteIndex site) (0x8000 * h + 0x4000 * i + 64 * j)) 64))
    else mget u.scales 0 (64 * h + 32 * (i - 2) + j)
  (takenAt u w c tag i).zipIdx.map (fun e => { e.1 with payload := line e.2 })

/-- The set that a step has used leaves the match entries and frees its half. -/
def dropHalf (u : UnitSt) (c : Slot) (tag : BitVec 16) : UnitSt :=
  match ownHalves u c tag with
  | h :: _ => { u with halves := mdel u.halves h }
  | [] => u

/-- The accumulator memory of a tile: halves alternate when a tile fits one (04 R116). -/
def accAddr (st : Stall) (k : Nat) (q : MatIssue) (t : Nat) : Nat :=
  matAddr st k (0x10000 + (if q.m * q.n ≤ 8192 then t % 2 * 0x8000 else 0))

/-- Findings of ECC in the operand buffer or the accumulator (04 R136). -/
def eccFound (s : State) (st : Stall) (k : Nat) (e : Ecc) : State :=
  match e with
  | .clean => s
  | .corrected _ => satF s (matReg st k 8) 0 16 1
  | .uncorrected off =>
    let s := satF s (matReg st k 8) 16 16 1
    let s := emit s (srcIsland st (siteOf .mat k)) 0x028A k off
    if max 1 (getF s (matReg st k 0x30) 0 4) ≤ getF s (matReg st k 8) 16 16 ∧ getF s (matReg st k 0) 0 3 < 3 then
      setF s (matReg st k 0) 0 3 3 else s

def eccBad : Ecc → Bool
  | .uncorrected _ => true
  | _ => false

/-- Remove the first take tokens of an input's entry; an empty entry is released. -/
def dropSet (u : UnitSt) (w : BitVec 4096) (c : Slot) (tag : BitVec 16) (i : Nat) : UnitSt :=
  if !inEn w i then u else
  match entryOf u c i tag with
  | none => u
  | some e =>
    let l := e.toks.drop (inTake w i)
    setEntries u c i (if l = [] then (entriesOf u c i).filter (fun x => x.tag != tag)
      else putEntry (entriesOf u c i) { e with toks := l })

/-- Whether the inputs hold what the next step needs (04 R115). -/
def stepReady (u : UnitSt) (w : BitVec 4096) (c : Slot) (p : MatPos) (sets : Bool) : Bool :=
  let need := (if sets then [0, 1, 2, 3] else []) ++ (if p.step = 0 then [4, 5] else [])
  (need.filter (inEn w)).all (inputReady .mat u w c p.tag) && outputsRoom .mat u w c

/-- One operand set is multiplied into the accumulator. -/
def matStep (s : State) (st : Stall) (site : Site) (w : BitVec 4096) (c : Slot) (p : MatPos) (q : MatIssue) (ecc : Ecc) : State :=
  let u := unitOf s st site
  let k := siteIndex site
  if stepsOf q ≤ p.step ∨ !stepReady u w c p true ∨ (p.step = 0 ∧ getF s (matReg st k 0) 0 3 = 3) then s else
  let (_, i, j) := tilePos q p.tile
  let ins (n : Nat) : List Token := if inEn w n then setTokens s st site u w c p.tag n else []
  let insideA (row idx : Nat) : Bool := decide (i * q.m + row < q.bigM ∧ p.step * q.k + idx < q.bigK)
  let insideB (col idx : Nat) : Bool := decide (j * q.n + col < q.bigN ∧ p.step * q.k + idx < q.bigK)
  let a := operandSet (ins 0) (ins 2) q.lselA q.fa q.baleA q.ueA q.m q.k insideA
  let b := operandSet (ins 1) (ins 3) q.lselB q.fb q.baleB q.ueB q.n q.k insideB
  let perA := if a.bale = 0 then q.k else q.k / a.bale
  let perB := if b.bale = 0 then q.k else q.k / b.bale
  let vz := hdrVoidZero w
  let void := !vz && (voidInside (ins 0) (fmtBits a.fmt) q.m q.k insideA || voidInside (ins 1) (fmtBits b.fmt) q.n q.k insideB
    || (a.bale ≠ 0 && voidInside (ins 2) 8 q.m perA (fun row x => insideA row (x * a.bale)))
    || (b.bale ≠ 0 && voidInside (ins 3) 8 q.n perB (fun col x => insideB col (x * b.bale))))
  let bad := ((List.range 4).flatMap ins).any (·.poison) || eccBad ecc
  let base := accAddr st k q p.tile
  let old (e : Nat) : F32 := if p.step = 0 then 0 else BitVec.ofNat 32 (readNat s (base + 4 * e) 4)
  let new := (List.range (q.m * q.n)).map (fun e =>
    if void || p.void then old e else accumulate a b q.k (e / q.n) (e % q.n) (old e))
  let s := putBytes s base (new.flatMap (fun x => toBytes 4 x.toNat))
  let u := dropHalf ([0, 1, 2, 3].foldl (fun u n => dropSet u w c p.tag n) u) c p.tag
  let p' := { p with step := p.step + 1, void := p.void || void, poison := p.poison || bad }
  let s := matNote (putUnit s st site (putPos u c (some p'))) st site
  eccFound (satF s (matReg st k 0x18) 0 48 (q.m * q.n * q.k / macRate a.fmt b.fmt)) st k ecc

/-! ### The store path (04 R122–R126) -/

/-- A tile's FP32 values after scale, bias and activation, row by row (04 R122, R123). -/
def storeVals (s : State) (st : Stall) (r : Nat) (q : MatIssue) (base : Nat) (bias : List F32) : List F32 :=
  (List.range (q.m * q.n)).map (fun e =>
    if stepsOf q = 0 then 0 else
    let y : F32 := BitVec.ofNat 32 (readNat s (base + 4 * e) 4)
    let y := if miScaleEn r then mul32 y (miScale r) else y
    let y := if miBiasEn r then add32 y (bias.getD (if miBiasRow r then e / q.n else e % q.n) 0) else y
    if miAct r = 0 then y else sfnUnary s st (actOp (miAct r)) y (s.draws + e))

/-- One bale of the stored tile: the places of its elements in the stored order, and its number in C's scale array. -/
structure TileBale where
  places : List Nat
  number : Nat
  deriving DecidableEq, Repr

/-- Bales of a stored tile of `rows` × `cols` in the order of C's scale array (04 R124). -/
def tileBales (q : MatIssue) (tr : Bool) (t : Nat) : List TileBale :=
  let (o, i, j) := tilePos q t
  let rows := if tr then q.n else q.m
  let cols := if tr then q.m else q.n
  let row0 := if tr then j * q.n else i * q.m
  let col0 := if tr then i * q.m else j * q.n
  let size0 := if tr then q.bigM else q.bigN
  let size1 := if tr then q.bigN else q.bigM
  let b := q.baleC
  if q.inner then
    (List.range rows).flatMap (fun y => (List.range (cols / b)).map (fun x =>
      { places := (List.range b).map (fun z => y * cols + x * b + z)
        number := (o * size1 + row0 + y) * ceilDiv size0 b + col0 / b + x }))
  else
    (List.range (rows / b)).flatMap (fun y => (List.range cols).map (fun x =>
      { places := (List.range b).map (fun z => (y * b + z) * cols + x)
        number := (o * ceilDiv size1 b + row0 / b + y) * size0 + col0 + x }))

/-- The exponent of a BX16 bale that names an array (05 R154, R167); a header that cannot be read leaves it free. -/
def storeExp (s : State) (brec number : Nat) : Option Nat :=
  if brec = 0 then none else
  match baleArray s brec with
  | none => some (Config.unstated 0x178 s.draws % 256)
  | some b => some ((agreedOf s b number).getD b.eCold)

/-- What the conversion of a tile gives: codes by stored place, scales in order, the places whose tokens are poisoned
(05 R144, R145, R154), counts. -/
structure TileOut where
  codes : List Nat
  scales : List Nat
  bad : List Nat
  counts : Counts
  deriving DecidableEq, Repr

/-- Conversion into C's format (04 R124); `vals` in stored order, `inside` says which places lie in M × N. -/
def convTile (s : State) (q : MatIssue) (tr mode : Bool) (t : Nat) (vals : List Val) (inside : Nat → Bool) : TileOut :=
  let val (p : Nat) : Val := if inside p then vals.getD p vZero else vZero
  if q.baleC = 0 then
    let cs := (List.range vals.length).map (fun p => convElem q.fc false mode (val p))
    let runs := (chunk 32 (List.range vals.length)).map (fun ps =>
      let ps := ps.filter inside
      countBale (ps.map val) (zeroCodes q.fc (ps.map (fun p => (cs.getD p { code := 0 }).code))) ((ps.filter (fun p => (cs.getD p { code := 0 }).sat)).length))
    { codes := cs.map (·.code), scales := [], bad := cs.zipIdx.filterMap (fun e => if e.1.bad then some e.2 else none), counts := runs.foldl addCounts {} }
  else
    let bs := tileBales q tr t
    let outs := bs.map (fun b =>
      let l := b.places.map val
      (b, if q.fc = 0xC then convBx (storeExp s q.brec.toNat b.number) l
          else convBale q.fc (if q.ueC then 0xE else 0xD) mode l))
    let table : List (Nat × Nat) := outs.flatMap (fun e => e.1.places.zip e.2.codes)
    let codes := (List.range vals.length).map (fun p => match table.find? (fun e => e.1 == p) with | some e => e.2 | none => 0)
    let cnt := outs.foldl (fun c e =>
      let ps := e.1.places.filter inside
      addCounts c (countBale (ps.map val) (zeroCodes q.fc (ps.map (fun p => codes.getD p 0))) e.2.sat)) {}
    { codes := codes, scales := outs.map (·.2.scale), bad := outs.flatMap (fun e => if e.2.poison then e.1.places else []), counts := cnt }

/-- The order in which stored places leave for output 0 (04 R125): by rows, or by 32 × 32 sub-tiles of the tile before
transposition. -/
def leaveOrder (q : MatIssue) (tr : Bool) : List Nat :=
  if !tr then List.range (q.m * q.n)
  else (List.range (q.m / 32)).flatMap (fun i => (List.range (q.n / 32)).flatMap (fun j =>
    (List.range 1024).map (fun e =>
      let row := i * 32 + e / 32
      let col := j * 32 + e % 32
      col * q.m + row)))

/-- Tokens of a stream: void where no element of theirs is `live`, else marked with the bits of those that are not, which a
MEM does not write (04 R121); poisoned where one of their elements is `bad`. -/
def streamTokens (base : Token) (w : Nat) (cs : List Nat) (live bad : List Bool) : List Token :=
  let spoiled := spoiledTokens w base cs bad
  let dead := tokensOf (packBytes w (live.map (fun b => if b then 0 else 2 ^ w - 1)))
  spoiled.zipIdx.map (fun e =>
    if (inToken w live e.2).any id then { e.1 with live := ~~~(dead.getD e.2 0) } else { e.1 with void := true, payload := 0 })

/-- Put a signal on the last of some tokens (04 R126). -/
def signLast (ts : List Token) (r : Sref) : List Token :=
  match ts.reverse with
  | [] => []
  | t :: rest => (({ t with last := true, sig := true, sref := r }) :: rest).reverse

/-- At the end of a tile's last step the accumulator drains (04 R111, R121, R124, R126, R136). -/
def tileEnd (s : State) (st : Stall) (mat : Fin 256) (ecc : Ecc) : State :=
  let site := matSite mat
  let u := unitOf s st site
  let c := u.active
  match cfgOf u c, mfind u.mat c.val with
  | some w, some p =>
    match p.issue with
    | none => s
    | some q =>
      let k := mat.val
      if p.step < stepsOf q ∨ !unitGo s st u c
        ∨ (stepsOf q = 0 ∧ (!stepReady u w c { p with step := 0 } false ∨ getF s (matReg st k 0) 0 3 = 3)) then s else
      let r := qr q
      let tr := miTrans r
      let give := outGive w 0 * 4
      let biasT := if miBiasEn r then takenAt u w c p.tag 4 else []
      let claimT := if miOp r = 3 then takenAt u w c p.tag 5 else []
      let index := (claimT.head?.map (fun t => recBits t.payload 0 32)).getD 0
      let (_, i, j) := tilePos q p.tile
      let biasIn (x : Nat) : Bool := if miBiasRow r then decide (i * q.m + x < q.bigM) else decide (j * q.n + x < q.bigN)
      let void := p.void || (!hdrVoidZero w &&
        (claimT.any (·.void) || biasT.zipIdx.any (fun e => e.1.void && (List.range 16).any (fun x => biasIn (e.2 * 16 + x)))))
      let bad := p.poison || eccBad ecc || (biasT ++ claimT).any (·.poison)
      let outside := miOp r == 3 && decide (miSlots r ≤ index)
      let bias := (unpackNat 32 (16 * biasT.length) (payloadNat biasT)).map (BitVec.ofNat 32)
      let vals := storeVals s st r q (accAddr st k q p.tile) bias
      let rows := if tr then q.n else q.m
      let cols := if tr then q.m else q.n
      let at' (place : Nat) : Nat × Nat := if tr then (place % cols, place / cols) else (place / cols, place % cols)
      let inside (place : Nat) : Bool := let (y, x) := at' place; decide (i * q.m + y < q.bigM ∧ j * q.n + x < q.bigN)
      let stored := (List.range (rows * cols)).map (fun place => let (y, x) := at' place; val32 (vals.getD (y * q.n + x) 0))
      let out := convTile s q tr (miSatNan r) p.tile stored inside
      let acc := miOp r == 2
      let base : Token := { outToken w c p.tag 0 with acc := acc, fmt := BitVec.ofNat 4 q.fc }
      let order := leaveOrder q tr
      let data := streamTokens base (fmtBits q.fc)
        (order.map (fun x => out.codes.getD x 0)) (order.map inside) (order.map (fun x => out.bad.contains x))
      let nData := if q.lselC then tokensFor (q.m * q.n) 16 else data.length
      let sf : BitVec 4 := if q.ueC then 0xE else 0xD
      let bales := tileBales { q with baleC := if q.baleC = 0 then 32 else q.baleC } tr p.tile
      let scaleLive := bales.map (fun b => q.baleC != 0 && b.places.any inside)
      let nScale := if q.baleC ≠ 0 ∨ q.lselC then ceilDiv bales.length 64 else 0
      let scales := if nScale = 0 then [] else
        streamTokens { base with fmt := sf } 8 (if q.baleC = 0 then bales.map (fun _ => 0) else out.scales) scaleLive []
      let voidT : Token := { base with void := true }
      let claimOut := if miOp r = 3 then [{ base with kind := .control, payload := BitVec.ofNat 512 index }] else []
      let zeroAcc := acc && stepsOf q == 0
      let toks := if void || zeroAcc then []
        else (if outside then (claimOut ++ padTo nData voidT data ++ scales).map (fun t => { t with void := true, payload := 0 })
              else claimOut ++ padTo nData voidT data ++ padTo nScale voidT scales)
      let toks := (padTo give voidT toks).map (fun t => { t with poison := t.poison || bad })
      let lastTile := decide (tilesOf q ≤ p.tile + 1)
      let toks := if miSigEach r || (miSig r && lastTile) then signLast toks (miSref r) else toks
      let s := { s with draws := s.draws + q.m * q.n + 1 }
      let u := [4, 5].foldl (fun u n => dropSet u w c p.tag n) u
      let u := pushOut u c 0 toks
      let s := putUnit s st site (putPos u c (some { p with tile := p.tile + 1, step := 0, void := false, poison := false }))
      let s := if outside then emit s (srcIsland st site) 0x0211 index k else s
      let s := if q.stats && !void && !zeroAcc then gather s st (islandOf site) q.layer out.counts else s
      let s := if q.fc = 0xC ∧ !void then noteArray s (srcIsland st site) q.brec.toNat else s
      let s := if miAct r ≠ 0 ∧ !void ∧ stepsOf q ≠ 0 then
          let sfn := stallReg st (0x120000 + 0x40 * siteIndex (sfnOfMat site))
          satF (satF s (sfn + 0x10) 0 48 (q.m * q.n / 32)) (sfn + 0x20) 0 32 (vals.filter isNan32).length
        else s
      let s := satF s (matReg st k 0x10) 0 48 1
      let s := countFiring (setF s (matReg st k 0) 8 24 (p.tile + 1)) st site c
      let s := eccFound s st k ecc
      matNote (if lastTile then nextInstr s st site w c p else s) st site
  | _, _ => s

def execTileEnd (st : Stall) (mat : Fin 256) (ecc : Ecc) (s : State) : Host.Outcome State Fault Refusal :=
  finish s (tileEnd s st mat ecc)

/-! ### Retirement (04 R134, R137) -/

/-- A write to MAT_RETIRE with go. -/
def execMatRetire (st : Stall) (mat : Fin 256) (s : State) : Host.Outcome State Fault Refusal :=
  finish s (
    let s := handRecord s (srcStall st 0x3F)
    if getF s (matReg st mat.val 0) 0 3 < 3 then setF s (matReg st mat.val 0) 0 3 3 else s)

end Sys2Proof.Machine
end

