-- ==== Sys2Proof/Machine/Runs.lean ====
section
/-! DEFINITION. What a barrow's transfer reads and writes (09 R256–R263, R266, R271–R275, R281–R283; 05 R143–R154, R161,
R165, R167): elements of its source, the destination's bales, writing them to memory, adding them to a MEM, sending them
into a flow or to the yard. -/

namespace Sys2Proof.Machine

/-! ### Sources -/

/-- An element as it is read: its code, exact value, its scale's code, poison; `made` says that no source gave it. -/
structure Elem where
  code : Nat
  val : Val
  scale : Nat := 0
  poison : Bool := false
  made : Bool := false
  deriving DecidableEq, Repr

/-- The +0 of a slice that no index selects (09 R275, R282). -/
def zeroElem (poison : Bool) : Elem := { code := 0, val := vZero, poison := poison, made := true }

/-- Tokens of a yard source: those of the firing's entry that earlier descriptors of the block have not taken. -/
structure Stream where
  data : List Token
  scales : List Token
  deriving DecidableEq, Repr

/-- The form of a stream: that of its tokens where the ledger selects it (05 R165). -/
def streamForm (t : Tensor) (x : Stream) : Tensor :=
  if !t.lsel then t else
  match x.data.find? (fun k => !k.void) with
  | some k => if k.fmt.toNat = 2 then { t with fmt := 2, bale := 0 } else { t with fmt := k.fmt.toNat, bale := 32, sfmt := 0xD }
  | none => t

/-- Read the element at a flat position of a stream of form `t`, whose scale has number `sc`. -/
def streamElem (t : Tensor) (x : Stream) (pos sc : Nat) : Elem :=
  let w := fmtBits t.fmt
  let c := field (payloadNat x.data) (pos * w) w
  let e := field (payloadNat x.scales) (8 * sc) 8
  let hurt (ts : List Token) (lo n : Nat) : Bool := ((ts.drop (lo / 512)).take ((lo + n - 1) / 512 + 1 - lo / 512)).any (·.poison)
  { code := c
    val := if t.fmt = 0xC then bxVal e c else if t.bale ≠ 0 then baledVal t.fmt t.sfmt e c else elemVal t.fmt c
    scale := e
    poison := hurt x.data (pos * w) w || (decide (t.bale ≠ 0) && hurt x.scales (8 * sc) 8) }

/-- Scale number, in row-major order of a tensor's scale array. -/
def scaleNumber (t : Tensor) (is : List Nat) : Nat :=
  flatIndex ((List.range 6).map (fun d => if d = t.baxis ∧ t.bale ≠ 0 then ceilDiv (sizeAt t d) t.bale else sizeAt t d)) (scaleIdx t is)

/-- A destination index of a source index, and the other way, under perm. -/
def permIdx (d : Desc) (is : List Nat) : List Nat :=
  (List.range 6).map (fun k => match (List.range 6).find? (fun i => bdPerm d i == k) with | some i => is.getD i 0 | none => 0)

/-- A stream carries its tensor in row-major order of the destination's dimensions (09 R266): its shape as it comes. -/
def streamOrder (d : Desc) (t : Tensor) : Tensor :=
  { t with size := (List.range 6).map (fun i => sizeAt t (bdPerm d i))
           baxis := ((List.range 6).find? (fun i => bdPerm d i == t.baxis)).getD 0 }

/-- Elements of a yard source by their index in the source. -/
def yardGet (d : Desc) (t : Tensor) (x : Stream) (is : List Nat) : Option Elem :=
  let o := if bdOp d = 1 then streamOrder d t else t
  let k := if bdOp d = 1 then (List.range 6).map (fun i => is.getD (bdPerm d i) 0) else is
  some (streamElem t x (flatIndex o.size k) (scaleNumber o k))

/-- Read an element in memory; none when its block is absent. -/
def memElem (s : State) (l : Fetched) (t : Tensor) (is : List Nat) : Option Elem :=
  (spotOf s t is).map (fun p =>
    let (c, bad) := readCodeAt s l (fmtBits t.fmt) p
    let (v, bad') := readVal s l t p
    { code := c, val := v, scale := if t.bale = 0 then 0 else (readScale s l t p).1, poison := bad || bad' })

/-- The lines of memory that some spots' elements and scales need. -/
def spotLines (t : Tensor) (ps : List Spot) : List (Option ModuleId × Nat) :=
  (ps.flatMap (fun p =>
    let lo := p.bit / 512 * 64
    let hi := (p.bit + fmtBits t.fmt - 1) / 512 * 64
    [(p.module, lo), (p.module, hi)] ++
      (if t.bale = 0 ∨ (t.fmt = 0xC ∧ p.module.isNone ∧ inMem (p.bit / 8)) then [] else [(p.module, p.scale / 64 * 64)]))).eraseDups

/-- Lines of other modules that a transfer needs and has not fetched. -/
def missing (j : BrwJob) (lines : List (Option ModuleId × Nat)) : List (ModuleId × Nat) :=
  (lines.filterMap (fun e => e.1.map (fun m => (m, e.2)))).filter (fun e => !j.remote.any (fun r => r.1 == e.1 && r.2.1 == e.2))

/-- Ask for missing lines, those not asked for yet; a refused request fails the transfer. -/
def askLines (s : State) (b : BrwId) (j : BrwJob) (ls : List (ModuleId × Nat)) : State :=
  let asked := waitingOf s (jobAgent b j) 1
  let ls := ls.filter (fun e => !asked.any (fun o => o.dmod == e.1 && o.addr.toNat == e.2))
  let (s, code) := ls.foldl (fun (acc : State × Nat) e =>
    if acc.2 ≠ 0 then acc else let (c, t) := readRemote acc.1 (jobAgent b j) e.1 e.2 64; (t, c)) (s, 0)
  if code = 0 then s else failJob s b j code

/-- What preparing a source answers: the state of a transfer that must wait or has failed; or the state after the reads,
the elements, and the poisoned 64 B read. -/
inductive Ready where
  | wait (s : State)
  | fail (s : State) (code : Nat)
  | go (s : State) (get : List Nat → Option Elem) (bad : List Nat)

/-- Tokens of a stream for the descriptor at hand of the block. -/
def streamOf (s : State) (b : BrwId) (j : BrwJob) (t : Tensor) : Option Stream :=
  match brwStall b, j.firing with
  | some st, some (c, tag) =>
    (entryOf (unitOf s st (iouSite b.b)) c (bdYin j.desc) tag).map (fun e =>
      let l := e.toks.drop e.written
      { data := l.take (streamData t), scales := (l.drop (streamData t)).take (streamScales t) })
  | _, _ => none

/-- Mark a stream's tokens as taken. -/
def takeStream (s : State) (b : BrwId) (j : BrwJob) (t : Tensor) : State :=
  match brwStall b, j.firing with
  | some st, some (c, tag) =>
    updUnit s st (iouSite b.b) (fun u => match entryOf u c (bdYin j.desc) tag with
      | some e => setEntries u c (bdYin j.desc) (putEntry (entriesOf u c (bdYin j.desc)) { e with written := e.written + streamData t + streamScales t })
      | none => u)
  | _, _ => s

/-- Read local lines of a source: the first refusal, if any. -/
def readRefusal (s : State) (ls : List (Option ModuleId × Nat)) : Option (Nat × Nat) :=
  (ls.filterMap (fun e => if e.1.isNone ∧ readCode s e.2 ≠ 0 then some (e.2, readCode s e.2) else none)).head?

/-- Prepare a memory source for the indices it will be read at. -/
def memSource (s : State) (b : BrwId) (j : BrwJob) (t : Tensor) (idx : List (List Nat)) : Ready :=
  let spots := idx.map (spotOf s t)
  if spots.any (·.isNone) then .fail (refuseEvent s (jobAgent b j) t.addr 0x0301) 0x0301
  else
    let ls := spotLines t (spots.filterMap id)
    match readRefusal s ls with
    | some (a, c) => .fail (refuseEvent s (jobAgent b j) a c) c
    | none =>
      match missing j ls with
      | _ :: _ => .wait (askLines s b j (missing j ls))
      | [] =>
        let mine := ls.filterMap (fun e => if e.1.isNone then some e.2 else none)
        let s := each mine (fun s a => noteRead (touchAt s a) (jobAgent b j) a 64) s
        .go s (memElem s j.remote t) (ls.filterMap (fun e => if (fetchBytes s j.remote e.1 e.2 64).2 then some e.2 else none))

/-- Prepare any source at some indices. -/
def anySource (s : State) (b : BrwId) (j : BrwJob) (t : Tensor) (idx : List (List Nat)) : Ready :=
  if bdSk j.desc = 1 then
    match streamOf s b j t with
    | none => .go s (fun _ => none) []
    | some x => .go s (yardGet j.desc (streamForm t x) x) []
  else memSource s b j t idx

/-- The form in which a job's source is read. -/
def sourceForm (s : State) (b : BrwId) (j : BrwJob) (t : Tensor) : Tensor :=
  if bdSk j.desc = 1 then (match streamOf s b j t with | some x => streamForm t x | none => t) else t

/-! ### Indices (09 R274, R275) -/

/-- What an index selects: a row, nothing, or nothing poisoned. -/
inductive Pick where
  | row (i : Nat)
  | none
  | poison
  deriving DecidableEq, Repr

def pickOf (ipol extent : Nat) (i : Int × Bool) : Pick :=
  if i.2 then .poison
  else if 0 ≤ i.1 ∧ i.1 < extent then .row i.1.toNat
  else match ipol with
    | 1 => if extent = 0 then .none else .row (if i.1 < 0 then 0 else extent - 1)
    | 2 => .poison
    | _ => .none

def pickRow : Pick → Option Nat
  | .row i => some i
  | _ => Option.none

/-- Count indices out of range, and record them once under policies 0 and 2. -/
def countIndices (s : State) (b : BrwId) (ipol extent : Nat) (is : List (Int × Bool)) : State :=
  let bad := is.filter (fun (i : Int × Bool) => !i.2 && !(decide (0 ≤ i.1 ∧ i.1 < (extent : Int))))
  match bad with
  | [] => s
  | f :: _ =>
    let s := satF s (brwBase b + 0x40) 0 32 bad.length
    let a1 := twos 32 f.1 + ipol * 2 ^ 32
    match ipol with
    | 1 => s
    | 2 => emitSev s 3 false (brwSrc s b) 0x0181 bad.length a1
    | _ => emit s (brwSrc s b) 0x0181 bad.length a1

def setDim (is : List Nat) (d v : Nat) : List Nat := (List.range 6).map (fun k => if k = d then v else is.getD k 0)

/-- The MEMs that hold parts of a row along `g`, as a stall and a MEM's number. -/
def rowMems (s : State) (t : Tensor) (g i : Nat) : List (Stall × Nat) :=
  ((walk (setDim t.size g 1)).filterMap (fun k => match spotOf s t (setDim k g i) with
    | some q =>
      if q.module.isNone && inMem (q.bit / 8) then
        let a := q.bit / 8 - 0xF00000000000
        some (⟨a / 0x100000000 % 32, by omega⟩, a % 0x100000000 / 0x100000)
      else none
    | none => none)).eraseDups

/-- A row read again at once is served by the MEMs that hold it from one SRAM read, which each of them counts (09 R274). -/
def countCoalesced (s : State) (t : Tensor) (g : Nat) (rows : List Nat) : State :=
  ((rows.zip rows.tail).filter (fun p => p.1 == p.2)).foldl (fun s p =>
    (rowMems s t g p.1).foldl (fun s m => satF s (memReg m.1 m.2 0) 0 32 1) s) s

/-! ### Destination conversion -/

/-- One destination bale or, unbaled, one element, as it will be written: places, codes, scale, poison. -/
structure OutRun where
  idx : List (List Nat)
  codes : List Nat
  vals : List Val
  scale : Option Nat
  poison : List Bool
  number : Nat
  sat : List Bool
  deriving DecidableEq, Repr

/-- The bales, by number, of a transfer into an array that have no valid record (05 R167, R178). -/
def coldBales (s : State) (t : Tensor) (numbers : List Nat) : List Nat :=
  match baleArray s t.brec with
  | none => numbers
  | some a => numbers.filter (fun i => (agreedOf s a i).isNone)

/-- The exponent that a BX16 bale of an array takes: the record's, else the one the pre-pass returned, the transfer's cold
bales in their order (05 R167, R170). None where the destination names no array: the bale's own values give it. -/
def arrayExp (s : State) (t : Tensor) (agreed : Option (List Byte)) (numbers : List Nat) (i : Nat) : Option Nat :=
  if t.brec = 0 then none else
  let back : Option Nat :=
    (((coldBales s t numbers).findIdx? (· == i)).bind (fun k => agreed.bind (fun l => l[k]?))).map (·.toNat)
  match baleArray s t.brec with
  | none => back
  | some a => match agreedOf s a i with
    | some e => some e
    | none => some (back.getD a.eCold)

/-- Convert what belongs to one bale or element of a destination of form `t`, whose array gives `exp`; none when nothing is
written there. -/
def runOf (t : Tensor) (copy : Bool) (exp : Nat → Option Nat) (number : Nat) (es : List (List Nat × Elem)) : Option OutRun :=
  match es with
  | [] => none
  | (_, first) :: _ =>
    let ks := es.map Prod.fst
    let vs := es.map (fun e => e.2.val)
    let hurt := es.map (fun e => e.2.poison)
    if copy && !first.made then
      some { idx := ks, codes := es.map (fun e => e.2.code), vals := vs, scale := if t.bale = 0 then none else some first.scale
             poison := hurt, number := number, sat := es.map (fun _ => false) }
    else if t.bale = 0 then
      let cs := vs.map (convElem t.fmt false t.sat)
      some { idx := ks, codes := cs.map (·.code), vals := vs, scale := none, poison := (hurt.zip cs).map (fun p => p.1 || p.2.bad)
             number := number, sat := cs.map (·.sat) }
    else
      let o := if t.fmt = 0xC then convBx (exp number) vs
        else convBale t.fmt t.sfmt t.sat vs
      some { idx := ks, codes := o.codes, vals := vs, scale := some o.scale, poison := es.map (fun _ => hurt.any id || o.poison)
             number := number, sat := (List.range es.length).map (fun i => decide (i < o.sat)) }

/-- Statistics of a conversion (05 R161): by bale, and unbaled values in runs of 32. -/
def runCounts (t : Tensor) (rs : List OutRun) : Counts :=
  let count (r : List ((Val × Nat) × Bool)) : Counts :=
    countBale (r.map (fun e => e.1.1)) (zeroCodes t.fmt (r.map (fun e => e.1.2))) ((r.filter (·.2)).length)
  let of (r : OutRun) : List ((Val × Nat) × Bool) := (r.vals.zip r.codes).zip r.sat
  let groups := if t.bale = 0 then chunk 32 (rs.flatMap of) else rs.map of
  (groups.map count).foldl addCounts {}

/-! ### Writing to memory -/

/-- The puts of a run: its elements and its scale, each with the module they go to. -/
def runPuts (s : State) (t : Tensor) (r : OutRun) : List (Option ModuleId × BitPut) :=
  let w := fmtBits t.fmt
  let spots := r.idx.map (spotOf s t)
  let es := (spots.zip (r.codes.zip r.poison)).flatMap (fun p => match p.1 with
    | some q => (splitBits w q.bit w p.2.1 p.2.2).map (fun b => (q.module, b))
    | none => [])
  let sc := match r.scale, spots.head? with
    | some e, some (some q) =>
      if t.fmt = 0xC ∧ q.module = none ∧ inMem (q.bit / 8) then []
      else (splitBits 8 (q.scale * 8) 8 e (r.poison.any id)).map (fun b => (q.module, b))
    | _, _ => []
  es ++ sc

/-- Exponent tags that a run sets in MEMs (05 R156). -/
def runTags (s : State) (t : Tensor) (r : OutRun) : List (Nat × Nat) :=
  if t.fmt ≠ 0xC then [] else
  match r.scale with
  | none => []
  | some e => ((r.idx.filterMap (spotOf s t)).filter (fun q => q.module == none && inMem (q.bit / 8))).map (fun q => (q.bit / 512, e))

/-- The first line that a target refuses, with its status. -/
def firstRefused (s : State) (who : Agent) (lines : List Nat) : Option (Nat × Nat) :=
  (lines.find? (fun a => writeCode s who a ≠ 0)).map (fun a => (a, writeCode s who a))

/-- Write local puts up to a refused line; the status of that line, 0 when all were written. -/
def landPuts (s : State) (who : Agent) (ps : List BitPut) : State × Nat :=
  match firstRefused s who (putLines ps) with
  | none => (writePuts s ps, 0)
  | some (a, c) =>
    let before := (putLines ps).takeWhile (· ≠ a)
    (refuseEvent (writePuts s (ps.filter (fun p => before.contains (p.addr / 64 * 64)))) who a c, c)

/-- Write a line of another module for a transfer; its tag joins those that the transfer waits for. -/
def writeAway (s : State) (b : BrwId) (j : BrwJob) (m : ModuleId) (line : Nat) (d : List Byte) (poison : Bool) : State × BrwJob × Nat :=
  let tag := s.fab.nextTag
  let (c, s) := writeRemote s (jobAgent b j) m line d poison none
  (s, if c = 0 then { j with writes := j.writes ++ [tag] } else j, c)

/-- Whether distinct elements of a destination share bits: its element offsets repeat (09 R257). -/
def aliased (t : Tensor) : Bool :=
  !t.dist && !decide (((walk t.size).map (dotInt t.stride)).Nodup)

/-- Of the elements of a destination that share their bits, the one whose write remains, which the spec leaves open: a free
choice that stands for the whole transfer (09 R257). -/
def survives (t : Tensor) (draw : Nat) (is : List Nat) : Bool :=
  let off := dotInt t.stride is
  let rivals := (walk t.size).filter (fun k => dotInt t.stride k == off)
  match rivals with
  | [] => true
  | k :: _ => rivals[Config.pick (draw + flatIndex t.size k) % rivals.length]? == some is

/-- What of a run is written where elements of the destination share bits. -/
def surviving (t : Tensor) (draw : Nat) (r : OutRun) : OutRun :=
  let keep := ((r.idx.zip (r.codes.zip r.poison)).filter (fun e => survives t draw e.1))
  { r with idx := keep.map Prod.fst, codes := keep.map (fun e => e.2.1), poison := keep.map (fun e => e.2.2) }

/-- Write the runs of a memory destination, locally and on other modules; the status of a refusal. Runs before an absent
block are written; the block's own is refused (09 R262). -/
def landRuns (s : State) (b : BrwId) (j : BrwJob) (t : Tensor) (rs : List OutRun) : State × BrwJob × Nat :=
  let rs := if aliased t then rs.map (surviving t j.draw) else rs
  let whole := rs.takeWhile (fun r => r.idx.all (fun k => (spotOf s t k).isSome))
  let puts := whole.flatMap (runPuts s t)
  let tags := whole.flatMap (runTags s t)
  let (s, code) := landPuts s (jobAgent b j) (puts.filterMap (fun p => if p.1.isNone then some p.2 else none))
  if code ≠ 0 then (s, j, code) else
  let s := { s with tags := tags.foldl (fun m e => mput m e.1 (BitVec.ofNat 8 e.2)) s.tags }
  let mods := (puts.filterMap Prod.fst).eraseDups
  let (s, j, code) := mods.foldl (fun (acc : State × BrwJob × Nat) m =>
    (remoteLines j.remote m (puts.filterMap (fun p => if p.1 = some m then some p.2 else none))).foldl (fun acc l =>
      if acc.2.2 ≠ 0 then acc else writeAway acc.1 b acc.2.1 m l.1 l.2.1 l.2.2) acc) (s, j, 0)
  if code ≠ 0 then (s, j, code)
  else if whole.length < rs.length then (refuseEvent s (jobAgent b j) t.addr 0x0301, j, 0x0301)
  else (s, j, 0)

/-- Lines of other modules that a destination writes in part and so needs first. -/
def partLines (s : State) (t : Tensor) (rs : List OutRun) : List (Option ModuleId × Nat) :=
  let puts := rs.flatMap (runPuts s t)
  let keys := (puts.map (fun p => (p.1, p.2.addr / 64 * 64))).eraseDups
  keys.filter (fun k => k.1.isSome && decide (((puts.filter (fun p => p.1 == k.1 && p.2.addr / 64 * 64 == k.2)).map (fun p => p.2.len)).foldl (· + ·) 0 < 512))

/-- Whether a local destination lies in a name that is moving: its writes are held (10 R306). -/
def destMoving (s : State) (t : Tensor) (rs : List OutRun) : Bool :=
  (rs.flatMap (runPuts s t)).any (fun p => p.1.isNone && nameMoving s p.2.addr)

/-- Bytes that some runs write. -/
def runBytes (t : Tensor) (rs : List OutRun) : Nat :=
  ((rs.map (fun r => r.codes.length)).foldl (· + ·) 0 * fmtBits t.fmt + 7) / 8 + (rs.filter (fun r => r.scale.isSome)).length

/-! ### SCATTER-ADD (02 R50, R51) -/

/-- FP32 adds to the elements of a line, at their first bits. -/
def addFloats (old : Nat) (vs : List (Nat × Nat)) : Nat :=
  vs.foldl (fun w v => setBits w v.1 32 ((add32 (BitVec.ofNat 32 (field w v.1 32)) (BitVec.ofNat 32 v.2)).toNat)) old
/-- BX16 adds to the elements of a line, and whether one saturated. -/
def addInts (old : Nat) (vs : List (Nat × Nat)) : Nat × Bool :=
  vs.foldl (fun (acc : Nat × Bool) v => let x := bxAdd (field acc.1 v.1 16) v.2; (setBits acc.1 v.1 16 x.1, acc.2 || x.2)) (old, false)

/-- Add values to one 64 B line of a MEM: FP32, or BX16 of an exponent (05 R156). -/
def addLine (s : State) (fmt : Nat) (line : Nat) (e : Nat) (vs : List (Nat × Nat)) : State :=
  let st : Stall := ⟨(line - 0xF00000000000) / 0x100000000 % 32, by omega⟩
  let m := line % 0x100000000 / 0x100000
  let rda := rdaReg st
  let old := ofBytes (readBytes s line 64)
  let bad := poisonedAt s line
  if fmt = 1 then satF (writePiece s line (toBytes 64 (addFloats old vs)) bad) rda 0 32 1
  else
    match tagOf s line with
    | none =>
      let new := vs.foldl (fun w v => setBits w v.1 16 v.2) old
      setTag (writePiece s line (toBytes 64 new) bad) line e
    | some t =>
      if t.toNat = e then
        let r := addInts old vs
        let s := setTag (satF (writePiece s line (toBytes 64 r.1) bad) rda 0 32 1) line e
        if r.2 then satF { s with satLines := mput s.satLines (line / 64) () } rda 48 16 1 else s
      else
        emit (satF (addF (poisonLine s line) (memReg st m 0) 32 32 1) rda 32 16 1) (srcIsland st (siteOf .mem m)) 0x01C0 line (t.toNat + e * 256)

/-- The same for a line of another module: it is read, added to and written back, since no packet of 12 R358 carries an
addition (the model's reading, log entry 123). What was fetched follows the write. A BX16 bale's exponent stands in the
tensor's scale array there; one that differs poisons the line. -/
def addAway (s : State) (b : BrwId) (j : BrwJob) (t : Tensor) (q : Spot) (m : ModuleId) (line e : Nat) (vs : List (Nat × Nat)) :
    State × BrwJob × Nat :=
  let (bs, bad) := fetchBytes s j.remote (some m) line 64
  let (new, bad) := if t.fmt = 1 then (toBytes 64 (addFloats (ofBytes bs) vs), bad)
    else if (readScale s j.remote t q).1 = e then (toBytes 64 (addInts (ofBytes bs) vs).1, bad) else (bs, true)
  let j := { j with remote := j.remote.map (fun r => if r.1 == m && r.2.1 == line then (m, line, new, bad) else r) }
  writeAway s b j m line new bad

/-- The lines of some places of a destination, with one place of each. -/
def spotKeys (qs : List (Spot × Nat)) : List (Option ModuleId × Nat) := (qs.map (fun q => (q.1.module, q.1.bit / 512 * 64))).eraseDups

/-- Add one run of a slice; the status of a refusal. A poisoned contribution poisons the line, or is dropped and counted
under ppol = 1 (09 R283). -/
def addRun (t : Tensor) (b : BrwId) (acc : State × BrwJob × Nat) (r : OutRun) : State × BrwJob × Nat :=
  if acc.2.2 ≠ 0 then acc else
  let (s, j, _) := acc
  let spots := r.idx.map (spotOf s t)
  if spots.any (·.isNone) then (refuseEvent s (jobAgent b j) t.addr 0x0301, j, 0x0301)
  else
    let qs := (spots.filterMap id).zip r.codes
    let ls := spotKeys qs
    match firstRefused s (jobAgent b j) (ls.filterMap (fun l => if l.1.isNone then some l.2 else none)) with
    | some (a, c) => (refuseEvent s (jobAgent b j) a c, j, c)
    | none =>
      let bad := r.poison.any id
      if bad && t.ppol == 1 then (s, { j with dropped := j.dropped + 1 }, 0)
      else ls.foldl (fun (acc : State × BrwJob × Nat) l =>
        if acc.2.2 ≠ 0 then acc else
        let (s, j, _) := acc
        let mine := qs.filter (fun q => q.1.module == l.1 && q.1.bit / 512 * 64 == l.2)
        let vs := mine.map (fun q => (q.1.bit % 512, q.2))
        match l.1, mine with
        | some m, q :: _ =>
          if bad then writeAway s b j m l.2 (fetchBytes s j.remote (some m) l.2 64).1 true
          else addAway s b j t q.1 m l.2 (r.scale.getD 0) vs
        | _, _ => (if bad then poisonLine s l.2 else addLine s t.fmt l.2 (r.scale.getD 0) vs, j, 0)) (s, j, 0)

/-! ### Output to the yard and into a flow -/

/-- The tokens of a yard destination: values, then scales (09 R266; 05 R165). -/
def yardTokens (s : State) (b : BrwId) (j : BrwJob) (t : Tensor) (rs : List OutRun) : List (Nat × Token) :=
  match brwStall b, j.firing with
  | some st, some (c, tag) =>
    match cfgOf (unitOf s st (iouSite b.b)) c with
    | none => []
    | some w =>
      let d := j.desc
      let fw := fmtBits t.fmt
      let table : List (List Nat × Nat × Bool) := rs.flatMap (fun r => r.idx.zip (r.codes.zip r.poison))
      let at' (is : List Nat) : Nat × Bool := match table.find? (fun e => e.1 == is) with | some e => e.2 | none => (0, false)
      let cs := (walk t.size).map at'
      let fmt : BitVec 4 := if t.lsel then BitVec.ofNat 4 t.fmt else BitVec.ofNat 4 (outFmt w (bdYout d))
      let base := { outToken w c tag (bdYout d) with fmt := fmt }
      let data := padTo (streamData t) { base with void := true } (spoiledTokens fw base (cs.map Prod.fst) (cs.map Prod.snd))
      let sbase := { outToken w c tag (bdYsc d) with fmt := if t.sfmt = 0xE then 0xE else 0xD }
      let sc := (List.range (if t.bale = 0 then 0 else baleCount t)).map (fun i => match rs.find? (fun r => r.number == i) with
        | some r => (r.scale.getD 0, r.poison.any id)
        | none => (0, false))
      let scales := spoiledTokens 8 sbase (sc.map Prod.fst) (sc.map Prod.snd)
      let scales := padTo (streamScales t) { sbase with void := true } scales
      let all := data.map (fun x => (bdYout d, x)) ++ scales.map (fun x => (bdYsc d, x))
      match all.reverse with
      | [] => []
      | (o, x) :: r => ((o, { x with last := true, sig := bdSig d, sref := if bdSig d then bdSref d else 0 }) :: r).reverse
  | _, _ => []

/-- The tokens enter the unit's output stores. -/
def pushTokens (s : State) (b : BrwId) (j : BrwJob) (ts : List (Nat × Token)) : State :=
  match brwStall b, j.firing with
  | some st, some (c, _) =>
    updUnit s st (iouSite b.b) (fun u => ts.foldl (fun u e => pushOut u c e.1 [e.2]) u)
  | _, _ => s

/-- Send BX16 runs into a flow; with `drop`, poisoned ones as all-zero bales, counted (09 R283). -/
def sendRuns (s : State) (d : Desc) (drop : Bool) (rs : List OutRun) (bale : Nat) : State :=
  rs.foldl (fun s r =>
    let bad := r.poison.any id
    let codes := r.codes ++ List.replicate (bale - r.codes.length) 0
    let bl : Bale := { e := BitVec.ofNat 8 (r.scale.getD 0), sat := r.sat.any id, poison := bad && !drop
                       elems := if bad && drop then List.replicate bale 0 else codes.map (BitVec.ofNat 16) }
    contribute s (bdFlow d) r.number [bl]) s

/-- Contributions that ppol = 1 drops, counted (09 R283); their event comes with the end of the transfer. -/
def dropMore (s : State) (b : BrwId) (j : BrwJob) (n : Nat) : State × BrwJob :=
  (satF s (brwBase b + 0x48) 32 32 n, { j with dropped := j.dropped + n })

end Sys2Proof.Machine
end

