-- ==== Sys2Proof/Machine/Transfers.lean ====
section
/-! DEFINITION. The operations of barrows (09 R267–R283; 06 R195, R196; 08 R243, R248): what each moves, tile by tile within
its lead, the pre-reduction pass, the landing of its writes, and the blocks of image lists. -/

namespace Sys2Proof.Machine

/-! ### Pools (06 R191, R195, R196) -/

structure Pool where
  addr : Nat
  tiles : Nat
  chunks : Nat
  claimers : Nat
  claim : Sref
  ready : Sref
  done : Sref
  quit : Sref
  slots : Nat
  bsrc : Nat
  m : Nat
  n : Nat
  kc : Nat
  next : Nat
  deriving DecidableEq, Repr

def poolOf (s : State) (a : Nat) : Option Pool :=
  (readRec s a 128).map (fun w =>
    { addr := a, tiles := field w 0 32, chunks := field w 32 8, claimers := field w 40 16
      claim := BitVec.ofNat 24 (field w 64 24), ready := BitVec.ofNat 24 (field w 88 24), done := BitVec.ofNat 24 (field w 112 24)
      quit := BitVec.ofNat 24 (field w 136 24), slots := field w 160 48, bsrc := field w 256 48, m := field w 304 8, n := field w 312 8
      kc := field w 320 32, next := field w 352 48 })

/-- The value of a tally, 0 where the reference does not resolve. -/
def tallyValue (s : State) (r : Sref) : Nat :=
  match findObj s r with
  | .ok k => (objOf s k).value.toNat
  | .error _ => 0

/-- Every claimer has quit: the gate has no partial arrivals, and it is open or the claims have run out. -/
def poolQuit (s : State) (p : Pool) : Bool :=
  match findObj s p.quit with
  | .ok k => let o := objOf s k; o.arrivals == 0 && (o.isOpen || decide (p.tiles + p.claimers ≤ tallyValue s p.claim))
  | .error _ => false

/-- Whether a pool's tiles are those of its output (06 R192). -/
def poolMatches (p : Pool) (dst : Tensor) : Bool :=
  decide (p.m ≠ 0 ∧ p.n ≠ 0 ∧ p.chunks ≠ 0 ∧ p.tiles = ceilDiv (sizeAt dst 1) p.m * ceilDiv (sizeAt dst 0) p.n * p.chunks)

/-- Read a tally by FETCH-ADD 0 and subtract what was read (06 R195 step 5). -/
def clearTally (s : State) (b : BrwId) (who : Agent) (p : Pool) (r : Sref) (want object : Nat) : State :=
  let v := tallyValue s r
  let s := if v ≠ want then emit s (brwSrc s b) 0x028E p.addr (v + object * 2 ^ 32) else s
  syncCore s who false (brwSrc s b) .sub r (BitVec.ofNat 32 v)

/-- Step 5 of a pool's close. -/
def clearPool (s : State) (b : BrwId) (who : Agent) (p : Pool) : State :=
  let s := clearTally s b who p p.claim (p.tiles + p.claimers) 0
  let s := clearTally s b who p p.ready p.tiles 1
  clearTally s b who p p.done p.tiles 2

/-- Row `i` of the slot tensor as its elements' places, and whether it holds poison. -/
def slotRow (p : Pool) (i : Nat) : List (List Nat) := (List.range (p.m * p.n)).map (fun e => [e, i])
def rowPoisoned (p : Pool) (rd : List Nat → Option Elem) (i : Nat) : Bool :=
  (slotRow p i).any (fun k => (rd k).any (·.poison))

/-- The output tile of an element of dW, and its place in the tile's rows (06 R192). -/
def poolTile (p : Pool) (dst : Tensor) (is : List Nat) : Nat × Nat :=
  let r := is.getD 1 0
  let c := is.getD 0 0
  (r / p.m * ceilDiv (sizeAt dst 0) p.n + c / p.n, r % p.m * p.n + c % p.n)

/-- The FP32 sum of an element over its tile's chunks in ascending order; a poisoned row counts as zero under ppol = 1
(06 R195; 09 R283). -/
def slotSum (p : Pool) (slots dst : Tensor) (rd : List Nat → Option Elem) (is : List Nat) : Elem :=
  let (o, e) := poolTile p dst is
  let sum := (List.range p.chunks).foldl (fun (acc : F32 × Bool) c =>
    let i := o * p.chunks + c
    if slots.ppol = 1 ∧ rowPoisoned p rd i then acc
    else match rd [e, i] with
      | some x => if x.poison then (acc.1, true) else (add32 acc.1 (to32 x.val), acc.2)
      | none => (acc.1, true)) (0, false)
  { code := 0, val := val32 sum.1, poison := sum.2 }

/-! ### The staging memory's transposing half (09 R272) -/

/-- Element (i, j) of sub-tile `k` of a column strip, i the row in source dimension perm0, lies in bank (i + j) mod 32. -/
def bankOf (i j : Nat) : Nat := (i + j) % 32
def bankKey (k i j : Nat) : Nat := bankOf (i % 32) (j % 32) * 512 + k % 4 * 32 + i % 32

/-- What a bank holds of an element: its code, or its value as FP32 when it is to be re-baled. -/
def bankWord (copy : Bool) (e : Elem) : BitVec 40 :=
  if copy then BitVec.ofNat 40 e.code else BitVec.setWidth 40 (to32 e.val)

/-- The element as it leaves its bank. -/
def fromBank (copy : Bool) (e : Elem) : Elem :=
  if copy then e else { e with val := val32 (BitVec.setWidth 32 (bankWord copy e)) }

/-- The elements of some source indices enter their banks. -/
def fillBanks (d : Desc) (copy : Bool) (rd : List Nat → Option Elem) (ks : List (List Nat)) (x : BrwSt) : BrwSt :=
  let put (l : Map (BitVec 40)) (k : List Nat) : Map (BitVec 40) := match rd k with
    | some e => let i := k.getD (bdPerm d 0) 0; mput l (bankKey (i / 32) i (k.getD 0 0)) (bankWord copy e)
    | none => l
  { x with banks := ks.foldl put x.banks }

/-- The sub-tile of a source index: the plane of source dimensions 0 and perm0 is cut into 32 × 32. -/
def subTileOf (d : Desc) (k : List Nat) : List Nat :=
  (List.range 6).map (fun i => if i = 0 ∨ i = bdPerm d 0 then k.getD i 0 / 32 else k.getD i 0)

/-- Whether a COPY takes the transposing path (09 R267). -/
def transposing (d : Desc) : Bool := bdOp d == 1 && bdPerm d 0 != 0

/-! ### What an operation moves -/

/-- What an operation moves, in pieces that are converted together (a bale, or an element of an unbaled destination): each
with its bale's number and its indices; the width in tokens of the wider stream; whether codes are copied; the source
indices that some pieces need; and the element that belongs at an index, whose place in the destination `place` gives. -/
structure Move where
  pieces : List (Nat × List (List Nat))
  wide : Nat
  copy : Bool
  need : List (List Nat) → List (List Nat)
  get : (List Nat → Option Elem) → List Nat → Option Elem
  place : List Nat → List Nat := id

/-- The pieces of a destination. -/
def piecesOf (t : Tensor) : List (Nat × List (List Nat)) :=
  if t.bale = 0 then (walk t.size).map (fun is => (0, [is]))
  else (baleStarts t).zipIdx.map (fun e => (e.2, baleIdx t e.1))

/-- Tokens of the wider of two streams of `rows` slices: one narrower than 64 B still takes a token (09 R271, R274). -/
def sliceWide (src dst : Tensor) (n rows : Nat) : Nat :=
  let w := max (fmtBits src.fmt) (fmtBits dst.fmt)
  if rows = 0 then 0 else max rows (ceilDiv (n * w) 512)

/-- COPY (09 R267). On the transposing path the sub-tiles of the pieces are read whole, and a poisoned token poisons every
token of its sub-tile (09 R272, R282). -/
def moveCopy (d : Desc) (src dst : Tensor) : Move :=
  let copy := sameForm d src dst && bdDk d != 2
  let tr := transposing d
  { pieces := piecesOf dst
    wide := max (streamData src) (streamData dst)
    copy := copy
    need := fun is =>
      if tr then
        let keys := (is.map (fun k => subTileOf d (permIdx d k))).eraseDups
        ((walk dst.size).map (permIdx d)).filter (fun k => keys.contains (subTileOf d k))
      else is.map (permIdx d)
    get := fun rd is => (rd (permIdx d is)).map (fun e =>
      if tr then
        let key := subTileOf d (permIdx d is)
        let mates := ((walk dst.size).map (permIdx d)).filter (fun k => subTileOf d k == key)
        { fromBank copy e with poison := mates.any (fun k => (rd k).any (·.poison)) }
      else e) }

/-- Whether an indexed operation copies codes: where bales lie across the indexed dimension, each slice keeps its scales. -/
def slicesCopied (d : Desc) (src dst : Tensor) : Bool :=
  sameForm d src dst && (dst.bale == 0 || dst.baxis != bdGdim d) && bdDk d != 2

/-- GATHER (09 R267, R275): `picks` says what each index selects. -/
def moveGather (d : Desc) (src dst : Tensor) (picks : List Pick) : Move :=
  let g := bdGdim d
  let pick (k : List Nat) : Pick := picks.getD (k.getD g 0) .none
  { pieces := piecesOf dst
    wide := sliceWide src dst (elemCount dst) (sizeAt dst g)
    copy := slicesCopied d src dst
    need := fun is => is.filterMap (fun k => (pickRow (pick k)).map (setDim k g))
    get := fun rd k => match pick k with
      | .row i => rd (setDim k g i)
      | .none => some (zeroElem false)
      | .poison => some (zeroElem true) }

/-- Positions j of the source that land on row `i` of a scatter's destination. -/
def landing (picks : List Pick) (i : Nat) : List Nat := (picks.zipIdx.filter (fun p => p.1 == .row i)).map Prod.snd

/-- SCATTER (09 R267, R274): of several slices that land on one row one remains, by a free choice. -/
def moveScatter (d : Desc) (src dst : Tensor) (picks : List Pick) (draw : Nat) : Move :=
  let g := bdGdim d
  let from' (k : List Nat) : Option (List Nat) :=
    let l := landing picks (k.getD g 0)
    (l[Config.pick (draw + elemCount dst + k.getD g 0) % l.length]?).map (setDim k g)
  { pieces := (piecesOf dst).filter (fun p => p.2.any (fun k => (from' k).isSome))
    wide := sliceWide src dst (elemCount src) (sizeAt src g)
    copy := slicesCopied d src dst
    need := fun is => is.filterMap from'
    get := fun rd k => (from' k).bind rd }

/-- SCATTER-ADD (09 R267, R274): every slice in ascending j, its pieces those of the destination's bales. -/
def moveAdd (d : Desc) (src dst : Tensor) (picks : List Pick) : Move :=
  let g := bdGdim d
  let one : Tensor := { dst with size := setDim src.size g 1 }
  let put (k : List Nat) : List Nat := match pickRow (picks.getD (k.getD g 0) .none) with
    | some i => setDim k g i
    | none => k
  { pieces := (picks.zipIdx.filter (fun p => (pickRow p.1).isSome)).flatMap (fun p =>
      (piecesOf one).map (fun e =>
        let ks := e.2.map (fun k => setDim k g p.2)
        (if dst.bale = 0 then 0 else scaleNumber dst (put (ks.headD [])), ks)))
    wide := sliceWide src dst (elemCount src) (sizeAt src g)
    copy := slicesCopied d src dst
    need := id
    get := fun rd k => rd k
    place := put }

/-- CLOSE (09 R279): the sums of a pool's slot rows, into a BX16 view. -/
def moveClose (p : Pool) (slots dst : Tensor) : Move :=
  { pieces := if p.tiles = 0 then [] else piecesOf dst
    wide := if p.tiles = 0 then 0 else max (streamData slots) (streamData dst)
    copy := false
    need := fun is => ((is.flatMap (fun k => (List.range p.chunks).map (fun c => (poolTile p dst k).1 * p.chunks + c))).eraseDups).flatMap (slotRow p)
    get := fun rd k => some (slotSum p slots dst rd k) }

/-! ### The control word of an embedding GATHER (08 R241, R243, R248) -/

/-- The control token of a firing: the first token of an enabled input whose token is a control token. -/
def controlOf (s : State) (b : BrwId) (j : BrwJob) : Option Token :=
  match brwStall b, j.firing with
  | some st, some (c, tag) =>
    let u := unitOf s st (iouSite b.b)
    ((cfgOf u c).map (fun w => enabledIn w)).bind (fun is => is.findSome? (fun i =>
      (entryOf u c i tag).bind (fun e => e.toks.head?.filter (fun t => t.kind == .control))))
  | _, _ => none

/-- Live rows of a control word; a void one has none. -/
def liveOf (t : Token) : Nat := if t.void then 0 else min 32 (recBits t.payload 0 6)

/-- The rows of a GATHER that are live: those beyond are fed as zeros. -/
def liveRows (s : State) (b : BrwId) (j : BrwJob) (n : Nat) : Nat :=
  if bdOp j.desc = 2 then (match controlOf s b j with | some t => min n (liveOf t) | none => n) else n

/-! ### Starting -/

/-- The picks of an indexed operation: index policy 2 discards a scatter's slices like 0; rows beyond the live ones of a
GATHER select nothing. -/
def picksOf (s : State) (b : BrwId) (j : BrwJob) (src dst x : Tensor) : List Pick :=
  let g := bdGdim j.desc
  let gather := bdOp j.desc == 2
  let extent := if gather then sizeAt src g else sizeAt dst g
  let live := liveRows s b j j.indices.length
  j.indices.zipIdx.map (fun e => if live ≤ e.2 then .none
    else pickOf (if gather ∨ x.ipol = 1 then x.ipol else 0) extent e.1)

/-- What a started transfer moves. -/
def wholeTransfer (s : State) (b : BrwId) (j : BrwJob) : Option (Move × Tensor × Tensor) :=
  match j.plan with
  | some { src := some a0, dst := some t, idx := x } =>
    let a := sourceForm s b j a0
    let d := j.desc
    match bdOp d, x with
    | 1, _ => some (moveCopy d a t, a, t)
    | 2, some x => some (moveGather d a t (picksOf s b j a t x), a, t)
    | 3, some x => some (moveScatter d a t (picksOf s b j a t x) j.draw, a, t)
    | 4, some x => some (moveAdd d a t (picksOf s b j a t x), a, t)
    | 5, _ => (poolOf s (bdSrc d)).map (fun p => (moveClose p a t, a, t))
    | _, _ => none
  | _ => none

/-- The stall whose MEMs hold an element. -/
def spotStall (p : Spot) : Option Stall :=
  if p.module.isNone && inMem (p.bit / 8) then some ⟨(p.bit / 8 - 0xF00000000000) / 0x100000000 % 32, by omega⟩ else none

/-- The position that fills a piece: the one whose MEMs hold it, else the region's home. -/
def pieceStall (s : State) (r : Region) (m : Move) (dst : Tensor) (p : Nat × List (List Nat)) : Option Stall :=
  match (((p.2.head?.map m.place).bind (spotOf s dst)).bind spotStall).filter ((regionStalls s r).contains ·) with
  | some st => some st
  | none => regionHome s r

/-- The pieces of a barrow's share of a fill: those its position fills, turn about among its eight barrows (10 R314). -/
def shareOf (s : State) (b : BrwId) (f : WinFill) (dst : Tensor) (m : Move) : Move :=
  { m with pieces := (m.pieces.zipIdx.filter (fun e =>
      e.2 % 8 == b.b.val % 8 && (pieceStall s f.region m dst e.1).map (·.val) == some b.die.val)).map Prod.fst }

/-- The transfer of a job: what its operation moves, or its share of a window fill. -/
def transferOf (s : State) (b : BrwId) (j : BrwJob) : Option (Move × Tensor × Tensor) :=
  match j.fill with
  | none => wholeTransfer s b j
  | some f => (wholeTransfer s b j).map (fun x => (shareOf s b f x.2.2 x.1, x.2))

/-- The tensors are read and checked once, when the operation starts (09 R261); so is the ledger's choice. -/
def planStage (s : State) (b : BrwId) (j : BrwJob) : Except State (State × BrwJob) :=
  if j.plan.isSome then .ok (s, j) else
  let s := notePlan s (jobAgent b j) j.desc
  match plan s j.desc (imageOf j) with
  | .error c => .error (failJob s b j c)
  | .ok p =>
    let s := each (p.src.toList ++ p.dst.toList) (fun s t => noteLayer s (brwSrc s b) t) s
    let p := { p with dst := p.dst.map (fun t => { t with boff := (j.fill.map (·.boff)).getD 0 }) }
    let n := match p.dst with | some t => elemCount t + sizeAt t (bdGdim j.desc) + 1 | none => 1
    let j := { j with plan := some p, draw := s.draws }
    .ok (putJob { s with draws := s.draws + n } b j, j)

/-- The indices are read in ascending j, and those out of range counted (09 R274, R275). -/
def indexStage (s : State) (b : BrwId) (j : BrwJob) : Except State (State × BrwJob) :=
  match j.plan.bind (·.src), j.plan.bind (·.dst), j.plan.bind (·.idx) with
  | some src, some dst, some x =>
    let d := j.desc
    let g := bdGdim d
    match memSource s b j x ((List.range (sizeAt x 0)).map (fun i => [i])) with
    | .wait s => .error s
    | .fail s c => .error (failJob s b j c)
    | .go s rd bad =>
      let is := (List.range (sizeAt x 0)).map (fun i => match rd [i] with
        | some e => (signedOf 32 e.code, e.poison)
        | none => (-1, false))
      let live := is.take (liveRows s b j is.length)
      let gather := bdOp d == 2
      let s := countIndices s b x.ipol (if gather then sizeAt src g else sizeAt dst g) live
      let s := if gather then s else satF s (brwBase b + 0x40) 32 32 (live.filter (·.2)).length
      let s := satF s (brwBase b + 0x48) 0 32 bad.length
      let j := { j with indices := is, badLines := bad }
      let s := if gather && bdSk d == 0 then countCoalesced s src g ((picksOf s b j src dst x).filterMap pickRow) else s
      .ok (putJob s b j, j)
  | _, _, _ => .ok (s, j)

/-- A CLOSE starts when done has reached T; its descriptor must fit (06 R192, R195). -/
def poolStage (s : State) (b : BrwId) (j : BrwJob) : Except State (State × BrwJob) :=
  if bdOp j.desc ≠ 5 then .ok (s, j) else
  match poolOf s (bdSrc j.desc), j.plan.bind (·.dst) with
  | some p, some t =>
    if !poolMatches p t then .error (failJob s b j 0x0216)
    else if tallyValue s p.done < p.tiles then .error s else .ok (s, j)
  | _, _ => .error (failJob s b j 0x0102)

/-- Whether a BX16 destination needs a pre-reduction pass: its array is cold or unreadable (05 R170, R178). -/
def needsPrepass (s : State) (t : Tensor) (j : BrwJob) : Bool :=
  t.fmt == 0xC && t.brec != 0 && j.agreed.isNone &&
    (match baleArray s t.brec with | some a => a.cold != 0 | none => true)

/-- The pre-pass: own-values exponents of the cold bales go up the flow, and the transfer waits for their return (05 R170). -/
def prepassStage (s : State) (b : BrwId) (j : BrwJob) : Except State (State × BrwJob) :=
  match transferOf s b j with
  | none => .ok (s, j)
  | some (m, src, dst) =>
    if m.pieces = [] ∨ !needsPrepass s dst j then .ok (s, j)
    else if j.prepass.isSome then .error s
    else match anySource s b j src (m.need (m.pieces.flatMap Prod.snd)) with
      | .wait s => .error s
      | .fail s c => .error (failJob s b j c)
      | .go s rd _ =>
        let cold := coldBales s dst (m.pieces.map Prod.fst)
        let own := (m.pieces.filter (fun e => cold.contains e.1)).map (fun e => (e.1, bxOwn (e.2.filterMap (fun k => (m.get rd k).map (·.val)))))
        let exps := own.map (fun e => BitVec.ofNat 8 e.2)
        let s := noteArray (putJob s b { j with prepass := some exps }) (brwSrc s b) dst.brec
        let s := emit s (brwSrc s b) 0x08C6 dst.brec exps.length
        .error (own.foldl (fun s e => contribute s (bdFlow j.desc) e.1 [{ e := BitVec.ofNat 8 e.2, pre := true }]) s)

/-! ### Tiles (09 R271) -/

/-- Tokens of a yard destination's stream. -/
def streamAll (t : Tensor) : Nat := streamData t + streamScales t

/-- The tokens of a yard stream that are tile `i` of `n`: from, up to. -/
def tileCut (t : Tensor) (n i : Nat) : Nat × Nat := (i * streamAll t / n, (i + 1) * streamAll t / n)

/-- Whether a piece has values, or its scale, in some tokens of a yard stream. -/
def inTokens (t : Tensor) (lo hi : Nat) (p : Nat × List (List Nat)) : Bool :=
  let w := fmtBits t.fmt
  p.2.any (fun is => let a := flatIndex t.size is * w; decide (a / 512 < hi ∧ lo ≤ (a + w - 1) / 512))
  || (t.bale != 0 && decide (lo ≤ streamData t + p.1 / 64 ∧ streamData t + p.1 / 64 < hi))

/-- The pieces of a tile: those whose place in the stream lies in it. A COPY onto itself is read whole before anything is
written, which gives the result of a copy from an unchanged source (09 R276). -/
def tilePieces (s : State) (d : Desc) (m : Move) (src dst : Tensor) (tiles i : Nat) : List (Nat × List (List Nat)) :=
  if bdDk d = 1 then let c := tileCut dst tiles i; m.pieces.filter (inTokens dst c.1 c.2)
  else if bdOp d = 1 ∧ spansClash s src dst (bdSk d = 0 && bdDk d = 0) then (if i = 0 then m.pieces else [])
  else (m.pieces.zipIdx.filter (fun p => p.2 * m.wide / m.pieces.length / bdTtok d == i)).map Prod.fst

/-- The runs that pieces make. -/
def tileRuns (s : State) (j : BrwJob) (m : Move) (dst : Tensor) (rd : List Nat → Option Elem) (ps : List (Nat × List (List Nat))) :
    List OutRun :=
  let exp := arrayExp s dst j.agreed (m.pieces.map Prod.fst)
  ps.filterMap (fun p => runOf dst m.copy exp p.1 (p.2.filterMap (fun k => (m.get rd k).map (fun e => (m.place k, e)))))

/-- Whether the runs may be written or sent now: none when they may; else the transfer waits, for lines of other modules
that it writes in part or adds to, or for a move to end (10 R306). -/
def heldWrite (s : State) (b : BrwId) (j : BrwJob) (dst : Tensor) (rs : List OutRun) : Option State :=
  if bdDk j.desc ≠ 0 then none else
  let away := if bdOp j.desc = 4 then (spotLines dst (rs.flatMap (fun r => r.idx.filterMap (spotOf s dst)))).filter (·.1.isSome)
    else partLines s dst rs
  match missing j away with
  | [] => if destMoving s dst rs then some s else none
  | ls => some (askLines s b j ls)

/-- What a tile's runs do at their destination; the status of a refusal. -/
def deliverTile (s : State) (b : BrwId) (j : BrwJob) (src dst : Tensor) (rs : List OutRun) : State × BrwJob × Nat :=
  let d := j.desc
  match bdDk d with
  | 0 =>
    if bdOp d = 4 then
      let (s, j', c) := rs.foldl (addRun dst b) (s, j, 0)
      (satF s (brwBase b + 0x48) 32 32 (j'.dropped - j.dropped), j', c)
    else landRuns s b j dst rs
  | 1 =>
    let c := tileCut dst j.tiles j.issued
    let ts := yardTokens s b j dst rs
    let ts := match controlOf s b j with
      | some t => if bdOp d = 2 then ts.map (fun (e : Nat × Token) => (e.1, { e.2 with void := e.2.void || liveOf t == 0, poison := e.2.poison || t.poison })) else ts
      | none => ts
    (pushTokens s b j ((ts.drop c.1).take (c.2 - c.1)), j, 0)
  | _ =>
    let drop := bdOp d = 1 && src.ppol == 1
    let n := if drop then (rs.filter (fun r => r.poison.any id)).length else 0
    let (s, j) := dropMore (sendRuns s d drop rs dst.bale) b j n
    (s, j, 0)

/-- The poisoned tokens that a transfer has read, and the contributions it has dropped, are each recorded once
(09 R282, R283). -/
def noteLosses (s : State) (b : BrwId) (j : BrwJob) : State :=
  let s := match j.badLines with
    | [] => s
    | a :: _ => emit s (brwSrc s b) 0x0182 a j.badLines.length
  if j.dropped = 0 then s else
  let dst := match j.plan.bind (·.dst) with | some t => if bdOp j.desc = 4 then t.addr else bdDst j.desc | none => bdDst j.desc
  emit s (brwSrc s b) 0x0183 dst j.dropped

/-- Issue the next tile: its reads, conversion and writes. The state of a transfer that waits or has failed, or the state
after and the job. -/
def issueTile (s : State) (b : BrwId) (j : BrwJob) (m : Move) (src dst : Tensor) : Except State (State × BrwJob) :=
  let ps := tilePieces s j.desc m src dst j.tiles j.issued
  match anySource s b j src (m.need (ps.flatMap Prod.snd)) with
  | .wait s => .error s
  | .fail s c => .error (failJob (noteLosses s b j) b j c)
  | .go s' rd bad =>
    let rs := tileRuns s' j m dst rd ps
    match heldWrite s b j dst rs with
    | some s => .error s
    | none =>
      let bad := bad.filter (fun a => !j.badLines.contains a)
      let s := satF s' (brwBase b + 0x48) 0 32 bad.length
      let s := if transposing j.desc then updBrw s b (fillBanks j.desc m.copy rd (m.need (ps.flatMap Prod.snd))) else s
      let (s, j, code) := deliverTile s b { j with badLines := j.badLines ++ bad } src dst rs
      if code ≠ 0 then .error (failJob (noteLosses s b j) b j code)
      else
        let s := satF s (brwBase b + (if transposing j.desc then 0x38 else 0x30)) 0 48 (runBytes dst rs)
        let s := match j.leadSince with | some t => satF s (brwBase b + 0x58) 0 48 (brwCycles s b (s.time - t)) | none => s
        .ok (s, { j with issued := j.issued + 1, leadSince := none })

/-- A conversion's counts go to its stall's accumulators; a manger's barrow has none, and folds them at once (05 R161,
R162; log entry 124). -/
def gatherRuns (s : State) (b : BrwId) (layer : Nat) (c : Counts) : State :=
  match brwStall b, layerAddr s layer with
  | some st, _ => gather s st (islandOf (iouSite b.b)) layer c
  | none, none => ledgerIllegal s (brwSrc s b) layer
  | none, some a =>
    if rangeCode s a 256 ≠ 0 then refuseAt s (brwSrc s b) a 256 else
    foldInto s a { layer := layer, step := ledgerStep s, used := 0, elems := c.elems, zeros := c.zeros, uf4 := c.uf4, uf5 := c.uf5
                   st8 := c.st8, sat := c.sat, zbales := c.zbales, hist := c.hist }

/-- The last read has been issued: what a transfer leaves once for all of it. The next descriptor of a block starts
(09 R269). -/
def finishReads (s : State) (b : BrwId) (j : BrwJob) : State :=
  let (s, j) := match transferOf s b j with
    | none => (s, j)
    | some (m, src, dst) =>
      match anySource s b j src (m.need (m.pieces.flatMap Prod.snd)) with
      | .go _ rd _ =>
        let s := if dst.hasExt && dst.stats && !m.copy then gatherRuns s b dst.layer (runCounts dst (tileRuns s j m dst rd m.pieces)) else s
        let rows := match poolOf s (bdSrc j.desc) with
          | some p => if bdOp j.desc = 5 ∧ src.ppol = 1 then ((List.range p.tiles).filter (rowPoisoned p rd)).length else 0
          | none => 0
        let (s, j) := dropMore s b j rows
        if bdSk j.desc = 1 then
          match streamOf s b j src with
          | some x =>
            let n := ((x.data ++ x.scales).filter (·.poison)).length
            (takeStream (satF s (brwBase b + 0x48) 0 32 n) b j src, { j with badLines := j.badLines ++ List.replicate n 0 })
          | none => (s, j)
        else (s, j)
      | _ => (s, j)
  let s := noteLosses s b j
  if imageOf j then nextInBlock s b j else putJob s b j

/-- Issue tiles up to the lead, and finish with the last one. -/
def issueTiles : Nat → State → BrwId → BrwJob → Move → Tensor → Tensor → State
  | 0, s, b, j, _, _, _ => finishReads s b j
  | n + 1, s, b, j, m, src, dst =>
    if j.tiles ≤ j.issued then finishReads s b j
    else if j.accepted + bdLead j.desc ≤ j.issued then putJob s b { j with leadSince := some (j.leadSince.getD s.time) }
    else match issueTile (putJob s b j) b j m src dst with
      | .error s => s
      | .ok (s, j) => issueTiles n s b j m src dst

/-- Go on with a started transfer. -/
def goTiles (s : State) (b : BrwId) (j : BrwJob) : State :=
  match transferOf s b j with
  | some (m, src, dst) => issueTiles (j.tiles + 1) s b j m src dst
  | none => finishReads s b j

/-- All stages before the first tile. -/
def startStages (s : State) (b : BrwId) (j : BrwJob) : Except State (State × BrwJob) :=
  match planStage s b j with
  | .error s => .error s
  | .ok (s, j) =>
    match (if j.indices = [] then indexStage s b j else .ok (s, j)) with
    | .error s => .error s
    | .ok (s, j) =>
      match poolStage s b j with
      | .error s => .error s
      | .ok (s, j) => prepassStage s b j

/-- Its tiles, once a transfer has been checked. -/
def startTiles (s : State) (b : BrwId) (j : BrwJob) : BrwJob :=
  let tiles := match transferOf s b j with
    | some (m, _, dst) => if m.pieces = [] then 0 else if bdDk j.desc = 1 ∧ streamAll dst = 0 then 0 else ceilDiv m.wide (bdTtok j.desc)
    | none => 0
  { j with started := true, tiles := tiles }

/-- Run the job under way when it is of an operation and its wait is met. -/
def runOp (s : State) (b : BrwId) (op : Nat) : State :=
  match (brwOf s b).job with
  | none => s
  | some j =>
    if !brwOn s b ∨ bdOp j.desc ≠ op ∨ !j.waitMet then s
    else if j.started then (if j.issued < j.tiles then goTiles s b j else s)
    else match startStages s b j with
      | .error s => s
      | .ok (s, j) => goTiles s b (startTiles s b j)

def execBarrowNop (b : BrwId) (s : State) : Host.Outcome State Fault Refusal := finish s (runOp s b 0)
def execBarrowCopy (b : BrwId) (s : State) : Host.Outcome State Fault Refusal := finish s (runOp s b 1)
def execBarrowGather (b : BrwId) (s : State) : Host.Outcome State Fault Refusal := finish s (runOp s b 2)
def execBarrowScatter (b : BrwId) (s : State) : Host.Outcome State Fault Refusal := finish s (runOp s b 3)
def execBarrowScatterAdd (b : BrwId) (s : State) : Host.Outcome State Fault Refusal := finish s (runOp s b 4)
def execBarrowClose (b : BrwId) (s : State) : Host.Outcome State Fault Refusal := finish s (runOp s b 5)

/-- Count one accepted tile in the first transfer of a list that has one under way. -/
def acceptIn : List BrwJob → Option (List BrwJob)
  | [] => none
  | j :: t => if j.accepted < j.issued then some ({ j with accepted := j.accepted + 1 } :: t) else (acceptIn t).map (j :: ·)

/-- A tile has been accepted, of the oldest transfer that has one under way: the reads of the next one may be issued
(09 R271). -/
def tileAccepted (s : State) (b : BrwId) : State :=
  let x := brwOf s b
  match acceptIn x.landing, acceptIn x.preempted.toList, acceptIn x.job.toList with
  | some l, _, _ => putBrw s b { x with landing := l }
  | _, some (j :: _), _ => putBrw s b { x with preempted := some j }
  | _, _, some (j :: _) =>
    let s := putJob s b j
    if brwOn s b ∧ j.issued < j.tiles then goTiles s b j else s
  | _, _, _ => s

def execTileAccepted (b : BrwId) (s : State) : Host.Outcome State Fault Refusal := finish s (tileAccepted s b)

/-- Whether every tile of a transfer has been accepted and every write acknowledged. -/
def jobLanded (s : State) (j : BrwJob) : Bool :=
  j.started && decide (j.tiles ≤ j.issued ∧ j.tiles ≤ j.accepted)
  && !s.fab.outstanding.any (fun o => o.kind == 2 && j.writes.contains o.tag)

/-- The transfer whose writes land next: the oldest of a block whose reads are all issued, else the one of the queue. -/
def landingJob (x : BrwSt) : Option BrwJob :=
  match x.landing with
  | j :: _ => some j
  | [] => x.job.filter (fun j => !imageOf j)

/-- Every write has landed: a pool is cleared, the trigger pushed, the signal applied, and the descriptor completes
(09 R277–R279). A full ring holds the barrow, and a pool that its claimers have not all quit. The signal of a yard stream
rides its last token; that of a window fill comes from the last of its barrows. -/
def writesLanded (s : State) (b : BrwId) : State :=
  match landingJob (brwOf s b) with
  | none => s
  | some j =>
    if !jobLanded s j then s
    else if j.failed ≠ 0 then failJob s b j j.failed.toNat
    else
      let d := j.desc
      let pool := if bdOp d = 5 then poolOf s (bdSrc d) else none
      if pool.any (fun p => !poolQuit s p) then s else
      let rides := (bdDk d == 1 && decide (0 < j.tiles)) || !lastShare s j
      match (if bdTrig d && lastShare s j then pushTrigger s (bdTeng d) (bdTrigger d) else some s) with
      | none => s
      | some s =>
        let s := match pool with | some p => clearPool s b (jobAgent b j) p | none => s
        let s := if bdSig d && !rides then applySignal s (jobAgent b j) (bdSref d) else s
        completeJob s b j

def execWritesLanded (b : BrwId) (s : State) : Host.Outcome State Fault Refusal := finish s (writesLanded s b)

/-- The agreed exponents come back: the data pass may run (05 R170). -/
def execPrePassReturn (b : BrwId) (exps : List Byte) (s : State) : Host.Outcome State Fault Refusal :=
  finish s (match (brwOf s b).job with
    | some j => if j.prepass.isSome then putJob s b { j with agreed := some exps, prepass := none } else s
    | none => s)

/-! ### Image lists (09 R268, R269) -/

def ilList (w : BitVec 4096) : Nat := progBits w 200 0 48
def ilCount (w : BitVec 4096) : Nat := progBits w 200 48 6 + 1
def ilNblk (w : BitVec 4096) : Nat := progBits w 200 64 16
def ilT0 (w : BitVec 4096) : BitVec 16 := BitVec.ofNat 16 (progBits w 200 80 16)

/-- The addresses of the descriptors of the block of a tag. -/
def blockAddrs (w : BitVec 4096) (tag : BitVec 16) : List Nat :=
  let blk := if ilNblk w = 0 then 0 else (tag - ilT0 w).toNat % ilNblk w
  (List.range (ilCount w)).map (fun i => ilList w + 64 * (blk * ilCount w + i))

def blockOf (s : State) (w : BitVec 4096) (tag : BitVec 16) : List (Option Desc × Addr) := (blockAddrs w tag).map (descAt s)

/-- Whether a descriptor takes from the yard, or gives to it. -/
def fromYard (d : Desc) : Bool := bdSk d == 1 && decide (1 ≤ bdOp d ∧ bdOp d ≤ 4)
def toYard (d : Desc) : Bool := bdDk d == 1 && decide (1 ≤ bdOp d ∧ bdOp d ≤ 2)

/-- The stream of a yard end; none where its descriptor does not pass its checks. -/
def streamAt (s : State) (a : Nat) : Option Tensor := (readTensor s a .stream).toOption

/-- The status of the first stream descriptor of a block that does not pass its checks; 0 when all do. -/
def streamsCode (s : State) (ds : List Desc) : Nat :=
  let check (a : Nat) : Nat := match readTensor s a .stream with | .ok _ => 0 | .error c => c
  ((ds.flatMap (fun d => (if fromYard d then [check (bdSrc d)] else []) ++ (if toYard d then [check (bdDst d)] else []))).find? (· ≠ 0)).getD 0

/-- Stream tokens that the block's descriptors take from an input, or give to an output. -/
def blockTake (s : State) (ds : List Desc) (i : Nat) : Nat :=
  sumOf (ds.map (fun d => if fromYard d && bdYin d == i then (match streamAt s (bdSrc d) with | some t => streamAll t | none => 0) else 0))
def blockGive (s : State) (ds : List Desc) (o : Nat) : Nat :=
  sumOf (ds.map (fun d => if toYard d then (match streamAt s (bdDst d) with
    | some t => (if bdYout d = o then streamData t else 0) + (if bdYsc d = o then streamScales t else 0)
    | none => 0) else 0))

/-- Whether an input brings the control word of an embedding GATHER: it takes one token, and no descriptor of the block
reads it (08 R243; the model's reading, log entry 125). -/
def controlInput (w : BitVec 4096) (ds : List Desc) (i : Nat) : Bool :=
  inEn w i && inTake w i == 1 && ds.any (fun d => bdOp d == 2) && !ds.any (fun d => fromYard d && bdYin d == i)

/-- The status of a block's issue: unreadable descriptors, then the streams' own checks, then their counts (09 R269). -/
def blockCode (s : State) (w : BitVec 4096) (blk : List (Option Desc × Addr)) : Nat :=
  if blk.any (fun e => e.1.isNone) then 0x0102 else
  let ds := blk.filterMap Prod.fst
  let c := streamsCode s ds
  if c ≠ 0 then c
  else if (List.range 8).all (fun i => controlInput w ds i || blockTake s ds i == (if inEn w i then inTake w i else 0))
    && (List.range 8).all (fun o => blockGive s ds o == (if outEn w o then outGive w o else 0)) then 0 else 0x010B

/-- The staging memory of an IOU, its output store, has room for one tile of the block (09 R269). Its 1,024 tokens are
counted for the outputs alone (the model's choice, log entry 29). -/
def iouRoom (s : State) (u : UnitSt) (w : BitVec 4096) (tag : BitVec 16) : Bool :=
  let tile := ((blockOf s w tag).filterMap Prod.fst).foldl (fun n d => max n (bdTtok d)) 1
  decide (sumOf (u.outs.map (fun e => e.2.length)) + tile ≤ 1024)

/-- An IOU fires: its block's first descriptor begins, ahead of a queue descriptor. -/
def fireIou (s : State) (st : Stall) (b : Fin 32) (w : BitVec 4096) (c : Slot) (tag : BitVec 16) : State :=
  let id : BrwId := ⟨⟨st.val, by omega⟩, b⟩
  let x := brwOf s id
  if firingOn x then s else
  let s := match x.job with
    | some j => setF (putBrw s id { x with job := none, preempted := some j }) (brwBase id + 0x20) 3 1 1
    | none => s
  let s := each (blockAddrs w tag) (fun s a => noteRead s (.image id) a 64) s
  let blk := blockOf s w tag
  let code := blockCode s w blk
  match blk with
  | (d, a) :: t =>
    let j : BrwJob := { desc := d.getD 0, addr := a, firing := some (c, tag), rest := t }
    if code ≠ 0 then failJob (putJob s id j) id j code else beginJob s id j
  | [] => s

end Sys2Proof.Machine
end

