-- ==== Sys2Proof/Machine/Fire.lean ====
section
/-! DEFINITION. UNIT_FIRE (03 R72, R73): which tag fires, the source units, and the feed unit of a rollout (08 R243, R248). -/

namespace Sys2Proof.Machine

/-! ### The feed unit (08 R243, R248) -/

/-- A unit is a feed unit when it is a source IOU of the stall that carries LP00 whose image list has 256 blocks of one
COPY each, from a 64 B INT32 tensor in memory (the record's control word) to the yard. -/
def feedDesc (s : State) (st : Stall) (w : BitVec 4096) (tag : BitVec 16) : Option (Desc × Tensor) :=
  if !hdrSource w ∨ stallLp s st ≠ some 0 ∨ ilNblk w ≠ 256 ∨ ilCount w ≠ 1 then none else
  match blockOf s w tag with
  | [(some d, _)] =>
    if bdOp d = 1 ∧ bdSk d = 0 ∧ bdDk d = 1 then
      match readTensor s (bdSrc d) .source with
      | .ok t => if t.fmt = 0xB ∧ elemCount t = 16 then some (d, t) else none
      | .error _ => none
    else none
  | _ => none

def frLive (r : Nat) : Nat := field r 0 6
def frGen (r : Nat) : Bool := bitOf r 6
def frSeqn (r : Nat) : Nat := field r 8 4

/-- The feed unit reads the record of a tag and sends its control word as one control token. A generating record waits
for the index that LP27 sampled, a token on input 0; a void or a poisoned one ends the sequence, whose later records
read as live = 0; a record of a prompt (gen = 0) begins a new sequence of its number (the model's reading, log entry 125).
A sequence that a stall's loss has ended stays so at the tags that were fed before, which the replay releases again. The index goes into row 0 of the record's ids. -/
def fireFeed (s : State) (st : Stall) (site : Site) (w : BitVec 4096) (c : Slot) (tag : BitVec 16) (d : Desc) (t : Tensor) : State :=
  let u := unitOf s st site
  match readMem s t.addr 64 with
  | none => refuseEvent s (.unit st site) t.addr (rangeCode s t.addr 64)
  | some (bs, bad) =>
    let r := ofBytes bs
    let sample := (entryOf u c 0 tag).bind (fun e => e.toks.head?)
    if frGen r ∧ sample.isNone then s else
    let ends := match sample with | some x => frGen r && (x.void || x.poison) | none => false
    let s := match sample with
      | some x => if frGen r && x.poison then
          emit s (srcIsland st site) 0x0291 tag.toNat (hdrRegion w + frSeqn r * 2 ^ 16) else s
      | none => s
    let before := if frGen r then u.stopped else u.stopped.filter (· ≠ frSeqn r)
    let stopped := if ends then frSeqn r :: before else before
    let dead : Bool := match mfind u.lost (frSeqn r) with
      | some t => frGen r || decide (32768 ≤ (tag.toNat + 65535 - t.toNat) % 65536)
      | none => false
    let lost := if dead then u.lost else mdel u.lost (frSeqn r)
    let beyond := decide (32 < frLive r)
    let s := if beyond then emit s (srcIsland st site) 0x0282 tag.toNat site.val else s
    let live := if dead ∨ frSeqn r ∈ stopped then 0 else min 32 (frLive r)
    let s := match sample with
      | some x => if frGen r && !ends && !dead then writeMem s (.unit st site) (t.addr + 64) (toBytes 4 (recBits x.payload 0 32)) false else s
      | none => s
    let o := bdYout d
    let tok : Token := { outToken w c tag o with
      kind := .control, void := live == 0, poison := bad, payload := BitVec.ofNat 512 (setBits r 0 6 live) }
    let fed := if live = 0 then mdel u.fed (frSeqn r) else mput u.fed (frSeqn r) tag
    let u := pushOut { originated (releaseTag u c (enabledIn w) tag) c tag with stopped := stopped, fed := fed, lost := lost } c o [tok]
    countFiring (putUnit s st site u) st site c

/-! ### Firing -/

/-- The tag that a source unit may originate now: its inputs, if any, hold that tag (06 R188). -/
def sourceReady (s : State) (t : SiteType) (u : UnitSt) (w : BitVec 4096) (c : Slot) (tag : BitVec 16) : Bool :=
  mayOriginate s u c tag && (enabledIn w).all (inputReady t u w c tag)

/-- A source unit has fired. -/
def sourceFired (s : State) (st : Stall) (site : Site) (w : BitVec 4096) (c : Slot) (tag : BitVec 16) : State :=
  if hdrSource w then updUnit s st site (fun u => originated u c tag) else s

/-- The barrow of an IOU site. -/
def siteBarrow (site : Site) : Fin 32 := ⟨siteIndex site % 32, by omega⟩

/-- A unit fires for a tag, if it is the one that fires now. A MAT with an instruction latched takes its next operand set. -/
def unitFire (s : State) (st : Stall) (site : Site) (tag : BitVec 16) (ecc : Ecc) : State :=
  let u := unitOf s st site
  let c := u.active
  let t := siteType site
  match cfgOf u c with
  | none => s
  | some w =>
    if !unitGo s st u c ∨ hdrSteer w then s else
    if t = .mat then
      match mfind u.mat c.val with
      | some p => match p.issue with
        | some q => if p.tag = tag then matStep s st site w c p q ecc else s
        | none => s
      | none => s
    else if !(if t = .iou then iouRoom s u w tag else outputsRoom t u w c) then s
    else match (if t = .iou then feedDesc s st w tag else none) with
      | some (d, x) => if mayOriginate s u c tag then fireFeed s st site w c tag d x else s
      | none =>
        if !(if hdrSource w then sourceReady s t u w c tag else firstTag t u w c (enabledIn w) == some tag) then s else
        match t with
        | .mem => sourceFired (fireMem s st site w c tag) st site w c tag
        | .sfn => sourceFired (fireSfn s st site w c tag) st site w c tag
        | .iou => fireIou s st (siteBarrow site) w c tag
        | _ => s

def execUnitFire (st : Stall) (site : Site) (tag : BitVec 16) (ecc : Ecc) (s : State) : Host.Outcome State Fault Refusal :=
  finish s (unitFire s st site tag ecc)

end Sys2Proof.Machine
end

