-- ==== Sys2Proof/Machine/Contexts.lean ====
section
/-! DEFINITION. Context slots (03 R79, R80, R87–R92, R98): switching, loading and flushing, opening a lane, and the end of a
halt. -/

namespace Sys2Proof.Machine

/-! ### Switching (03 R88, R89) -/

def switchingOf (s : State) (st : Stall) (r : Region) : Bool := getF s (rgnReg st r) 10 1 = 1

/-- Units of a stall that name a region in some slot. -/
def stallUnits (s : State) (st : Stall) (r : Region) : List Site :=
  (s.yard.units.filter (fun e => keyStall e.1 == st && inRegion e.2 r)).map (fun e => keySite e.1)

/-- Units of the region that still have a request to apply. -/
def switchLeft (s : State) (st : Stall) (r : Region) : Bool :=
  (stallUnits s st r).any (fun site => match (unitOf s st site).pendSwitch with
    | some c => slotRegion (unitOf s st site) c r
    | none => false)

/-- The switch of a region in a stall is complete; in its home stall the watch observes the new context from now on
(03 R88, R94). -/
def switchedTo (s : State) (st : Stall) (r : Region) (c : Slot) : State :=
  when (regionHome s r == some st) (rearm · r) (setF (setF s (rgnReg st r) 10 1 0) (rgnReg st r) 0 2 c.val)

/-- Request a switch of a region in one stall to a slot; the later request replaces an earlier one. -/
def contextSwitch (s : State) (st : Stall) (r : Region) (c : Slot) : State :=
  if rgnHalted s st r then rgnStatus s st r 0x0206
  else if !rgnLoaded s st r c.val then rgnStatus s st r 0x0203
  else if rgnActive s st r = c.val ∧ !switchingOf s st r then s
  else
    let us := stallUnits s st r
    let holds (site : Site) : Bool := slotRegion (unitOf s st site) c r
    let s := if us.all holds then s else rgnStatus s st r 0x0203
    let s := each us (fun s site => updUnit s st site (fun u =>
      { u with pendSwitch := if slotRegion u c r ∧ u.active ≠ c then some c else none })) s
    if switchLeft s st r then setF s (rgnReg st r) 10 1 1
    else switchedTo s st r c

def execContextSwitchRequest (st : Stall) (r : Region) (c : Slot) (s : State) : Host.Outcome State Fault Refusal :=
  finish s (contextSwitch s st r c)

/-- A firing in progress: a MAT within a tile, an IOU within the block of a firing. -/
def midFiring (s : State) (st : Stall) (site : Site) (u : UnitSt) : Bool :=
  match siteType site with
  | .mat => (match mfind u.mat u.active.val with | some p => p.issue.isSome && decide (0 < p.step) | none => false)
  | .iou => (imageJobs (brwOf s ⟨⟨st.val, by omega⟩, siteBarrow site⟩)).any (fun j => j.firing.any (fun f => f.1 == u.active))
  | _ => false

/-- A unit applies its pending request at its firing boundary. -/
def unitSwitch (s : State) (st : Stall) (site : Site) : State :=
  let u := unitOf s st site
  match u.pendSwitch with
  | none => s
  | some c =>
    if midFiring s st site u then s else
    let s := putUnit s st site { u with active := c, pendSwitch := none }
    match unitRegion u c with
    | none => s
    | some r =>
      if switchLeft s st r then s
      else switchedTo s st r c

/-! ### Occupancy (03 R90, R92) -/

def laneMembers (s : State) (st : Stall) (r : Region) (c : Slot) : List Site :=
  (s.yard.units.filter (fun e => keyStall e.1 == st && laneMember e.2 c r)).map (fun e => keySite e.1)

def laneSum (s : State) (st : Stall) (r : Region) (c : Slot) : Nat :=
  sumOf ((laneMembers s st r c).map (fun site => heldTokens s st site c))

/-- The firing of a slot ends at an IOU whose lane is flushed: with its tokens goes what of its transfers is still to be
moved (03 R92; 09 R269), and a preempted queue descriptor goes on. -/
def dropIou (s : State) (st : Stall) (site : Site) (c : Slot) : State :=
  let b : BrwId := ⟨⟨st.val, by omega⟩, siteBarrow site⟩
  if siteType site = .iou ∧ (imageJobs (brwOf s b)).any (fun j => j.firing.any (fun f => f.1 == c)) then dropBlock s b else s

/-- Empty a unit's lane: everything of the iterations of the slot goes, the `n` discarded tokens are counted by lane. -/
def emptyLane (u : UnitSt) (c : Slot) (n : Nat) : UnitSt :=
  { u with
    queues := u.queues.filter (fun e => queueLane e.1 != c.val)
    exts := u.exts.filter (fun e => queueLane e.1 != c.val)
    inputs := u.inputs.filter (fun e => e.1 / 8 != c.val)
    outs := u.outs.filter (fun e => e.1 / 8 != c.val)
    steer := u.steer.filter (fun x => x.slot != c)
    staged := u.staged.filter (fun x => x.slot != c)
    faulted := u.faulted.filter (fun k => queueLane k != c.val)
    routeless := u.routeless.filter (fun k => queueLane k != c.val)
    mat := mdel u.mat c.val
    halves := u.halves.filter (fun e => e.2.ctx != c)
    disc := mupd u.disc 0 c.val (fun d => min (d + n) (2 ^ 48 - 1)) }

/-- Discard the tokens of a lane of a region in a stall, counted, with the flush event. -/
def flushLane (s : State) (st : Stall) (r : Region) (c : Slot) : State :=
  let n := laneSum s st r c
  let s := each (laneMembers s st r c) (fun s site => 
    let n := heldTokens s st site c
    dropIou (updUnit s st site (fun u => emptyLane u c n)) st site c) s
  let s := satF (setF s (stallReg st 0x418) 0 32 n) (stallReg st 0x418) 32 32 n
  emitSev s (if n = 0 then 0 else 1) false (srcStall st 0x3F) 0x0283 n (r.val + c.val * 2 ^ 8)

/-! ### The end of a halt (03 R98) -/

/-- Halts whose cause lies in the configuration end only when it has been loaded again. -/
def needsReload (code : Nat) : Bool := code != 0x0207 && code != 0x0208

/-- A halted MAT is idle again. -/
def clearMats (s : State) (st : Stall) (r : Region) : State :=
  each (stallUnits s st r) (fun s site =>
    if siteType site = .mat ∧ getF s (matReg st (siteIndex site) 0) 0 3 = 2 then
      setF s (matReg st (siteIndex site) 0) 0 3 0 else s) s

/-- Whether a region holds tokens in any slot of any stall. -/
def regionEmpty (s : State) (r : Region) : Bool :=
  (regionStalls s r).all (fun st => ([0, 1, 2, 3] : List Slot).all (fun c => laneSum s st r c == 0))

def endHalt (s : State) (r : Region) : State :=
  match mfind s.yard.halts r.val with
  | none => s
  | some code =>
    let sts := regionStalls s r
    if regionEmpty s r && (!needsReload code || sts.all (fun st => s.yard.reloaded.contains (st.val * 64 + r.val))) then
      let s := each sts (fun s st => clearMats (setF s (rgnReg st r) 12 1 0) st r) s
      onYard s (fun y => { y with
        halts := mdel y.halts r.val, reloaded := y.reloaded.filter (fun k => k % 64 != r.val)
        lastFire := mput y.lastFire r.val s.time })
    else s

/-! ### Slot images (03 R79, R80; 09 R273; 04 R109) -/

structure ImageEntry where
  site : Nat
  img : BitVec 4096
  deriving DecidableEq, Repr

def imageEntry (s : State) (a i : Nat) : ImageEntry :=
  let at' := a + 64 + 576 * i
  { site := ofBytes (readRange s at' 64) % 1024, img := BitVec.ofNat 4096 (ofBytes (readRange s (at' + 64) 512)) }

/-- The record checks of R273. -/
def memRecordsLegal (w : BitVec 4096) : Bool :=
  let rs := memRecs w
  let n := memRecCount w
  let reads := rs.filter mrRead
  let writes := rs.filter (fun r => !mrRead r)
  decide (1 ≤ n ∧ n ≤ 8)
  && rs.all (fun r =>
    (mrMode r != 3 || mrRead r)
    && mrBase r % 64 == 0 && mrRstride r % 64 == 0 && mrBstep r % 64 == 0 && mrSstride r % 64 == 0 && decide (1 ≤ mrRlen r)
    && decide (mrBase r + mrNbuf r * mrBstep r + (mrRows r - 1) * mrRstride r + mrRlen r * 64 ≤ 0xC0000)
    && (!(mrRead r && mrMode r == 0) || decide (outGive w (mrPort r) ≤ mrRows r * mrRlen r))
    && (if mrRead r then outEn w (mrPort r) && (mrMode r != 3 || inEn w (mrPort r)) else inEn w (mrPort r))
    && (mrRead r || field r 120 2 != 3))
  && (List.range 8).all (fun i =>
    (!inEn w i || (writes.filter (fun r => mrPort r == i)).length + (reads.filter (fun r => mrPort r == i && mrMode r == 3)).length == 1)
    && (!outEn w i || (reads.filter (fun r => mrPort r == i)).length == 1))

/-- The roles and counts of a steering unit's inputs, and of any other unit's (03 R78, R80, R82). -/
def rolesLegal (w : BitVec 4096) : Bool :=
  if hdrSteer w then
    inRole w 1 && (List.range 8).all (fun i => i == 1 || !inRole w i) && inTake w 1 == ctlNeed w
  else (List.range 8).all (fun i => !inRole w i)

/-- The formats that a unit's output tokens may carry (05 R142): a MAT ignores the field; M40 is moved by barrows alone, an
SFN makes neither reduction values nor scales. -/
def outFmtsLegal (t : SiteType) (w : BitVec 4096) : Bool :=
  (enabledOut w).all (fun o => match t with
    | .mem => outFmt w o != 0 && outFmt w o != 0xF
    | .iou => outFmt w o != 0xF
    | .sfn => !([0, 0xC, 0xD, 0xE, 0xF].contains (outFmt w o))
    | _ => true)

/-- Whether every direction that the route table names is in service (03 R80). -/
def routesUp (s : State) (st : Stall) (site : Site) (w : BitVec 4096) : Bool :=
  (List.range 64).all (fun i => match routeOuts w i with
    | none => true
    | some ds => ds.all (fun d => crossingUp s st site d && hopOf s st site d != .none))

/-- The checks of a record by itself. -/
def recordOk (s : State) (st : Stall) (r : Region) (e : ImageEntry) : Bool :=
  if h : e.site < 576 then
    let site : Site := ⟨e.site, h⟩
    let t := siteType site
    let w := e.img
    t != .spare && hdrType w == typeCode t && hdrRegion w == r.val
    && (List.range 8).all (fun o => decide (outGive w o ≤ 256))
    && !(hdrSteer w && (t == .mat || t == .iou))
    && rolesLegal w
    && (t != .mat || decide (1 ≤ progBits w 200 0 3 ∧ progBits w 200 0 3 ≤ 4))
    && (t != .mem || memRecordsLegal w)
    && outFmtsLegal t w
    && routesUp s st site w
    && (enabledOut w).all (fun o => (routeOuts w (outRoute w o)).isSome)
  else false

/-- Units passed on a branch, and the unit where it is taken, from a unit that a token of a route reaches: the paths
are followed until no entry names a way on; the fuel bounds their length. -/
def branches (s : State) (cfg : Nat → Option (BitVec 4096)) (route : Nat) : Nat → Nat → List Nat → List (List Nat)
  | 0, _, _ => []
  | fuel + 1, k, path =>
    match (cfg k).bind (fun w => routeOuts w route) with
    | none => []
    | some ds =>
      (if ds.contains .loc then [path ++ [k]] else [])
      ++ ([Dir.north, .east, .south, .west].filter (fun d => ds.contains d && !path.contains k)).flatMap (fun d =>
        match hopOf s (keyStall k) (keySite k) d with
        | .unit st site => branches s cfg route fuel (unitKey st site) (path ++ [k])
        | _ => [])

/-- Whether a branch passes through a third region: units between its ends belong to the region of one of them. -/
def thirdRegion (cfg : Nat → Option (BitVec 4096)) (b : List Nat) : Bool :=
  let reg (k : Nat) : Option Nat := (cfg k).map hdrRegion
  match b.head?, b.getLast? with
  | some x, some y => b.any (fun k => reg k != reg x && reg k != reg y)
  | _, _ => false

/-- The units on branches through a third region, once the image is in the slot. -/
def strayUnits (s : State) (st : Stall) (c : Slot) (es : List ImageEntry) : List Nat :=
  let keyOf (e : ImageEntry) : Nat := st.val * 576 + e.site
  let cfg (k : Nat) : Option (BitVec 4096) :=
    match es.find? (fun e => keyOf e == k) with
    | some e => some e.img
    | none => cfgOf (mget s.yard.units {} k) c
  let keys := es.map keyOf ++ s.yard.units.map Prod.fst
  ((keys.eraseDups.flatMap (fun k => match cfg k with
    | some w => ((enabledOut w).map (outRoute w)).eraseDups.flatMap (fun i => branches s cfg i 1024 k [])
    | none => [])).filter (thirdRegion cfg)).flatten

/-- What the loader finds: the entries, or the site of the first failing one (0xFFFF where none is named). -/
def checkImage (s : State) (st : Stall) (r : Region) (c : Slot) (a : Nat) : Except Nat (List ImageEntry) :=
  match readRec s a 64 with
  | none => .error 0xFFFF
  | some h =>
    let n := field h 0 16
    if field h 16 6 ≠ r.val ∨ field h 24 2 ≠ c.val then .error 0xFFFF
    else if rangeCode s (a + 64) (576 * n) ≠ 0 ∨ poisonRange s (a + 64) (576 * n) then .error 0xFFFF
    else
      let es := (List.range n).map (imageEntry s a)
      let stray := strayUnits s st c (es.filter (fun e => decide (e.site < 576)))
      let bad (e : ImageEntry) : Bool := !recordOk s st r e || decide (1 < (es.filter (fun x => x.site == e.site)).length)
        || stray.contains (st.val * 576 + e.site)
      match es.find? bad with
      | some e => .error e.site
      | none => .ok es

/-- Write the records of an image into a slot; units of the region that it does not name have their slot cleared. -/
def writeImage (s : State) (st : Stall) (r : Region) (c : Slot) (es : List ImageEntry) : State :=
  let fresh (u : UnitSt) (w : Option (BitVec 4096)) : UnitSt :=
    { u with
      cfg := match w with | some w => mput u.cfg c.val w | none => mdel u.cfg c.val
      released := mdel u.released c.val, lastTag := mdel u.lastTag c.val, mat := mdel u.mat c.val, halves := u.halves.filter (fun e => e.2.ctx != c), stopped := [], fed := [], lost := [] }
  let others := (s.yard.units.filter (fun e => keyStall e.1 == st && slotRegion e.2 c r
    && !es.any (fun x => x.site == (keySite e.1).val))).map (fun e => keySite e.1)
  let s := each others (fun s site => updUnit s st site (fun u => fresh u none)) s
  each es (fun s e => updUnit s st ⟨e.site % 576, by omega⟩ (fun u => fresh u (some e.img))) s

/-! ### Loads and flushes (03 R90, R91; 16 R463) -/

def ctxReg (st : Stall) : Nat := stallReg st 0x408
def ctxStatus (s : State) (st : Stall) (code : Nat) : State := setF s (ctxReg st) 32 16 code
def loadKey (s : State) (st : Stall) (r : Region) (c : Slot) : Option Nat :=
  (stallLp s st).map (fun p => (p * 64 + r.val) * 4 + c.val)

/-- What the read of a refused image records (03 R80; 01 R36): the memory-area event where the header or an entry is
refused, or the access events of register space. -/
def noteImage (s : State) (st : Stall) (a : Nat) : State :=
  let n := 64 + (match readRec s a 64 with | some h => 576 * field h 0 16 | none => 0)
  let c := rangeCode s a n
  if c ≠ 0 then emit s (srcStall st 0x3F) 0x0381 (refusedAt s a n) c
  else each ((pieces a n).filter (fun q => isReg s q.1)) (fun s q => accessEvent s q.1 q.2 false) s

/-- A load of one slot of one region in one stall, to its end. -/
def contextLoad (s : State) (st : Stall) (r : Region) (c : Slot) (flush hold : Bool) (src : Nat) : State :=
  let active := rgnLoaded s st r c.val && rgnActive s st r == c.val
  let n := laneSum s st r c
  if active ∧ !(rgnHalted s st r ∧ n = 0) then ctxStatus s st 0x0202
  else if n ≠ 0 ∧ !flush then ctxStatus (setF s (rgnReg st r) (6 + c.val) 1 1) st 0x0201
  else
    let s := if n ≠ 0 then flushLane s st r c else s
    match checkImage s st r c src with
    | .error site =>
      let s := noteImage s st src
      let s := emit s (srcStall st 0x3F) 0x0204 site (r.val + c.val * 2 ^ 8)
      endHalt (ctxStatus (setF s (rgnReg st r) (6 + c.val) 1 1) st 0x0204) r
    | .ok es =>
      let s := writeImage s st r c es
      let s := setF (setF s (rgnReg st r) (2 + c.val) 1 1) (rgnReg st r) (6 + c.val) 1 (flag (!hold))
      let s := match loadKey s st r c with
        | some k => onSvc s (fun v => { v with loads := mput v.loads k (BitVec.ofNat 48 src) })
        | none => s
      let s := if active then onYard s (fun y => { y with reloaded := (st.val * 64 + r.val) :: y.reloaded }) else s
      endHalt (ctxStatus s st 0) r

/-- A flush without a load. -/
def flushOnly (s : State) (st : Stall) (r : Region) (c : Slot) : State :=
  if rgnLoaded s st r c.val ∧ rgnActive s st r = c.val ∧ !rgnHalted s st r then ctxStatus s st 0x0202
  else
    let s := flushLane s st r c
    let s := match loadKey s st r c with
      | some k => onSvc s (fun v => { v with loads := mdel v.loads k })
      | none => s
    endHalt (ctxStatus s st 0) r

/-- A write of YRD_CTX_LOAD: its fields are kept, and go runs a load or a flush (03 R100). -/
def ctxLoadWrite (s : State) (st : Stall) (w : Nat) : State :=
  let keep := getF s (ctxReg st) 32 16
  let s := setReg s (ctxReg st) (BitVec.ofNat 64 (field w 0 6 + field w 8 2 * 2 ^ 8 + field w 12 3 * 2 ^ 12 + keep * 2 ^ 32))
  let r : Region := ⟨field w 0 6 % 64, by omega⟩
  let c : Slot := ⟨field w 8 2 % 4, by omega⟩
  if !bitOf w 16 then s
  else if bitOf w 13 then flushOnly s st r c
  else contextLoad s st r c (bitOf w 12) (bitOf w 14) (getF s (stallReg st 0x410) 0 48)

/-- YRD_CTX_OPEN opens a lane that a load held closed. -/
def laneOpen (s : State) (st : Stall) (r : Region) (c : Slot) : State := setF s (rgnReg st r) (6 + c.val) 1 1

def execLaneOpen (st : Stall) (r : Region) (c : Slot) (s : State) : Host.Outcome State Fault Refusal :=
  finish s (laneOpen s st r c)

end Sys2Proof.Machine
end

