-- ==== Sys2Proof/Machine/Watch.lean ====
section
/-! DEFINITION. The progress watch (03 R94–R98): the wait graph of a region, extending a queue, and the refill of an
extension. -/

namespace Sys2Proof.Machine

/-! ### The wait graph (03 R95) -/

/-- An edge of the wait graph: the waiting unit, the unit it waits on, and the full queue it cannot send into. -/
structure WaitEdge where
  src : Nat
  dst : Nat
  queue : Option Nat := none
  deriving DecidableEq, Repr

/-- What a wait chain ends at. -/
inductive ChainEnd where
  | outside | inside
  deriving DecidableEq, Repr

/-- A unit that waits on a gate or a tally is not idle with work (03 R94). -/
def gateWaiting (s : State) (k : Nat) : Bool :=
  siteType (keySite k) == .iou &&
  (brwOf s ⟨⟨(keyStall k).val, by omega⟩, siteBarrow (keySite k)⟩).job.any (fun j => !j.waitMet)

/-- The units of a region that take part: those that do not wait on a sync object. -/
def watched (s : State) (r : Region) : List Nat := (regionUnits s r).filter (fun k => !gateWaiting s k)

def keyUnit (s : State) (k : Nat) : UnitSt := mget s.yard.units {} k
def heldAt (s : State) (k : Nat) (c : Slot) : Nat := heldTokens s (keyStall k) (keySite k) c

/-- Queues of other units that a unit's heads of lane `c` cannot enter. What waits for the unit's own delivery queue waits
for what the unit's inputs lack. -/
def blockedOn (s : State) (k : Nat) (c : Slot) : List WaitEdge :=
  let u := keyUnit s k
  ((headsOf u).filter (fun e => e.2.ctx == c)).flatMap (fun e =>
    (((tokenOuts u e.2).getD []).filter (· != .loc)).filterMap (fun d => match hopOf s (keyStall k) (keySite k) d with
      | .unit st site =>
        let q := queueKey (arriveDir d) e.2.ctx (highPriority e.2)
        if queueRoom (unitOf s st site) q then none else some { src := k, dst := unitKey st site, queue := some q }
      | _ => none))

/-- Inputs of a steering unit that lack tokens of an open iteration: data at input 0, selectors at input 1 (03 R84). -/
def lackedSteer (u : UnitSt) (w : BitVec 4096) (c : Slot) : List Nat :=
  let its := u.steer.filter (fun x => x.slot == c)
  let data (x : SteerIter) : Nat := x.settled + (match entryOf u c 0 x.tag with | some e => e.toks.length | none => 0)
  (if its.any (fun x => decide (data x < inTake w 0)) then [0] else [])
  ++ (if its.any (fun x => decide (x.ctl < ctlNeed w)) then [1] else [])

/-- Inputs of a unit that lack a tag which another of its inputs holds. -/
def lackedInputs (u : UnitSt) (w : BitVec 4096) (c : Slot) : List Nat :=
  if hdrSteer w then lackedSteer u w c else
  let tags := ((enabledIn w).flatMap (fun i => (entriesOf u c i).map (·.tag))).eraseDups
  (enabledIn w).filter (fun i => tags.any (fun t => match entryOf u c i t with
    | some e => decide (e.toks.length < inTake w i)
    | none => true))

/-- Units whose outputs feed an input of a unit in a slot. -/
def feeders (s : State) (c : Slot) (k i : Nat) : List Nat :=
  (s.yard.units.map Prod.fst).filter (fun p => match cfgOf (keyUnit s p) c with
    | some w => (enabledOut w).any (fun o => (outInp w o).val == i &&
        (branches s (fun x => cfgOf (keyUnit s x) c) (outRoute w o) 1024 p []).any (fun b => b.getLast? == some k))
    | none => false)

/-- What a unit waits for: edges to other units of its region, and where its chains end. -/
def waitsOf (s : State) (r : Region) (c : Slot) (k : Nat) : List WaitEdge × List ChainEnd :=
  let u := keyUnit s k
  let full := blockedOn s k c
  let inReg (x : Nat) : Bool := slotRegion (keyUnit s x) c r
  match cfgOf u c with
  | none => (full, [])
  | some w =>
    let lack := (lackedInputs u w c).map (fun i => feeders s c k i)
    let edges := full.filter (fun e => inReg e.dst) ++ lack.flatMap (fun l => (l.filter inReg).map (fun p => { src := k, dst := p }))
    let ends := (full.filter (fun e => !inReg e.dst)).map (fun _ => ChainEnd.outside)
      ++ lack.flatMap (fun l => if l = [] then [ChainEnd.inside] else if l.any inReg then [] else [.outside])
    (edges, ends)

/-- Units reached from some units along edges; the fuel is the number of units. -/
def reached (es : List WaitEdge) : Nat → List Nat → List Nat
  | 0, l => l
  | n + 1, l => reached es n (l ++ ((es.filter (fun e => l.contains e.src)).map (·.dst)).filter (fun k => !l.contains k)).eraseDups

/-- The delivery queues of a unit that are full, in lane `c`. -/
def ownFull (s : State) (k : Nat) (c : Slot) : List (Nat × Nat) :=
  ([false, true].map (queueKey .loc c)).filterMap (fun q => if queueRoom (keyUnit s k) q then none else some (k, q))

/-- Capacity of a queue with its extension. -/
def capacityOf (s : State) (k q : Nat) : Nat := 4 + (match extOf (keyUnit s k) q with | some e => 64 * e.blocks.length | none => 0)

/-- The full queue of smallest capacity, the lower site index on a tie. -/
def smallest (s : State) (l : List (Nat × Nat)) : Option (Nat × Nat) :=
  l.foldl (fun best e => match best with
    | none => some e
    | some b =>
      let x := capacityOf s e.1 e.2
      let y := capacityOf s b.1 b.2
      if x < y ∨ (x = y ∧ (keySite e.1).val < (keySite b.1).val) then some e else some b) none

/-! ### Outcomes (03 R95, R97, R98) -/

/-- A queue as an event argument names it (03 R99, R103). -/
def queueArg (site : Site) (q : Nat) : Nat := site.val + (q / 8) * 2 ^ 10 + (queueLane q) * 2 ^ 16 + (q % 2) * 2 ^ 18

def watchOutcome (s : State) (st : Stall) (code : Nat) : State := setF s (stallReg st 0x430) 32 16 code

/-- Extend a queue by one block, or halt the region. -/
def extendQueue (s : State) (h : Stall) (r : Region) (k q : Nat) : State :=
  if getF s (stallReg h 0x428) 9 1 = 0 ∨ spillTotal s r ≤ spillUsed s r then watchOutcome (haltRegion s r 0x0207) h 0x0207
  else
    let u := keyUnit s k
    let e := (extOf u q).getD { blocks := [] }
    let e := { e with blocks := e.blocks ++ freshNumbers (blocksUsed s r) 1 }
    let s := putUnit s (keyStall k) (keySite k) { u with exts := mput u.exts q e }
    let s := emit s (srcIsland (keyStall k) (keySite k)) 0x0284 (queueArg (keySite k) q) e.blocks.length
    rearm (watchOutcome (satF s (stallReg h 0x430) 0 16 1) h 0x0284) r

/-- The window in ns: 2^win cycles of 1.8 GHz. -/
def watchWindow (s : State) (h : Stall) : Nat := 2 ^ getF s (stallReg h 0x428) 0 5 * 5 / 9

/-- The region holds tokens of its active context and has not fired in it for the window. -/
def watchDue (s : State) (h : Stall) (r : Region) (c : Slot) : Bool :=
  decide (getF s (stallReg h 0x428) 8 1 = 1) && !rgnHalted s h r
  && (watched s r).any (fun k => laneMember (keyUnit s k) c r && decide (0 < heldAt s k c))
  && decide (mget s.yard.lastFire 0 r.val + watchWindow s h ≤ s.time)

def progressWatch (s : State) (r : Region) : State :=
  match regionHome s r with
  | none => s
  | some h =>
    let c : Slot := ⟨rgnActive s h r % 4, by omega⟩
    if !watchDue s h r c then s else
    let us := (watched s r).filter (fun k => slotRegion (keyUnit s k) c r)
    let ws := us.map (waitsOf s r c)
    let es := ws.flatMap Prod.fst
    let ends := ws.flatMap Prod.snd
    let onCycle (e : WaitEdge) : Bool := (reached es us.length [e.dst]).contains e.src
    let cyc := es.filter onCycle
    match smallest s (cyc.filterMap (fun e => e.queue.map (fun q => (e.dst, q))) ++ cyc.flatMap (fun e => ownFull s e.src c)) with
    | some (k, q) => extendQueue s h r k q
    | none =>
      -- a chain that ends at a unit of the region without a token of the context ends inside it; a barrow is outside
      let dry (k : Nat) : Bool := heldAt s k c == 0 && siteType (keySite k) != .iou
        && !((cfgOf (keyUnit s k) c).any hdrSource)
      if cyc ≠ [] ∨ ends.contains .inside ∨ es.any (fun e => dry e.dst) then watchOutcome (haltRegion s r 0x0208) h 0x0208
      else
        let first := (us.find? (fun k => decide (0 < heldAt s k c))).getD 0
        rearm (watchOutcome (emit s (srcStall h 0x3F) 0x0287 (keySite first).val 0) h 0x0287) r

def execProgressWatchExpiry (r : Region) (s : State) : Host.Outcome State Fault Refusal :=
  finish s (progressWatch s r)

/-! ### Refill (03 R96) -/

/-- The head record is read and its tokens pass into free physical entries; an emptied extension gives its blocks back. -/
def extensionRefill (s : State) (st : Stall) (site : Site) (d : Dir) (lane : Slot) (high : Bool) : State :=
  let u := unitOf s st site
  let q := queueKey d lane high
  match extOf u q with
  | none => s
  | some e =>
    if extCount e = 0 then s else
    let e := loadHead s (unitRegion u lane) e
    let n := 4 - (queueOf u q).length
    let u := setQueue u q (queueOf u q ++ e.head.take n)
    let left := { e with head := e.head.drop n }
    if extCount left = 0 then
      emit (putUnit s st site { u with exts := mdel u.exts q }) (srcIsland st site) 0x0285 (queueArg site q) 0
    else putUnit s st site { u with exts := mput u.exts q left }

def execExtensionRefill (st : Stall) (site : Site) (dir : Dir) (lane : Slot) (high : Bool) (s : State) :
    Host.Outcome State Fault Refusal :=
  finish s (extensionRefill s st site dir lane high)

end Sys2Proof.Machine
end

