-- ==== Sys2Proof/Machine/Pools.lean ====
section
/-! DEFINITION. Claimers (06 R191–R194, R196): the pools of a claimer's list, taking and quitting, feeding a claimed tile's
operands, and completing a claim. -/

namespace Sys2Proof.Machine

/-! ### Pool descriptors (06 R191, R192) -/

def poolASrc (w : Nat) : Nat := field w 208 48
def poolLegal (w : Nat) : Bool :=
  decide (field w 0 32 < 2 ^ 31) && decide (1 ≤ field w 32 8 ∧ field w 32 8 ≤ 64) && decide (1 ≤ field w 40 16)
  && field w 56 8 == 0 && field w 400 624 == 0

/-- A tensor's dimension that runs along the reduction: X or Xᵀ by its sizes. The token extent is that of b_src. -/
def kAxis (t : Tensor) (bigK : Nat) : Nat := if sizeAt t 0 = bigK ∧ sizeAt t 1 ≠ bigK then 0 else 1

/-- The operands of a pool: A, its K axis, B (N by K), and the extents M, N and K. -/
structure PoolOps where
  a : Tensor
  b : Tensor
  ka : Nat
  bigM : Nat
  bigN : Nat
  bigK : Nat
  deriving DecidableEq, Repr

def poolOps (s : State) (w : Nat) : Option PoolOps :=
  match readTensor s (poolASrc w) .source, readTensor s (field w 256 48) .source with
  | .ok a, .ok b =>
    let a := resolved s a
    let b := resolved s b
    let k := sizeAt b 1
    let ka := kAxis a k
    some { a := a, b := b, ka := ka, bigM := sizeAt a (1 - ka), bigN := sizeAt b 0, bigK := k }
  | _, _ => none

/-! ### Claimers (06 R193) -/

/-- The GRW instruction of a MAT's program in a slot. -/
def grwOf (u : UnitSt) (c : Slot) : Option Nat :=
  (cfgOf u c).bind (fun w => ((List.range (progBits w 200 0 3)).map (matInstr w)).find? (fun r => miOp r == 3))

/-- MATs in a slot that a unit's outputs reach and whose programs hold a GRW instruction. -/
def fedMats (s : State) (st : Stall) (site : Site) (c : Slot) : List Nat :=
  match cfgOf (unitOf s st site) c with
  | none => []
  | some w =>
    (((enabledOut w).flatMap (fun o => (branches s (fun x => cfgOf (keyUnit s x) c) (outRoute w o) 1024 (unitKey st site) []).filterMap
      (fun b => b.getLast?))).eraseDups.filter (fun k => siteType (keySite k) == .mat && (grwOf (keyUnit s k) c).isSome)).take 8

/-- The output of a claimer that reaches an input of a MAT. -/
def outputTo (s : State) (st : Stall) (site : Site) (c : Slot) (w : BitVec 4096) (mat i : Nat) : Option Nat :=
  (enabledOut w).find? (fun o => (outInp w o).val == i &&
    (branches s (fun x => cfgOf (keyUnit s x) c) (outRoute w o) 1024 (unitKey st site) []).any (fun b => b.getLast? == some mat))

def claimerKey (st : Stall) (b : Fin 32) : Nat := st.val * 32 + b.val
def claimerOf (s : State) (st : Stall) (b : Fin 32) : Claimer := mget s.claimers {} (claimerKey st b)
def putClaimer (s : State) (st : Stall) (b : Fin 32) (x : Claimer) : State :=
  { s with claimers := mset s.claimers {} (claimerKey st b) x }
def claimerId (st : Stall) (b : Fin 32) : BrwId := ⟨⟨st.val, by omega⟩, b⟩

/-- The fill slot of a region (06 R204). -/
def fillSlot (s : State) (r : Region) : Slot :=
  match seqReg s r 0xC00 with
  | some a => ⟨getF s a 4 2 % 4, by omega⟩
  | none => 3

/-- The region whose fill slot an IOU's configuration belongs to, when it feeds GRW programs there. -/
def claimerRegion (s : State) (st : Stall) (b : Fin 32) : Option (Region × Slot) :=
  let site := iouSite b
  let u := unitOf s st site
  (([0, 1, 2, 3] : List Slot).map (fun c => (unitRegion u c, c))).findSome? (fun e => match e.1 with
    | some r => if fillSlot s r = e.2 ∧ fedMats s st site e.2 ≠ [] then some (r, e.2) else none
    | none => none)

/-- The claimers of a region. -/
def regionClaimers (s : State) (r : Region) : List (Stall × Fin 32) :=
  ((regionUnits s r).filter (fun k => siteType (keySite k) == .iou)).filterMap (fun k =>
    let b := siteBarrow (keySite k)
    match claimerRegion s (keyStall k) b with
    | some (q, _) => if q = r then some (keyStall k, b) else none
    | none => none)

/-- The pools of a list, first to last; the fuel bounds a list that never ends. -/
def poolChain (s : State) : Nat → Nat → List Nat
  | 0, _ => []
  | n + 1, a => if a = 0 then [] else match readRec s a 128 with
    | none => [a]
    | some w => a :: poolChain s n (field w 352 48)

/-- The list of a claimer: its program names the first pool (the model's choice: the spec gives the list no place). -/
def claimerList (s : State) (st : Stall) (b : Fin 32) (c : Slot) : List Nat :=
  match cfgOf (unitOf s st (iouSite b)) c with
  | some w => poolChain s 4096 (ilList w)
  | none => []

/-- Whether a claimer has quit every pool of its list. -/
def quitAll (s : State) (st : Stall) (b : Fin 32) : Bool :=
  let x := claimerOf s st b
  match claimerRegion s st b with
  | none => true
  | some (_, c) => if x.opened then x.pools.isEmpty else (claimerList s st b c).isEmpty

/-- An operation of a claimer whose reply it does not wait for. -/
def claimerOp (s : State) (st : Stall) (b : Fin 32) (op : SyncOp) (r : Sref) (n : BitVec 32) : State :=
  syncCore s (.claimer (claimerId st b)) false (srcIsland st (iouSite b)) op r n

/-- T and the tile shape fit the operands and the GRW instruction (06 R192). -/
def poolFits (w : Nat) (o : PoolOps) (instr : Nat) : Bool :=
  let m := field w 304 8
  let n := field w 312 8
  m != 0 && n != 0 && miM instr == m && miN instr == n && miSlots instr == field w 0 32
  && field w 0 32 == ceilDiv o.bigM m * ceilDiv o.bigN n * field w 32 8

/-- Read a claimer's list: a pool that fails its checks is quit at once and recorded. -/
def openList (s : State) (st : Stall) (b : Fin 32) (c : Slot) (instr : Nat) : State :=
  let l := claimerList s st b c
  let good (a : Nat) : Bool := match readRec s a 128 with
    | some w => poolLegal w && (match poolOps s w with | some o => poolFits w o instr | none => false)
    | none => false
  let s := each (l.filter (fun a => !good a)) (fun s a =>
    let s := emit s (srcIsland st (iouSite b)) 0x0216 a 0
    match readRec s a 128 with
    | some w => claimerOp s st b .arrive (BitVec.ofNat 24 (field w 136 24)) 0
    | none => s) s
  putClaimer s st b { claimerOf s st b with opened := true, pools := (l.filter good).map (BitVec.ofNat 48) }

/-! ### Operand sets of a claimed tile (06 R192, R193) -/

/-- Value codes and scales of `lines` lines of `k` values, K running along `kd`; beyond the extents all is zero. -/
def operandLines (s : State) (t : Tensor) (kd line0 lines k0 k ext kEnd : Nat) : List Nat × List Nat × Bool :=
  let zero : Elem := { code := 0, val := vZero, scale := 0x7F }
  let el (l x : Nat) : Elem :=
    if line0 + l < ext ∧ k0 + x < kEnd then
      (memElem s [] t (if kd = 0 then [k0 + x, line0 + l] else [line0 + l, k0 + x])).getD { zero with poison := true }
    else zero
  let es := (List.range lines).map (fun l => (List.range k).map (el l))
  let bad := es.any (fun l => l.any (·.poison))
  if t.bale = 0 then (es.flatMap (fun l => l.map (·.code)), [], bad)
  else if t.baxis = kd then
    (es.flatMap (fun l => l.map (·.code)),
     es.flatMap (fun l => (chunk t.bale l).map (fun r => (r.head?.map (·.scale)).getD 0x7F)), bad)
  else
    let runs := es.flatMap (fun l => (chunk t.bale l).map (fun r => convBale t.fmt t.sfmt t.sat (r.map (·.val))))
    (runs.flatMap (·.codes), runs.map (·.scale), bad)

/-- Send tokens of a claim to an input of its MAT. -/
def feedInput (s : State) (st : Stall) (site : Site) (c : Slot) (mat i : Nat) (tag : BitVec 16) (kind : TokenKind) (fmt : Nat)
    (poison : Bool) (pay : List (BitVec 512)) : State :=
  let u := unitOf s st site
  match cfgOf u c with
  | none => s
  | some w => match outputTo s st site c w mat i with
    | none => s
    | some o => putUnit s st site (pushOut u c o (pay.map (fun p =>
        { outToken w c tag o with kind := kind, fmt := BitVec.ofNat 4 fmt, payload := p, poison := poison })))

/-- Send the claim token and the operand sets of tile `i` of a pool. -/
def feedTile (s : State) (st : Stall) (b : Fin 32) (c : Slot) (mat : Nat) (tag : BitVec 16) (w : Nat) (o : PoolOps) (instr i : Nat) : State :=
  let site := iouSite b
  let m := field w 304 8
  let n := field w 312 8
  let kc := field w 320 32
  let chunks := field w 32 8
  let k := miK instr
  let row0 := i / chunks / ceilDiv o.bigN n * m
  let col0 := i / chunks % ceilDiv o.bigN n * n
  let k0 := i % chunks * kc
  let kEnd := min o.bigK (k0 + kc)
  let s := feedInput s st site c mat 5 tag .control 0 false [BitVec.ofNat 512 i]
  each (List.range (if k = 0 then 0 else ceilDiv kc k)) (fun s j =>
    let (ac, asc, abad) := operandLines s o.a o.ka row0 m (k0 + j * k) k o.bigM kEnd
    let (bc, bsc, bbad) := operandLines s o.b 1 col0 n (k0 + j * k) k o.bigN kEnd
    let s := feedInput s st site c mat 0 tag .data o.a.fmt abad (tokensOf (packBytes (fmtBits o.a.fmt) ac))
    let s := feedInput s st site c mat 1 tag .data o.b.fmt bbad (tokensOf (packBytes (fmtBits o.b.fmt) bc))
    let s := feedInput s st site c mat 2 tag .data o.a.sfmt abad (tokensOf (packBytes 8 asc))
    feedInput s st site c mat 3 tag .data o.b.sfmt bbad (tokensOf (packBytes 8 bsc))) s

/-! ### CLAIM and CLAIM_COMPLETE -/

/-- A claim has started when its MAT has latched the instruction for its tag. -/
def claimStarted (s : State) (c : Slot) (st : Stall) (x : Claim) : Bool :=
  match mfind (unitOf s st x.site).mat c.val with
  | some p => p.tag == x.tag && p.issue.isSome
  | none => x.met

/-- One pass over the open pools in list order (06 R193): each is skipped, quit, or gives a claim. -/
def claimFrom (s : State) (st : Stall) (b : Fin 32) (c : Slot) (mat instr : Nat) : List Addr → State
  | [] => s
  | p :: t =>
    match readRec s p.toNat 128 with
    | none => claimFrom s st b c mat instr t
    | some w =>
      let r (lo : Nat) : Sref := BitVec.ofNat 24 (field w lo 24)
      let tiles := field w 0 32
      let i := tallyValue s (r 64)
      if i < tiles ∧ tallyValue s (r 88) ≤ i then claimFrom s st b c mat instr t
      else
        let s := claimerOp s st b .add (r 64) 1
        if tiles ≤ i then
          let s := claimerOp s st b .arrive (r 136) 0
          let x := claimerOf s st b
          claimFrom (putClaimer s st b { x with pools := x.pools.filter (· ≠ p) }) st b c mat instr t
        else
          let x := claimerOf s st b
          let s := putClaimer s st b { x with
            claims := x.claims ++ [{ pool := p, index := BitVec.ofNat 32 i, site := keySite mat, tag := x.nextTag }], nextTag := x.nextTag + 1 }
          let s := match poolOps s w with
            | some o => feedTile s st b c mat x.nextTag w o instr i
            | none => s
          syncOp s (.claimer (claimerId st b)) .take (miSref instr) 1

def claim (s : State) (st : Stall) (b : Fin 32) : State :=
  match claimerRegion s st b with
  | none => s
  | some (r, c) =>
    let u := unitOf s st (iouSite b)
    if u.active ≠ c ∨ !unitGo s st u c ∨ !(regionHome s r).any (fun h => rgnActive s h r == c.val) then s else
    let mats := fedMats s st (iouSite b) c
    let x := claimerOf s st b
    let free := mats.find? (fun k => !x.claims.any (fun y => unitKey st y.site == k && !claimStarted s c st y))
    match free, mats.head? with
    | some mat, some first =>
      let instr := (grwOf (keyUnit s mat) c).getD 0
      let s := if x.opened then s else openList s st b c ((grwOf (keyUnit s first) c).getD 0)
      claimFrom s st b c mat instr (claimerOf s st b).pools
    | _, _ => s

def execClaim (st : Stall) (b : Fin 32) (s : State) : Host.Outcome State Fault Refusal := finish s (claim s st b)

/-- The release of a claimer's TAKE: its oldest claim not yet met is met. -/
def claimerWoken (s : State) (st : Stall) (b : Fin 32) (status : Nat) : State :=
  let x := claimerOf s st b
  if status ≠ 0 then s else
  match x.claims.span (·.met) with
  | (l, y :: t) => putClaimer s st b { x with claims := l ++ { y with met := true } :: t }
  | (_, []) => s

/-- The oldest claim's TAKE is met: 1 is added to its pool's done tally. Held while the fill slot is not active. -/
def claimComplete (s : State) (st : Stall) (b : Fin 32) : State :=
  let x := claimerOf s st b
  match claimerRegion s st b, x.claims with
  | some (_, c), y :: t =>
    if !y.met ∨ (unitOf s st (iouSite b)).active ≠ c then s else
    let s := putClaimer s st b { x with claims := t }
    match readRec s y.pool.toNat 128 with
    | some w => claimerOp s st b .add (BitVec.ofNat 24 (field w 112 24)) 1
    | none => s
  | _, _ => s

def execClaimComplete (st : Stall) (b : Fin 32) (s : State) : Host.Outcome State Fault Refusal :=
  finish s (claimComplete s st b)

end Sys2Proof.Machine
end

