-- ==== Sys2Proof/Machine/Sequencer.lean ====
section
/-! DEFINITION. Region sequencers (06 R182–R189, R200, R203–R205): schedule entries, waits and fill, the operations, the
map, and the control register. -/

namespace Sys2Proof.Machine

/-! ### Schedule entries (06 R183, R184) -/

abbrev Sched := BitVec 256
def seOp (e : Sched) : Nat := recBits e 0 4
def seSlot (e : Sched) : Slot := ⟨recBits e 4 2 % 4, by omega⟩
def seFill (e : Sched) : Bool := recBits e 6 1 = 1
def seStepEnd (e : Sched) : Bool := recBits e 7 1 = 1
def seIters (e : Sched) : Nat := recBits e 32 16
def seTbase (e : Sched) : Nat := recBits e 48 16
def seObj (e : Sched) (i : Nat) : Sref := BitVec.ofNat 24 (recBits e (64 + 24 * i) 24)
/-- Kinds of wait_a, wait_b, done and post. -/
def seKind (e : Sched) (i : Nat) : Nat := recBits e (160 + 2 * i) 2
def seNa (e : Sched) : Nat := recBits e 168 16
def seNd (e : Sched) : Nat := recBits e 184 16
def seArg (e : Sched) : Nat := recBits e 200 48

def schedLegal (e : Sched) : Bool :=
  decide (seOp e ≤ 6) && seKind e 3 != 3 && recBits e 10 6 == 0 && recBits e 248 8 == 0
  && !((decide (2 ≤ seKind e 0) || decide (2 ≤ seKind e 1)) && seNa e == 0)
  && !(decide (2 ≤ seKind e 2) && seNd e == 0)

/-! ### State and registers -/

def seqOf (s : State) (r : Region) : SeqSt := mget s.seqs {} r.val
def putSeq (s : State) (r : Region) (q : SeqSt) : State := { s with seqs := mset s.seqs {} r.val q }
def updSeq (s : State) (r : Region) (f : SeqSt → SeqSt) : State := putSeq s r (f (seqOf s r))

/-- A running sequencer. -/
def seqLive (q : SeqSt) : Bool := q.phase != .idle && q.phase != .stopped && q.phase != .halted

/-- Fields of a sequencer register in the region's home stall. -/
def seqGet (s : State) (r : Region) (off lo len : Nat) : Nat :=
  match seqReg s r off with
  | some a => getF s a lo len
  | none => 0
def seqSet (s : State) (r : Region) (off lo len v : Nat) : State :=
  match seqReg s r off with
  | some a => setF s a lo len v
  | none => s
def seqEntry (s : State) (r : Region) : Nat := seqGet s r 0xE00 0 16

/-- Count the cycles of a wait up to now: with fill, or without (06 R187). -/
def seqCount (s : State) (r : Region) : State :=
  let q := seqOf s r
  let n := (s.time - q.counted) * 9 / 5
  let add (off : Nat) : State := match seqReg s r off with | some a => satF s a 0 48 n | none => s
  let s := match q.phase with
    | .waiting => if q.entry.isNone then s else add (if q.held then 0x1000 else 0x1200)
    | .draining => add (if q.held then 0x1000 else 0x1200)
    | .mapping => add 0x1200
    | _ => s
  updSeq s r (fun q => { q with counted := s.time })

/-- The sequencer stops with a status (06 R189). -/
def seqStop (s : State) (r : Region) (code : Nat) : State :=
  let s := seqCount s r
  let s := updSeq s r (fun q => { q with phase := .stopped, stopReq := false, mapLeft := [] })
  let s := seqSet s r 0xE00 32 16 code
  emit s (regionSource s r) 0x028F code (r.val + seqEntry s r * 2 ^ 16)

/-- Go on to an entry: held there by a stop, or stopped when it lies past the table. -/
def nextEntry (s : State) (r : Region) (idx : Nat) : State :=
  let s := seqCount s r
  let q := seqOf s r
  let s := seqSet s r 0xE00 0 16 idx
  let clear : SeqSt := { phase := .waiting, since := s.time, counted := s.time, back := q.back, ahead := q.ahead, batch := q.batch }
  if q.stopReq then putSeq s r { clear with phase := .stopped }
  else if seqGet s r 0xA00 48 16 < idx then seqStop (putSeq s r clear) r 0x0212
  else putSeq s r clear

/-- A replayed region has passed its step_end entry; the replay ends with the last one (16 R465). -/
def replayPassed (s : State) (r : Region) : State :=
  match s.svc.replay with
  | none => s
  | some x =>
    let left := x.regions.filter (fun q => q != r)
    if left = [] then
      emit (onSvc s (fun v => { v with replay := none })) (srcGroom s) 0x0B85 x.dups ((s.time - x.started) / 1000)
    else onSvc s (fun v => { v with replay := some { x with regions := left } })

/-- A window is reread when its region passes a step_end entry (10 R314). -/
def windowReread (s : State) (r : Region) : State :=
  let s := putWin s r { left := (winOf s r).left }
  match regionHome s r with
  | some st => setF s (stallReg st (0x1800 + 8 * r.val)) 0 16 0
  | none => s

/-- Post, close the step if the entry ends it, and go on (06 R185 step 7). -/
def completeEntry (s : State) (r : Region) (e : Sched) (next : Nat) : State :=
  let a : Agent := .seq r 2
  let s := match seKind e 3 with
    | 1 => syncCore s a false (regionSource s r) .arrive (seObj e 3) 0
    | 2 => syncCore s a false (regionSource s r) .add (seObj e 3) 1
    | _ => s
  let s :=
    if seStepEnd e then
      let n := (seqGet s r 0xE00 48 16 + 1) % 2 ^ 16
      let s := seqSet s r 0xE00 48 16 n
      let s := seqSet (seqSet s r 0x1400 0 16 next) r 0x1400 16 1 0
      let s := each (regionClaimers s r) (fun s k => putClaimer s k.1 k.2 { claimerOf s k.1 k.2 with opened := false, pools := [] }) s
      replayPassed (windowReread (emit s (regionSource s r) 0x028C n r.val) r) r
    else s
  nextEntry s r next

/-! ### Waits, fill and slots -/

/-- Register a wait of an entry; kind 0 is met at once. -/
def regWait (s : State) (r : Region) (which : Fin 3) (kind : Nat) (obj : Sref) (n : Nat) : State :=
  match kind with
  | 0 => s
  | 1 => syncOp s (.seq r which) .arriveWait obj 0
  | 2 => syncOp s (.seq r which) .take obj (BitVec.ofNat 32 n)
  | _ => syncOp s (.seq r which) .waitGe obj (BitVec.ofNat 32 n)

/-- Whether a slot is loaded in every member stall. -/
def slotLoaded (s : State) (r : Region) (c : Slot) : Bool := (regionStalls s r).all (fun st => rgnLoaded s st r c.val)

/-- Request a slot in every member stall. -/
def requestSlot (s : State) (r : Region) (c : Slot) : State := each (regionStalls s r) (fun s st => contextSwitch s st r c) s

/-- Whether a region may fill while an entry of its sequencer waits (06 R185 step 3, R189). -/
def mayFill (s : State) (r : Region) (e : Sched) : Bool :=
  let c := fillSlot s r
  seFill e && seqGet s r 0xC00 6 1 == 1 && slotLoaded s r c && !(seOp e == 1 && seSlot e == c)

/-- The region goes to its fill slot; the slot it leaves is kept. -/
def enterFill (s : State) (r : Region) : State :=
  let s := seqCount s r
  let q := seqOf s r
  let now : Option Slot := (regionHome s r).map (fun st => ⟨rgnActive s st r % 4, by omega⟩)
  updSeq (requestSlot s r (fillSlot s r)) r (fun x => { x with held := true, back := q.back.or now })

/-- The region leaves its fill slot (06 R187). The spec names no slot to go to where the entry switches to none: the model
returns to the slot that the region left (DESIGN CHOICE, log entry 129). -/
def leaveFill (s : State) (r : Region) : State :=
  let s := seqCount s r
  match (seqOf s r).back with
  | none => s
  | some b => updSeq (if slotLoaded s r b then requestSlot s r b else s) r (fun q => { q with held := false, back := none })

/-- Fill follows the wait under way: begun, or left, as long as a wait of the entry is unreleased (06 R185 step 3, R187), and
held by a DRAIN from when the fill slot is loaded in every member stall (06 R189). -/
def seqFill (s : State) (r : Region) : State :=
  let q := seqOf s r
  match q.phase, q.entry with
  | .waiting, some e =>
    if q.metA && q.metB then s
    else if mayFill s r e then enterFill s r
    else leaveFill s r
  | .draining, some _ => if slotLoaded s r (fillSlot s r) then enterFill s r else s
  | _, _ => s

/-- Every sequencer tests its fill again, after a load. -/
def seqsFill (s : State) : State := each (s.seqs.map (fun e => (⟨e.1 % 64, by omega⟩ : Region))) seqFill s

def entryAddr (s : State) (r : Region) (idx : Nat) : Nat := seqGet s r 0xA00 0 48 + 32 * idx

/-- The words of the current entry: read ahead, or now. -/
def entryWords (s : State) (r : Region) : Option Nat :=
  match (seqOf s r).ahead with
  | some (i, w) => if i = seqEntry s r then w else readRec s (entryAddr s r (seqEntry s r)) 32
  | none => readRec s (entryAddr s r (seqEntry s r)) 32

/-- The entry after `e` is read ahead, unless there is none in the table. -/
def readAhead (s : State) (r : Region) (e : Sched) : State :=
  let next := if seOp e = 5 then seArg e % 2 ^ 16 else seqEntry s r + 1
  let x := if seOp e = 6 ∨ seqGet s r 0xA00 48 16 < next then none else some (next, readRec s (entryAddr s r next) 32)
  updSeq s r (fun q => { q with ahead := x })

/-- The tallies that an entry's waits take. -/
def entryTakes (e : Sched) : List Sref :=
  (if seKind e 0 = 2 then [seObj e 0] else []) ++ (if seKind e 1 = 2 then [seObj e 1] else [])

/-- A RUN that waits again for a tally that the batch under way took ends the batch. -/
def batchAt (q : SeqSt) (e : Sched) : Option (Slot × List Sref) :=
  q.batch.filter (fun b => !(seOp e == 1 && (entryTakes e).any (b.2.contains ·)))

/-- A RUN begins: a batch goes on in its slot, with what the entry took; another slot ends it. -/
def batchRun (q : SeqSt) (e : Sched) : Option (Slot × List Sref) :=
  let old := match q.batch with
    | some b => if b.1 = seSlot e then b.2 else []
    | none => []
  some (seSlot e, (old ++ entryTakes e).eraseDups)

/-- Read the current entry when it is of an operation, and the next one ahead: illegal and unreadable entries stop the
sequencer. -/
def readEntry (s : State) (r : Region) (op : Nat) : State :=
  let q := seqOf s r
  if !seqLive q ∨ q.phase ≠ .waiting ∨ q.entry.isSome ∨ (regionHome s r).isNone ∨ seqGet s r 0xC00 0 1 = 0 then s else
  match entryWords s r with
  | none => seqStop s r 0x0213
  | some w =>
    let e : Sched := BitVec.ofNat 256 w
    if !schedLegal e then seqStop s r 0x0212
    else if seOp e ≠ op then s
    else
      let waits := op != 0 && op != 6
      let s := putSeq s r { q with entry := some e, since := s.time, counted := s.time, waitEvent := false, batch := batchAt q e
                                   metA := !waits || seKind e 0 == 0, metB := !waits || seKind e 1 == 0 }
      let s := readAhead s r e
      if !waits then s else
      let s := regWait s r 0 (seKind e 0) (seObj e 0) (seNa e)
      let s := regWait s r 1 (seKind e 1) (seObj e 1) (seNa e)
      seqFill s r

/-- The entry under way, when it is of an operation and its waits are met. -/
def waited (s : State) (r : Region) (op : Nat) : Option Sched :=
  let q := seqOf s r
  match q.entry with
  | some e => if seqLive q && seOp e == op && q.metA && q.metB then some e else none
  | none => none

/-- Ask for the done object. -/
def askDone (s : State) (r : Region) (e : Sched) : State :=
  let s := updSeq s r (fun q => { q with asked := true, metDone := seKind e 2 == 0 })
  regWait s r 2 (seKind e 2) (seObj e 2) (seNd e)

/-- A reply or release to a sequencer; a wait that is refused stops it with the status (the model's choice). -/
def seqWoken (s : State) (r : Region) (which : Fin 3) (status : Nat) : State :=
  let q := seqOf s r
  if !seqLive q then s
  else if status ≠ 0 then seqStop s r status
  else match which with
    | 0 => putSeq s r { q with metA := true }
    | 1 => putSeq s r { q with metB := true }
    | _ => if q.asked then putSeq s r { q with metDone := true } else s

def execContextLoad (st : Stall) (w : Word) (s : State) : Host.Outcome State Fault Refusal :=
  finish s (seqsFill (ctxLoadWrite s st w.toNat))

def execFlushOnly (st : Stall) (w : Word) (s : State) : Host.Outcome State Fault Refusal :=
  finish s (ctxLoadWrite s st w.toNat)

/-! ### RUN (06 R185) -/

/-- With every member stall switched, the tags go to the source units and done is asked for (step 5). -/
def seqSwitched (s : State) (r : Region) : State :=
  let q := seqOf s r
  match q.entry with
  | none => s
  | some e =>
    if q.phase ≠ .running ∨ q.asked ∨ seOp e ≠ 1 ∨ !((regionStalls s r).all (fun st => !switchingOf s st r)) then s else
    let c := seSlot e
    let tags := (List.range (seIters e)).map (fun i => BitVec.ofNat 16 (seTbase e + i))
    let sources := (regionUnits s r).filter (fun k => slotRegion (keyUnit s k) c r && (cfgOf (keyUnit s k) c).any hdrSource)
    let s := each sources (fun s k => updUnit s (keyStall k) (keySite k) (fun u =>
      { u with released := mupd u.released [] c.val (· ++ tags), fed := [] })) s
    askDone s r e

/-- A unit switches; the last one of a region lets its sequencer go on. -/
def execUnitSwitch (st : Stall) (site : Site) (s : State) : Host.Outcome State Fault Refusal :=
  finish s (
    let u := unitOf s st site
    let r := match u.pendSwitch with | some c => unitRegion u c | none => none
    let s := unitSwitch s st site
    match r with
    | some r => seqSwitched s r
    | none => s)

def execSeqNop (r : Region) (s : State) : Host.Outcome State Fault Refusal :=
  finish s (
    let s := readEntry s r 0
    match waited s r 0 with
    | some e => completeEntry s r e (seqEntry s r + 1)
    | none => s)

def execSeqRun (r : Region) (s : State) : Host.Outcome State Fault Refusal := finish s (readEntry s r 1)

def waitsMet (s : State) (r : Region) : State :=
  match waited s r 1 with
  | none => s
  | some e =>
    if (seqOf s r).phase ≠ .waiting then s else
    let s := seqCount s r
    let ok := slotLoaded s r (seSlot e)
    let s := requestSlot s r (seSlot e)
    if !ok then seqStop s r 0x0203
    else seqSwitched (updSeq s r (fun q => { q with phase := .running, since := s.time, held := false, back := none, batch := batchRun q e })) r

def execSeqWaitsMet (r : Region) (s : State) : Host.Outcome State Fault Refusal := finish s (waitsMet s r)

def execSeqDoneMet (r : Region) (s : State) : Host.Outcome State Fault Refusal :=
  finish s (
    match waited s r 1 with
    | none => s
    | some e =>
      let q := seqOf s r
      if q.phase = .running ∧ q.asked ∧ q.metDone then completeEntry s r e (seqEntry s r + 1) else s)

/-! ### DRAIN, ADVANCE, JUMP, END (06 R186) -/

/-- DRAIN holds the region in its fill slot until done is met, or every claimer has quit every pool of its list; where that
slot is not loaded in every member stall it waits without filling (06 R186, R189). -/
def seqDrain (s : State) (r : Region) : State :=
  let s := readEntry s r 2
  match waited s r 2 with
  | none => s
  | some e =>
    let s := if (seqOf s r).phase = .waiting then
        let s := seqCount s r
        let s := updSeq s r (fun q => { q with phase := .draining, since := s.time, held := false })
        askDone (seqFill s r) r e
      else s
    let q := seqOf s r
    if q.metDone && (seKind e 2 != 0 || (regionClaimers s r).all (fun k => quitAll s k.1 k.2)) then
      completeEntry s r e (seqEntry s r + 1)
    else s

def execSeqDrain (r : Region) (s : State) : Host.Outcome State Fault Refusal := finish s (seqDrain s r)

def seqAdvance (s : State) (r : Region) : State :=
  let s := readEntry s r 4
  match waited s r 4 with
  | none => s
  | some e =>
    if seqGet s r 0x1400 16 1 = 1 then completeEntry s r e (seqEntry s r + 1)
    else
      let s := seqSet (ledgerAdvance s) r 0x1400 16 1 1
      completeEntry s r e (seqEntry s r + 1)

def execSeqAdvance (r : Region) (s : State) : Host.Outcome State Fault Refusal := finish s (seqAdvance s r)

def execSeqJump (r : Region) (s : State) : Host.Outcome State Fault Refusal :=
  finish s (
    let s := readEntry s r 5
    match waited s r 5 with
    | some e => completeEntry s r e (seArg e % 2 ^ 16)
    | none => s)

def execSeqEnd (r : Region) (s : State) : Host.Outcome State Fault Refusal :=
  finish s (
    let s := readEntry s r 6
    match waited s r 6 with
    | some e =>
      let idx := seqEntry s r
      let s := leaveFill (completeEntry s r e idx) r
      seqSet (putSeq s r {}) r 0xC00 0 1 0
    | none => s)

/-! ### MAP (06 R200) -/

def mapWord (rec p : Nat) : Nat := field rec (64 * p) 64

/-- Load one position's image; what the load answers. -/
def mapLoad (s : State) (r : Region) (rec : Nat) (p : Nat) : State × Nat × Option Stall :=
  match lpStall s p with
  | none => (s, 0, none)
  | some st =>
    if s.svc.contLost then (s, 0x0B01, some st) else
    let s := setF s (stallReg st 0x410) 0 48 (field (mapWord rec p) 0 48)
    let s := ctxLoadWrite s st (r.val + field rec 1792 2 * 2 ^ 8 + 2 ^ 16)
    (s, getF s (ctxReg st) 32 16, some st)

/-- Settle a load's answer: occupied stalls are kept for a retry; slot active and image refused stop the sequencer. -/
def mapSettle (s : State) (r : Region) (code : Nat) (st : Option Stall) : State :=
  match code, st with
  | 0, some st => updSeq s r (fun q => { q with mapLeft := q.mapLeft.filter (· ≠ st) })
  | 0x0201, some st => updSeq s r (fun q => { q with mapLeft := if q.mapLeft.contains st then q.mapLeft else q.mapLeft ++ [st] })
  | 0, none => s
  | c, _ => seqStop s r c

/-- With every load done, the flow set is selected and the entry completes. Where the selection is refused (0x0506) the spec
does not say what the sequencer does: the model stops it with that status, as it stops for a refused load (DESIGN CHOICE,
log entry 128). -/
def mapFinish (s : State) (r : Region) (e : Sched) (rec : Nat) : State :=
  let q := seqOf s r
  if q.phase ≠ .mapping ∨ q.mapLeft ≠ [] then s
  else if bitOf rec 1800 then
    let (c, s) := flowSelect s r (field rec 1804 4)
    if c ≠ 0 then seqStop s r c else completeEntry s r e (seqEntry s r + 1)
  else completeEntry s r e (seqEntry s r + 1)

def seqMap (s : State) (r : Region) : State :=
  let s := readEntry s r 3
  match waited s r 3 with
  | none => s
  | some e =>
    if (seqOf s r).phase ≠ .waiting then s else
    let s := leaveFill s r
    match readRec s (seArg e) 256 with
    | none => seqStop s r 0x0213
    | some rec =>
      let s := updSeq s r (fun q => { q with phase := .mapping, mapSince := s.time, mapLeft := [] })
      let s := each (List.range 28) (fun s p =>
        if bitOf (mapWord rec p) 63 ∧ (seqOf s r).phase = .mapping then
          let (s, c, st) := mapLoad s r rec p
          mapSettle s r c st
        else s) s
      mapFinish s r e rec

def execSeqMap (r : Region) (s : State) : Host.Outcome State Fault Refusal := finish s (seqMap s r)

/-- Retry one stall's load; each is retried once a microsecond. -/
def mapRetry (s : State) (r : Region) (st : Stall) : State :=
  let q := seqOf s r
  match q.entry, stallLp s st with
  | some e, some p =>
    if q.phase ≠ .mapping ∨ !q.mapLeft.contains st then s else
    match readRec s (seArg e) 256 with
    | none => seqStop s r 0x0213
    | some rec =>
      let (s, c, x) := mapLoad s r rec p
      mapFinish (mapSettle s r c x) r e rec
  | _, _ => s

def execMapLoadRetry (r : Region) (st : Stall) (s : State) : Host.Outcome State Fault Refusal := finish s (mapRetry s r st)

/-- A load still refused after 10 ms. -/
def execMapStalled (r : Region) (s : State) : Host.Outcome State Fault Refusal :=
  finish s (
    let q := seqOf s r
    if q.phase = .mapping ∧ q.mapLeft ≠ [] ∧ q.mapSince + 10000000 ≤ s.time then seqStop s r 0x0215 else s)

/-! ### Control (06 R204) -/

/-- Start at an entry: a new step begins there. -/
def seqGo (s : State) (r : Region) : State :=
  if seqLive (seqOf s r) then seqSet s r 0xE00 32 16 0x0214
  else
    let start := seqGet s r 0xC00 16 16
    let s := seqSet s r 0xC00 0 1 1
    let s := seqSet (seqSet s r 0x1400 0 16 start) r 0x1400 16 1 0
    let s := each (regionClaimers s r) (fun s k => putClaimer s k.1 k.2 { claimerOf s k.1 k.2 with opened := false, pools := [] }) s
    nextEntry (putSeq s r { back := (seqOf s r).back }) r start

/-- Stop after the current entry. -/
def seqStopReq (s : State) (r : Region) : State :=
  if seqLive (seqOf s r) then updSeq s r (fun q => { q with stopReq := true }) else s

/-- A write of YRD_SEQ_CTL in the region's home stall; in another stall it is ignored. -/
def seqCtlWrite (s : State) (st : Stall) (r : Region) (w : Nat) : State :=
  if regionHome s r ≠ some st then s else
  let keep := setBits (setBits w 1 1 0) 2 1 0
  let mask := 0xFFFF1F79
  let s := setReg s (stallReg st (0xC00 + 8 * r.val)) (BitVec.ofNat 64 (keep &&& mask))
  let s := seqFill s r
  let s := if bitOf w 1 then seqGo s r else s
  if bitOf w 2 then seqStopReq s r else s

def execSeqCtlGo (st : Stall) (r : Region) (w : Word) (s : State) : Host.Outcome State Fault Refusal :=
  finish s (seqCtlWrite s st r w.toNat)

def execSeqCtlStop (st : Stall) (r : Region) (w : Word) (s : State) : Host.Outcome State Fault Refusal :=
  finish s (seqCtlWrite s st r w.toNat)

/-- One event for an entry whose wait lasts beyond 2^wlim cycles of the 1.8 GHz reference (06 R189). -/
def execSequencerWaitLimit (r : Region) (s : State) : Host.Outcome State Fault Refusal :=
  finish s (
    let q := seqOf s r
    let lim := seqGet s r 0xC00 8 5
    let waits := q.entry.isSome && (match q.phase with
      | .waiting => !(q.metA && q.metB)
      | .draining => true
      | .running => q.asked && !q.metDone
      | _ => false)
    if waits && !q.waitEvent && lim != 0 && decide (q.since + 2 ^ lim * 5 / 9 ≤ s.time) then
      emit (updSeq s r (fun q => { q with waitEvent := true })) (regionSource s r) 0x028D (seqEntry s r) r.val
    else s)

end Sys2Proof.Machine
end

