-- ==== Sys2Proof/Machine/Homes.lean ====
section
/-! DEFINITION. Moves (10 R304–R307), the move ring, access epochs (10 R312), segment caches (10 R293) and window
controllers (10 R313, R314). -/

namespace Sys2Proof.Machine

/-! ### Waits of the block's agents -/

/-- Whether an agent has a wait registered, a release or reply on its way, or a refused wait held. -/
def agentWaits (s : State) (a : Agent) : Bool :=
  s.sync.objs.any (fun e => (waiters e.2).any (fun w => w.agent == a)) || s.sync.wakes.any (fun w => w.agent == a)
  || s.sync.retries.any (fun r => r.agent == a)

/-- Take what has come back for an agent: its status, if anything has. -/
def takeWake (s : State) (a : Agent) : Option Code × State :=
  match s.sync.wakes.find? (fun w => w.agent == a) with
  | some w => (some w.status, onSync s (fun y => { y with wakes := y.wakes.filter (fun w => w.agent != a) }))
  | none => (none, s)

/-- Send an operation and take the reply when it comes at once. -/
def askNow (s : State) (a : Agent) (op : SyncOp) (r : Sref) (n : BitVec 32) : Option Code × State :=
  takeWake (syncOp s a op r n) a

/-! ### Segment caches (10 R293) -/

/-- Whose cache an agent uses: accesses of other modules go through the sheds' remote ports. -/
def cacheOf : Agent → Agent
  | .remote _ _ => .remote 0 0
  | a => a

/-- A name leaves every segment cache. -/
def invalidate (s : State) (n : Nat) : State :=
  onHomes s (fun h => { h with caches := h.caches.map (fun e => (e.1, e.2.filter (fun m => m != n))) })

/-- A miss is served by the name's manger: the agent's cache takes the entry, most recent first, 64 at most. -/
def cacheMiss (s : State) (a : Agent) (n : Nat) : State :=
  let a := cacheOf a
  match nameRec s n with
  | none => refuseEvent s a (n * segSize) 0x0301
  | some _ =>
    let old := ((s.homes.caches.find? (fun e => e.1 == a)).map Prod.snd).getD []
    let new := (n :: old.filter (fun m => m != n)).take 64
    touchName (onHomes s (fun h => { h with caches := (a, new) :: h.caches.filter (fun e => e.1 != a) })) n

def execSegmentCacheMiss (a : Agent) (name : BitVec 27) (s : State) : Host.Outcome State Fault Refusal :=
  finish s (cacheMiss s a name.toNat)

/-! ### Moves (10 R304–R307) -/

/-- The last refusal of a tier's accounting (10 R322). -/
def tierRefusal (s : State) (t code : Nat) : State :=
  if 1 ≤ t ∧ t ≤ 5 then setF s (homTier t) 32 16 code else s

def mangerMoves (s : State) (m : Mg) : List MoveJob := s.homes.moves.filter (fun j => j.owner == m)

def setMove (s : State) (n : Nat) (v : Fin 3) : State :=
  match nameRec s n with
  | some r => putRec s n { r with move := v }
  | none => s

/-- Steps 1 and 2 of a move: the destination frame is taken, the record marked and the caches told; or the refusal. -/
def beginMove (s : State) (j : MoveJob) (t : Nat) : Nat × State :=
  match nameRec s j.name with
  | none => (0x0301, s)
  | some r =>
    let mark : Fin 3 := if r.move = 2 then 2 else 1
    let refuse (code : Nat) (s : State) : Nat × State := (code, tierRefusal s t code)
    if t = 0 ∨ 5 < t then (0x0304, s)
    else if j.pinAfter = some true ∧ !(r.pin && r.tier.val == t) ∧ pinRefused s r.task.toNat t 1 then refuse 0x0305 s
    else
      let only := nameOnly s j.name t
      match allocIn (setMove s j.name mark) r.task.toNat r.policy only 6 t with
      | .error c =>
        refuse (if c = 0x0304 ∧ only.isSome ∧ 0 < tierFree s t then 0x0308 else c) s
      | .ok (u, f, s) =>
        let s := putRec s j.name { r with move := mark, dtier := asTier u, dframe := f }
        let s := keepQuota (invalidate s j.name) r.task.toNat
        (0, onHomes s (fun h => { h with moves := h.moves ++ [j] }))

/-- A move of a MOVE command that cannot begin when its place comes leaves its status with the command. -/
def moveFailed (s : State) (j : MoveJob) (code : Nat) : State :=
  match j.slot with
  | some k => if code = 0 then s else onHost s (fun h => { h with
      slots := mupd h.slots {} k.val (fun m => { m with stat := if m.stat = 0 then code else m.stat }) })
  | none => s

/-- No move starts onto lofts that an entry under way takes off; it waits for the entry's end (14 R427, step 2). -/
def moveHolds (s : State) (t : Nat) : Bool :=
  decide (t = 1 ∨ t = 2) && s.power.entry.any (fun e => e.target != 1 || field e.mask.toNat 36 16 != 0)

/-- Moves that wait for one of the manger's four begin in arrival order; fuel is their number. -/
def startQueued (s : State) (m : Mg) : Nat → State
  | 0 => s
  | fuel + 1 =>
    if 4 ≤ (mangerMoves s m).length then s else
    match s.homes.moveQueue.find? (fun e => e.1.owner == m && !moveHolds s e.2.val) with
    | none => s
    | some e =>
      let s := onHomes s (fun h => { h with moveQueue := h.moveQueue.erase e })
      let (code, s) := beginMove s e.1 e.2.val
      startQueued (moveFailed s e.1 code) m fuel

/-- A move is requested: the status of a refusal, or 0 when it has begun or waits for a place. -/
def requestMove (s : State) (j : MoveJob) (t : Nat) : Nat × State :=
  match nameRec s j.name with
  | none => (0x0301, s)
  | some r =>
    if r.move ≠ 0 ∨ s.homes.moveQueue.any (fun e => e.1.name == j.name) then (0x0306, tierRefusal s t 0x0306)
    else if 4 ≤ (mangerMoves s j.owner).length ∨ moveHolds s t then
      (0, onHomes s (fun h => { h with moveQueue := h.moveQueue ++ [(j, asTier t)] }))
    else beginMove s j t

/-- Moves that an entry to a power state held begin once it is over. -/
def startHeld (s : State) : State := each ([0, 1, 2, 3] : List Mg) (fun s m => startQueued s m s.homes.moveQueue.length) s

def moveOf (n : Nat) : MoveJob := { name := n, owner := nameManger n }

/-- A pin or unpin of a name at once, or at cut-over while it moves (10 R307, R311). -/
def setPin (s : State) (n : Nat) (on : Bool) : Nat × State :=
  match nameRec s n with
  | none => (0x0301, s)
  | some r =>
    if r.move ≠ 0 then
      (0, onHomes s (fun h => { h with moves := h.moves.map (fun j => if j.name = n then { j with pinAfter := some on } else j) }))
    else if on && !r.pin && pinRefused s r.task.toNat r.tier.val 1 then (0x0305, tierRefusal s r.tier.val 0x0305)
    else (0, putRec s n { r with pin := on })

/-- Lines of a tier-1 frame that lie on lost interfaces, by offset in the frame. -/
def lostLines (s : State) (f : Nat) : List Nat :=
  ((List.range 512).filter (fun b => ifaceLost s (blockIface s f b))).flatMap
    (fun b => (List.range 64).map (fun i => b * 4096 + i * 64))

/-- Granules of 4 KiB that a write touches and does not cover (10 R317). -/
def partGranules (a n : Nat) : Nat :=
  if n = 0 then 0 else
  ((List.range ((a + n - 1) / 4096 - a / 4096 + 1)).filter (fun i =>
    let g := (a / 4096 + i) * 4096
    decide (g < a ∨ a + n < g + 4096))).length

/-- Writes into the flash-backed tier that cover no whole granule are counted (10 R317). -/
def countRmw (s : State) (a n : Nat) : State :=
  match locate s a with
  | .mem _ _ 4 name =>
    match nameRec s name with
    | some r => satF s (cxpReg (r.frame / 2097152) 0x18) 0 48 (partGranules a n)
    | none => s
  | _ => s

/-- What the sender of a write hears: a write ack, a reply; a host's write is posted (12 R358, 13 R394). -/
def answerWrite (s : State) (x : Access) (code : Nat) : State :=
  match x.agent with
  | .remote m tag => respond s m 5 tag code [] 0
  | .host => s
  | a => send s (.reply a (BitVec.ofNat 16 code) 0)

/-- A write is performed, its signal applied after it, or it is refused with its event; and its sender is told. -/
def landWrite (s : State) (x : Access) : State :=
  let a := x.addr.toNat
  let n := x.data.length
  let code := writeRangeCode s x.agent a n
  if code = 0 then
    let s := countRmw s a n
    let s := match x.agent with
      | .remote _ _ => writeMarked s a x.data x.marks.toNat
      | _ => writeRange s a x.data x.poison
    let s := match x.sref with
      | some r => applySignal s x.agent r
      | none => s
    answerWrite s x 0
  else answerWrite (refuseEvent s x.agent (writeRefusedAt s x.agent a n) code) x code

/-- A write to a name that moves is held until cut-over (10 R306); any other lands. -/
def holdOrLand (s : State) (x : Access) : State :=
  match (pieces x.addr.toNat x.data.length).find? (fun q => nameMoving s q.1) with
  | some q => match locate s q.1 with
    | .mem _ _ _ name => onHomes s (fun h => { h with moves := h.moves.map (fun j => if j.name = name then { j with held := j.held ++ [x] } else j) })
    | _ => landWrite s x
  | none => landWrite s x

/-- An update engine that waited for this move goes on when it was the last (07 R233). -/
def engineMoved (s : State) (e : Fin 16) (n : Nat) : State :=
  let x := engOf s e
  let x := { x with moves := x.moves.filter (fun m => m.toNat != n) }
  let s := putEng s e x
  if x.moves = [] ∧ engState s e = 3 then setF s (engReg e 8) 0 3 1 else s

/-- Lines that arrive in lost blocks of the new frame stand in their substitutes from now on. -/
def rewritten (s : State) (t f : Nat) : State :=
  if t ≠ 1 then s else
  onHomes s (fun h => { h with lostClean := (lostLines s f).foldl (fun m o => mput m ((f * segSize + o) / 64) ()) h.lostClean })

/-- The copy carries the poison of lost lines of a plain source; of a frame lost with its port nothing is left to copy
(10 R307, R318). -/
def carryLost (s : State) (r : HomeRec) (n : Nat) : State :=
  if frameLost s n then poisonFrame s (framePlace s r.dtier.val r.dframe 0 n) else
  match framePlace s r.dtier.val r.dframe 0 n with
  | .mem _ mark _ _ =>
    let lost := if r.tier = 1 then (lostLines s r.frame).filter (fun o => (mfind s.homes.lostClean ((r.frame * segSize + o) / 64)).isNone) else []
    { s with poison := lost.foldl (fun m o => mput m ((mark + o) / 64) ()) s.poison }
  | _ => s

/-- Steps 4 to 6 of a move. -/
def cutOver (s : State) (m : Mg) (i : Nat) : State :=
  match (mangerMoves s m)[i]? with
  | none => s
  | some j =>
    let s := onHomes s (fun h => { h with moves := h.moves.erase j })
    match nameRec s j.name with
    | none => s
    | some r =>
      let rebuild := r.move = 2
      let s := copyFrame s (framePlace s r.tier.val r.frame 0 j.name) (framePlace s r.dtier.val r.dframe 0 j.name)
      let s := rewritten (carryLost s r j.name) r.dtier.val r.dframe
      let s := putRec s j.name { r with tier := r.dtier, frame := r.dframe, move := 0, dtier := 0, dframe := 0, pin := j.pinAfter.getD r.pin }
      let s := invalidate s j.name
      let s := if j.retire then onHomes s (fun h => { h with retired := h.retired ++ [(r.tier.val, r.frame)] }) else s
      let s := keepQuota s r.task.toNat
      let s := each j.held holdOrLand s
      let s := match j.slot with
        | some k => onHost s (fun h => { h with slots := mupd h.slots {} k.val (fun m => { m with count := m.count + 1 }) })
        | none => s
      let s := if j.hasDone then syncCore s (.moveRing m) false (srcManger m 0x3F) .add j.done 1 else s
      let s := satF s (mangerReg m 0x600028) 32 32 1
      let s := emit s (srcManger m 0x3F) 0x038A j.name (r.dframe + r.dtier.val * 2 ^ 32)
      let s := if rebuild then emit s (srcManger m 0x3F) 0x0385 j.name r.dframe else s
      let s := match j.forEngine with
        | some e => engineMoved s e j.name
        | none => s
      startQueued s m s.homes.moveQueue.length

/-! ### The move ring (10 R304) -/

/-- The manger serves the slot at its ring's head; one not yet written holds the ring. -/
def serveRing (s : State) (m : Mg) : State :=
  let head := getF s (mangerReg m 0x600028) 16 10
  let a := getF s (mangerReg m 0x600018) 0 48 + 64 * head
  let s := noteRead s (.moveRing m) a 64
  match readRec s a 64 with
  | none => s
  | some w =>
    if !bitOf w 0 then s else
    let pin := if bitOf w 4 then some true else if bitOf w 5 then some false else none
    let s := onHomes s (fun h => { h with ringMet := h.ringMet.filter (fun x => x != m) })
    let s := each (List.range (field w 8 24)) (fun s k =>
      (requestMove s { moveOf (field w 64 32 + k) with pinAfter := pin, done := BitVec.ofNat 24 (field w 96 24), hasDone := true }
        (field w 1 3)).2) s
    let s := writeRange s a (toBytes 64 (setBits w 0 1 0)) false
    setF s (mangerReg m 0x600028) 16 10 (head + 1)

/-- The ring server's TAKE has been met. -/
def ringWoken (s : State) (m : Mg) (status : Nat) : State :=
  if status = 0 then serveRing (onHomes s (fun h => { h with ringMet := m :: h.ringMet.filter (fun x => x != m) })) m else s

def moveRingRequest (s : State) (m : Mg) : State :=
  if s.homes.ringMet.contains m then serveRing s m
  else if agentWaits s (.moveRing m) then s
  else match askNow s (.moveRing m) .take (BitVec.ofNat 24 (getF s (mangerReg m 0x600020) 0 24)) 1 with
    | (some c, s) => ringWoken s m c.toNat
    | (none, s) => s

def execMoveRingRequest (m : Mg) (s : State) : Host.Outcome State Fault Refusal := finish s (moveRingRequest s m)

/-! ### Access epochs (10 R312) -/

def execEpochTick (m : Mg) (s : State) : Host.Outcome State Fault Refusal :=
  finish s (addF s (mangerReg m 0x600008) 0 16 1)

/-- The sweep of a share rewrites ages of 32,768 epochs and more to 32,767. -/
def sweepAge (s : State) (m : Mg) (r : HomeRec) : HomeRec :=
  let cur := homEpoch s m
  if 32768 ≤ (cur + 65536 - r.age.toNat) % 65536 then { r with age := BitVec.ofNat 16 (cur + 65536 - 32767) } else r

def execAgeSweep (m : Mg) (s : State) : Host.Outcome State Fault Refusal :=
  finish s (onHomes s (fun h => { h with
    table := h.table.map (fun e => if nameManger e.1 = m then (e.1, sweepAge s m e.2) else e) }))

/-! ### Weight-streaming windows (10 R313, R314) -/

def winReg (st : Stall) (r : Region) : Nat := stallReg st (0x1600 + 8 * r.val)
def winStat (st : Stall) (r : Region) : Nat := stallReg st (0x1800 + 8 * r.val)
def whN (h : Nat) : Nat := field h 0 16
/-- Buffers, 1 to 16: a field of 0 stands for 16. -/
def whW (h : Nat) : Nat := if field h 16 4 = 0 then 16 else field h 16 4
def whLead (h : Nat) : Nat := field h 20 4
def whCtally (h : Nat) : Sref := BitVec.ofNat 24 (field h 24 24)
def whFtally (h : Nat) : Sref := BitVec.ofNat 24 (field h 48 24)
def whStride (h : Nat) : Nat := field h 72 48
def weDesc (e : Nat) : Nat := field e 0 48
def weReuse (e : Nat) : Bool := bitOf e 48
def weWk (e : Nat) : Nat := field e 49 2

/-- The wait of an entry: whether it is met now, and the state with the wait registered. -/
def winWait (s : State) (r : Region) (e : Nat) : Bool × State :=
  let x := winOf s r
  let obj : Sref := BitVec.ofNat 24 (field e 51 24)
  let n : BitVec 32 := BitVec.ofNat 32 (field e 75 16)
  if weWk e = 0 ∨ x.met then (true, s)
  else if x.asked then (false, s)
  else
    let op := match weWk e with | 1 => SyncOp.arriveWait | 2 => .take | _ => .waitGe
    match askNow (putWin s r { x with asked := true }) (.window r) op obj n with
    | (some 0, s) => (true, putWin s r { x with asked := true, met := true })
    | (some _, s) => (false, putWin s r { x with asked := false })
    | (none, s) => (false, s)

/-- The barrows that fill a region's windows: IOU barrows 0 to 7 of each of its positions in logical rows 0 and 1, and 24
to 31 of those in rows 2 and 3 (10 R314). -/
def winBarrows (s : State) (r : Region) : List BrwId :=
  (regionStalls s r).flatMap (fun st =>
    let top := match stallLp s st with | some p => decide (p / 7 < 2) | none => true
    (List.range 8).map (fun k => ⟨⟨st.val, by omega⟩, ⟨((if top then 0 else 24) + k) % 32, by omega⟩⟩))

/-- A fill is issued to barrows, each of which does its share. -/
def issueFill (s : State) (d : Desc) (a : Addr) (f : WinFill) (bs : List BrwId) : State :=
  each bs (fun s b => startNext (updBrw s b (fun x => { x with fills := x.fills ++ [(d, a, f)] })) b) s

/-- Entries before the `i`-th that are filled. -/
def fillsBefore (s : State) (a i : Nat) : Nat :=
  ((List.range i).filter (fun k => match readRec s (a + 64 + 64 * k) 64 with
    | some e => !weReuse e
    | none => false)).length

/-- The window controller of a region handles its next entry. -/
def windowFill (s : State) (r : Region) : State :=
  match regionHome s r with
  | none => s
  | some st =>
    if getF s (winReg st r) 48 1 = 0 then s else
    let a := getF s (winReg st r) 0 48
    let unread (a : Nat) : State := setF (noteRead s (.window r) a 64) (winStat st r) 32 16 0x0309
    match readRec s a 64 with
    | none => unread a
    | some h =>
      if whW h ≤ whLead h ∨ whN h = 0 then setF s (winStat st r) 32 16 0x0309 else
      let i := (winOf s r).issued
      if whN h ≤ i ∨ tallyValue s (whCtally h) + whLead h < i then s else
      match readRec s (a + 64 + 64 * i) 64 with
      | none => unread (a + 64 + 64 * i)
      | some e =>
        if weReuse e ∧ getF s (winStat st r) 0 16 ≠ i then s else
        match winWait s r e with
        | (false, s) => s
        | (true, s) =>
          if weReuse e then
            syncCore (fillDone (putWin s r { issued := i + 1, left := (winOf s r).left }) r) (.window r) false (regionSource s r) .add (whFtally h) 1
          else
            match readRec s (weDesc e) 64 with
            | none => unread (weDesc e)
            | some d =>
              let d := setBits (setBits d 11 1 1) 208 24 (whFtally h).toNat
              let bs := winBarrows s r
              let f : WinFill := { boff := fillsBefore s a i % whW h * whStride h, region := r, entry := i }
              issueFill (putWin s r { issued := i + 1, left := mput (winOf s r).left i bs.length }) (BitVec.ofNat 512 d)
                (BitVec.ofNat 48 (weDesc e)) f bs

def execWindowFill (r : Region) (s : State) : Host.Outcome State Fault Refusal := finish s (windowFill s r)

/-- The controller's wait has ended. -/
def windowWoken (s : State) (r : Region) (status : Nat) : State :=
  let x := winOf s r
  if status = 0 then putWin s r { x with met := true } else putWin s r { x with asked := false }

end Sys2Proof.Machine
end

