-- ==== Sys2Proof/Machine/Program.lean ====
section
/-! DEFINITION. Update programs (07 R213–R218): the rule that a program must meet, its constants, and what it computes for
one element. -/

namespace Sys2Proof.Machine

/-! ### Program words (07 R214) -/

def pwOp (w : Nat) : Nat := field w 0 8
def pwD (w : Nat) : Nat := field w 8 5
def pwA (w : Nat) : Nat := field w 13 5
def pwB (w : Nat) : Nat := field w 18 5
def pwC (w : Nat) : Nat := field w 23 5
def pwK (w : Nat) : Nat := field w 28 5

/-- Address of a word of a manger's program memory. -/
def progReg (m : Mg) (p i : Nat) : Nat := mangerReg m (0x301000 + 8 * (64 * p + i))

/-- The 64 words of a slot. -/
def progWords (s : State) (m : Mg) (p : Nat) : List Nat := (List.range 64).map (fun i => (getReg s (progReg m p i)).toNat)

/-- Registers that an operation reads. -/
def pwReads (w : Nat) : List Nat :=
  match pwOp w with
  | 0x02 | 0x03 | 0x04 | 0x06 | 0x0B | 0x0C => [pwA w, pwB w]
  | 0x05 => [pwA w, pwB w, pwC w]
  | 0x0F => [pwA w, pwB w]
  | 0x07 | 0x08 | 0x09 | 0x0A | 0x0E | 0x10 | 0x11 | 0x12 => [pwA w]
  | _ => []

/-- The first word of a weight section that reads a register not yet written, other than r1, r2 and r3. -/
def badRead : List Nat → Nat → List Nat → Option Nat
  | [], _, _ => none
  | w :: t, i, known =>
    if (pwReads w).any (fun r => !known.contains r) then some i else badRead t (i + 1) (pwD w :: known)

/-- The word at which a program fails R215; none when it is legal. -/
def progIllegal (ws : List Nat) (nstate : Nat) : Option Nat :=
  match ws.findIdx? (fun w => pwOp w == 0) with
  | none => some 63
  | some e =>
    let body := ws.take (e + 1)
    match body.findIdx? (fun w => field w 33 31 != 0 || decide (0x12 < pwOp w)) with
    | some i => some i
    | none =>
      let secs := (List.range 64).filter (fun i => pwOp (ws.getD i 0) == 1)
      match secs with
      | [] => if nstate = 0 then none else some e
      | [i] => if e < i then some i else badRead ((body.drop (i + 1)).take (e - i - 1)) (i + 1) [1, 2, 3]
      | _ :: i :: _ => some i

/-! ### Constants (07 R216, R218) -/

/-- A schedule table: warm, lr_init and the points; none when unreadable or not as R218 wants. -/
structure Sched218 where
  warm : Nat
  init : F32
  points : List (Nat × F32)
  deriving DecidableEq, Repr

def risingPoints : List (Nat × F32) → Bool
  | a :: b :: t => decide (a.1 < b.1) && risingPoints (b :: t)
  | _ => true

def schedTable (s : State) (a : Nat) : Option Sched218 :=
  match readRec s a 64 with
  | none => none
  | some h =>
    let n := field h 0 9
    if n = 0 ∨ 256 < n then none else
    let ps := (List.range n).map (fun i => readRec s (a + 64 + 16 * i) 16)
    if ps.any (·.isNone) then none else
    let pts := ps.map (fun p => (field (p.getD 0) 0 48, (BitVec.ofNat 32 (field (p.getD 0) 64 32) : F32)))
    if risingPoints pts then some { warm := field h 64 48, init := BitVec.ofNat 32 (field h 128 32), points := pts } else none

def int32 (i : Nat) : F32 := to32 (vInt i)

def tableFrom : List (Nat × F32) → Nat → F32
  | a :: b :: t, x =>
    if x ≤ b.1 then add32 a.2 (div32 (mul32 (sub32 b.2 a.2) (int32 (x - a.1))) (int32 (b.1 - a.1)))
    else tableFrom (b :: t) x
  | [a], _ => a.2
  | [], _ => 0

def tableAt (t : Sched218) (x : Nat) : F32 :=
  match t.points with
  | [] => 0
  | p :: _ => if x ≤ p.1 then p.2 else tableFrom t.points x

/-- The learning rate of step `st`, each operation rounded to FP32. -/
def lrAt (t : Sched218) (st : Nat) (mult : F32) : F32 :=
  let v := if st < t.warm then
      add32 t.init (div32 (mul32 (sub32 (tableAt t t.warm) t.init) (int32 st)) (int32 t.warm))
    else tableAt t st
  mul32 v mult

def powVal (v : Val) (st : Nat) : Val :=
  match v with
  | .nan => .nan
  | .inf neg => if st = 0 then vInt 1 else .inf (neg && st % 2 == 1)
  | .fin neg m e => .fin (neg && st % 2 == 1) (m ^ st) (e * st)

/-- `x^st` in FP32: the power itself where FP32 holds it. Where it does not, R216 gives no rounding: a free value within one
unit in the last place of the power (DESIGN CHOICE, log entry 130). -/
def powAt (x : F32) (st : Nat) : F32 :=
  let p := powVal (val32 x) st
  let y := to32 p
  if !vLt (val32 y) p && !vLt p (val32 y) then y else freeWithin p (ulpVal p) (Config.sfnValue 0x216 x st)

/-- k0 to k31 for an update of step `st`. -/
def constsOf (d st : Nat) (lr : F32) : List F32 :=
  let corr (k : F32) : F32 := div32 one32 (sub32 one32 (powAt k st))
  [lr, mul32 lr (BitVec.ofNat 32 0xBF800000), corr (sdUc d 0), corr (sdUc d 1), sub32 one32 (mul32 lr (sdUc d 3))]
  ++ List.replicate 11 0 ++ (List.range 16).map (sdUc d)

/-! ### What a program computes -/

def neg32 (x : F32) : F32 := x ^^^ 0x80000000
def abs32 (x : F32) : F32 := x &&& 0x7FFFFFFF

/-- The larger; of a NaN and anything a free value, since R214 does not say. -/
def pwMax (a b : F32) : F32 := if isNan32 a || isNan32 b then Config.sfnValue 0x20B a b.toNat else if lt32 a b then b else a
def pwMin (a b : F32) : F32 := if isNan32 a || isNan32 b then Config.sfnValue 0x20C a b.toNat else if lt32 b a then b else a

/-- The result of an operation. -/
def pwResult (w : Nat) (r k : Nat → F32) : F32 :=
  let a := r (pwA w)
  let b := r (pwB w)
  let c := r (pwC w)
  let q := k (pwK w)
  match pwOp w with
  | 0x02 => add32 a b
  | 0x03 => sub32 a b
  | 0x04 => mul32 a b
  | 0x05 => fma32 a b c
  | 0x06 => div32 a b
  | 0x07 => sqrt32 a
  | 0x08 => to32 (vDiv (val32 one32) (vSqrt (val32 a)))
  | 0x09 => if isNan32 a then Config.sfnValue 0x209 a 0 else if vIsZero (val32 a) then 0 else if lt32 a 0 then neg32 one32 else one32
  | 0x0A => abs32 a
  | 0x0B => pwMax a b
  | 0x0C => pwMin a b
  | 0x0D => q
  | 0x0E => mul32 a q
  | 0x0F => fma32 a q b
  | 0x10 => mul32 a a
  | 0x11 => if isNan32 a || isNan32 q then Config.sfnValue 0x211 a q.toNat
    else if lt32 q a then q else if lt32 a (neg32 q) then neg32 q else a
  | 0x12 => add32 a q
  | _ => 0

/-- What a program leaves: r2 and r3 at WSEC, and r1 at END. -/
structure ProgOut where
  st : Option (F32 × F32)
  w : F32
  deriving DecidableEq, Repr

/-- Run the words up to END. -/
def progRun (ks : List F32) : List Nat → List F32 → Option (F32 × F32) → ProgOut
  | [], rs, o => { st := o, w := rs.getD 1 0 }
  | w :: t, rs, o =>
    if pwOp w = 0 then { st := o, w := rs.getD 1 0 }
    else if pwOp w = 1 then progRun ks t rs (some (rs.getD 2 0, rs.getD 3 0))
    else progRun ks t (rs.set (pwD w) (pwResult w (fun i => rs.getD i 0) (fun i => ks.getD i 0))) o

/-- The whole program on one element. -/
def runElem (ks : List F32) (ws : List Nat) (g w s0 s1 : F32) : ProgOut :=
  progRun ks ws ([g, w, s0, s1] ++ List.replicate 28 0) none

/-- The weight section alone, from the new state (07 R229). -/
def runWeights (ks : List F32) (ws : List Nat) (w s0 s1 : F32) : ProgOut :=
  let rest := match ws.findIdx? (fun w => pwOp w == 1) with
    | some i => ws.drop (i + 1)
    | none => ws
  progRun ks rest ([0, w, s0, s1] ++ List.replicate 28 0) none

end Sys2Proof.Machine
end

