-- ==== Sys2Proof/Machine/Update.lean ====
section
/-! DEFINITION. The update engines (07 R219–R235): triggers, pre-passes and norm exchanges, block commits, the end of a
shard's update, and what stops, resumes or fails an engine. -/

namespace Sys2Proof.Machine

/-! ### Shards, formats and places -/

def localShard (s : State) (r : Nat) : Bool := srModule r == ownModule s

/-- The shards of a set that have a readable record, with it. -/
def shardsOf (s : State) (d : Nat) : List (BitVec 24 × Nat) :=
  (List.range (sdShards d)).filterMap (fun i => (shardRec s d (BitVec.ofNat 24 i)).map (fun r => (BitVec.ofNat 24 i, r)))

def localShards (s : State) (d : Nat) : List (BitVec 24 × Nat) := (shardsOf s d).filter (fun e => localShard s e.2)

def mBytes (d : Nat) : Nat := match sdMfmt d with | 0 => 5 | 1 => 4 | _ => 2
def stBytes (d : Nat) : Nat := if sdBfState d then 2 else 4
def masterAt (d r i : Nat) : Nat := srMaster r + mBytes d * i
/-- Element `i` of state `j`: state 1 follows state 0 at the next 64 B boundary. -/
def stateAt (d r j i : Nat) : Nat :=
  (if j = 0 then srState r else ceilDiv (srState r + srLen r * stBytes d) 64 * 64) + stBytes d * i

/-- The master and state segments of a shard, by name. -/
def homeNames (d r : Nat) : List Nat :=
  let span (a n : Nat) : List Nat := (segsOf a n).map (fun x => x / segSize)
  (span (srMaster r) (mBytes d * srLen r)
    ++ (if sdNstate d = 0 then [] else span (srState r) (stateAt d r (sdNstate d - 1) (srLen r) - srState r))).eraseDups

def bfVal (c : Nat) : Val := fltVal bf16 c

def masterVal (d c : Nat) : Val :=
  match sdMfmt d with
  | 0 => val40 (BitVec.ofNat 40 c)
  | 1 => val32 (BitVec.ofNat 32 c)
  | _ => bfVal c

def stateF (d c : Nat) : F32 := if sdBfState d then to32 (bfVal c) else BitVec.ofNat 32 c

/-- Ends of blocks: block `c` covers elements from `4,096 c`. -/
def blockLen (r c : Nat) : Nat := min 4096 (srLen r - 4096 * c)
def blockCount (r : Nat) : Nat := ceilDiv (srLen r) 4096

def putJournal (s : State) (r j : Nat) : State := writeRange s (srJrnl r) (toBytes 64 j) false
def engManger (e : Fin 16) : Mg := ⟨e.val / 4, by omega⟩

/-- Copy `i`'s layout: values, then one scale a bale from the next 64 B boundary (07 R209). -/
def copyScales (c : CopySpec) (base len : Nat) : Nat := ceilDiv (base + ceilDiv (len * fmtBits c.fmt) 8) 64 * 64
def copyHasScales (c : CopySpec) : Bool := decide (fmtBits c.fmt ≤ 8) || c.fmt == 0xC
def copyBytes (c : CopySpec) (base len : Nat) : Nat :=
  if copyHasScales c then copyScales c base len - base + ceilDiv len c.bale else ceilDiv (len * fmtBits c.fmt) 8

/-- Write one bale of a derived copy, converted round-to-nearest-even (07 R211). -/
def writeCopyBale (s : State) (c : CopySpec) (base len i : Nat) (vals : List Val) : State :=
  let w := fmtBits c.fmt
  let o : BaleOut :=
    if c.fmt = 0xC then convBx none vals
    else if copyHasScales c then convBale c.fmt (if c.ue then 0xE else 0xD) false vals
    else { scale := 0, codes := vals.map (fun v => (convElem c.fmt false false v).code), sat := 0, nans := 0 }
  let s := writeRange s (base + c.bale * i * w / 8) (packBytes w o.codes) false
  if copyHasScales c then writeRange s (copyScales c base len + i) [BitVec.ofNat 8 o.scale] false else s

/-! ### Gradients -/

/-- The bale size of a shard's staged gradient. -/
def gradBsz (s : State) (d : Nat) (set : BitVec 16) (shard : BitVec 24) (step : Nat) : Nat :=
  match stagingOf s set shard step with
  | some x => x.bsz
  | none => match baleArray s (sdBrec d) with
    | some b => b.bsz
    | none => 32

/-- A shard's staged gradient bales from element `lo`, covering `n` elements. -/
def gradBales (s : State) (stg len bsz lo n : Nat) : List Bale :=
  (List.range (ceilDiv n bsz)).map (fun i => stagedBale s stg len bsz (lo / bsz + i))

def badBale (b : Bale) : Bool := b.poison || b.mm

/-- The elements of some bales: FP32 value, and whether its bale is poisoned. -/
def gradElems (n : Nat) (bs : List Bale) : List (F32 × Bool) :=
  (bs.flatMap (fun b => b.elems.map (fun x => (to32 (bxVal b.e.toNat x.toNat), badBale b)))).take n

def square (a : F32) : F32 := mul32 a a

/-- `gscale × x`, squared, of the elements whose bale is not poisoned. -/
def gsqTerms (d : Nat) (gs : List (F32 × Bool)) : List F32 :=
  (gs.filter (fun g => !g.2)).map (fun g => square (mul32 (sdGscale d) g.1))

/-- Terms added to a sum in FP32. The spec gives no order of the additions within a step (07 R219, R220, R227): it is
free, by the draws from the `k`-th on. -/
def openSum (s : State) (k : Nat) (acc : F32) (l : List F32) : F32 := freeSum (l.length + 1) (acc :: l) (s.draws + k)

def drawn (s : State) (n : Nat) : State := { s with draws := s.draws + n }

/-- The prepared gradient (07 R219). -/
def prepGrad (d : Nat) (clipf x : F32) : F32 :=
  let g := mul32 (mul32 clipf (sdGscale d)) x
  if sdClip d ≠ 3 then g
  else
    let c := sdClipc d
    if lt32 c g then c else if lt32 g (neg32 c) then neg32 c else g

/-! ### One block's arithmetic -/

/-- An element of a block: kept as it stands, or with its new values. -/
structure ElemOut where
  keep : Bool
  old : Nat
  st : List Nat
  w : F32
  out : ProgOut
  deriving DecidableEq, Repr

/-- Run the program over a block. With `weightOnly` the gradient is not read. -/
def runBlock (s : State) (d r : Nat) (ks : List F32) (ws : List Nat) (clipf : F32) (gs : List (F32 × Bool)) (weightOnly : Bool) (c : Nat) :
    List ElemOut :=
  let lo := 4096 * c
  (List.range (blockLen r c)).map (fun i =>
    let m := ofBytes (readRange s (masterAt d r (lo + i)) (mBytes d))
    let st := (List.range (sdNstate d)).map (fun j => ofBytes (readRange s (stateAt d r j (lo + i)) (stBytes d)))
    let w := to32 (masterVal d m)
    let f (j : Nat) : F32 := match st[j]? with | some x => stateF d x | none => 0
    let g := gs.getD i (0, false)
    let o := if weightOnly then runWeights ks ws w (f 0) (f 1) else runElem ks ws (prepGrad d clipf g.1) w (f 0) (f 1)
    { keep := g.2 && !weightOnly, old := m, st := st, w := w, out := o })

def deltaOf (x : ElemOut) : F32 := sub32 x.out.w x.w

/-- Random bits of an element for stochastic rounding (05 R173): of the 32-bit word that the rule names, the low 16, and the
same 16 for the master and for every BF16 state of the element (DESIGN CHOICE, log entry 128: the rule says neither). -/
def srBits (key : Word) (set : BitVec 16) (step k : Nat) : BitVec 16 :=
  (philoxWord key (step % 2 ^ 48 * 2 ^ 80 + set.toNat * 2 ^ 64 + k / 4) k).setWidth 16

/-- The stored code of a new master (07 R208). -/
def newMaster (d : Nat) (x : ElemOut) (r16 : BitVec 16) : Nat :=
  if x.keep then x.old else
  match sdMfmt d with
  | 0 => (to40 (vAdd (masterVal d x.old) (vSub (val32 x.out.w) (val32 x.w)))).toNat
  | 1 => x.out.w.toNat
  | _ => (srBf16 x.out.w r16).toNat

/-- The stored code of state `j`. -/
def newState (d : Nat) (x : ElemOut) (r16 : BitVec 16) (j : Nat) : Nat :=
  let old := x.st.getD j 0
  match x.keep, x.out.st with
  | false, some (a, b) =>
    let v := if j = 0 then a else b
    if !sdBfState d then v.toNat else if sdSrState d then (srBf16 v r16).toNat else fltIeee bf16 (val32 v)
  | _, _ => old

/-! ### Suspect shards (10 R320) -/

def isSuspect (s : State) (set : BitVec 16) (shard : BitVec 24) : Bool := s.upd.suspects.contains (set, shard)

/-- A shard whose master, state or journal is uncorrectable: its updates stop and a peer is sought. -/
def suspectShard (s : State) (set : BitVec 16) (shard : BitVec 24) : State :=
  if isSuspect s set shard then s else
  let mine (e : Fin 16) : Option UpdRun := (mget s.upd.engines {} e.val).run.filter (fun r => r.set == set && r.shard == shard)
  each (List.finRange 16) (fun s e => match mine e with
    | none => s
    | some r =>
      let x := engOf s e
      let s := putEng s e { x with run := none, moves := [], parked := x.parked ++ [{ run := r, reason := .suspect }] }
      if engState s e = 4 ∨ engState s e = 5 then s else setF s (engReg e 8) 0 3 0)
    (onUpd s (fun u => { u with suspects := u.suspects ++ [(set, shard)] }))

/-- The shard-suspect event (07 R238). -/
def suspectEvent (s : State) (src : BitVec 16) (set : BitVec 16) (shard : BitVec 24) : State :=
  emit s src 0x0889 (setShard set shard) 0

/-- A journal that cannot be read (07 R235). -/
def journalLost (s : State) (src : BitVec 16) (set : BitVec 16) (shard : BitVec 24) : State :=
  suspectEvent (suspectShard s set shard) src set shard

/-! ### Engine state -/

def setEng (s : State) (e : Fin 16) (v : Nat) : State := setF s (engReg e 8) 0 3 v
def engStatus (s : State) (e : Fin 16) (code : Nat) : State := setF s (engReg e 8) 32 16 code
def updEng (s : State) (e : Fin 16) (f : EngSt → EngSt) : State := putEng s e (f (engOf s e))
/-- The entry at the head of a ring is taken; what waits for room moves up. -/
def popRing (s : State) (e : Fin 16) : State := pumpTrigs (updEng s e (fun x => { x with ring := x.ring.drop 1 }))

/-- Whether an engine works at all: enabled, neither stopped nor failed, its domain on. -/
def engReady (s : State) (e : Fin 16) : Bool :=
  fullOn s && engUp s e && engState s e != 4 && getF s (engReg e 0) 0 1 == 1

/-- Park an update; the engine is free for its next trigger. -/
def parkRun (s : State) (e : Fin 16) (run : UpdRun) (reason : ParkReason) : State :=
  setEng (updEng s e (fun x => { x with run := none, parked := x.parked ++ [{ run := run, reason := reason }] })) e 0

/-- Release parked shards. -/
def unpark (s : State) (f : Parked → Option UpdRun) : State :=
  onUpd s (fun u => { u with engines := u.engines.map (fun e => (e.1, { e.2 with
    parked := e.2.parked.map (fun p => match f p with
      | some r => { p with run := r, released := true }
      | none => p) })) })

/-- A trigger that cannot be served: its status in the engine and in an event; the gradient is kept (07 R235). -/
def refuseTrigger (s : State) (e : Fin 16) (code a0 a1 : Nat) : State :=
  emit (engStatus s e code) (engSrc e) code a0 a1

/-- The set descriptor, shard record and program of an update, or the status and arguments of its refusal. -/
def checkUpdate (s : State) (e : Fin 16) (set : BitVec 16) (shard : BitVec 24) : Except (Nat × Nat × Nat) (Nat × Nat) :=
  match setDesc s set with
  | none => .error (0x0801, set.toNat, 0)
  | some d =>
    if !sdLegal d then .error (0x0801, set.toNat, 0)
    else if sdShards d ≤ shard.toNat then .error (0x0803, set.toNat, shard.toNat)
    else match shardRec s d shard with
      | none => .error (0x0801, set.toNat, 0)
      | some r =>
        if !mapLegal s d ∨ (schedTable s (sdSched d)).isNone ∨ !localShard s r then .error (0x0801, set.toNat, 0)
        else match progIllegal (progWords s (engManger e) (sdProg d)) (sdNstate d) with
          | some w => .error (0x0802, sdProg d, w)
          | none => .ok (d, r)

/-! ### Norms (07 R220, R221) -/

def normOf (s : State) (set : BitVec 16) : Option NormSt := mfind s.upd.norms set.toNat
def putNorm (s : State) (set : BitVec 16) (n : NormSt) : State := onUpd s (fun u => { u with norms := mput u.norms set.toNat n })

/-- The action of a set's layer record (05 R160). -/
def uwrAct (s : State) (d : Nat) : Nat :=
  match layerAddr s (sdLayer d) with
  | none => 0
  | some a => match readRec s a 8 with
    | none => 0
    | some w => field w 8 2

/-- A clip factor: min(1, c / norm); 1 for a norm of 0. -/
def clipFactor (c norm : F32) : F32 :=
  if vIsZero (val32 norm) then one32 else
  let f := div32 c norm
  if lt32 f one32 then f else one32

/-- Write a cell's fields to one module; the signal rides the last write. -/
def sendCell (s : State) (a : Agent) (m : ModuleId) (cell : Nat) (tally : Sref) (n : NormSt) : State :=
  let stepB := toBytes 2 (n.step % 2 ^ 16)
  let sums := if n.part = .trial then (cell + 4, toBytes 4 n.dsq.toNat ++ toBytes 4 n.wsq.toNat) else (cell, toBytes 4 n.gsq.toNat)
  if m = ownModule s then
    applySignal (writeMem (writeMem s a sums.1 sums.2 false) a (cell + 12) stepB false) a tally
  else
    (writeRemote (writeRemote s a m sums.1 sums.2 false none).2 a m (cell + 12) stepB false (some tally)).2

/-- Distinct owners of a set's shards. -/
def ownersOf (s : State) (d : Nat) : List ModuleId := ((shardsOf s d).map (fun e => srModule e.2)).eraseDups

/-- Every local shard has finished the part: the module's partial sums go to every owner, and MG0 takes the tally. -/
def sendNorm (s : State) (set : BitVec 16) (d : Nat) (n : NormSt) : State :=
  let a : Agent := .norm set
  let s := putNorm s set { n with sent := true }
  let s := each (ownersOf s d) (fun s m => sendCell s a m (sdNrec d + 16 * sdOord d) (sdNtally d) n) s
  match askNow s a .take (sdNtally d) (BitVec.ofNat 32 (sdNown d)) with
  | (some 0, s) => putNorm s set { n with sent := true, met := true }
  | (_, s) => s

/-- A shard has finished a part of its pre-pass with these sums. -/
def partDone (s : State) (set : BitVec 16) (shard : BitVec 24) (d : Nat) (step : Nat) (part : ParkReason) (gsq dsq wsq : F32) : State :=
  let old := match normOf s set with
    | some n => if n.step = step ∧ n.part = part then n else { step := step, part := part, clipf := if n.step = step then n.clipf else none }
    | none => { step := step, part := part }
  if old.done.contains shard then s else
  let n := { old with done := old.done ++ [shard], gsq := add32 old.gsq gsq, dsq := add32 old.dsq dsq, wsq := add32 old.wsq wsq }
  if (localShards s d).all (fun e => n.done.contains e.1) then sendNorm s set d n else putNorm s set n

/-- Sum a field of the cells 0 to count − 1 in ascending order. -/
def sumCells (s : State) (rec count off : Nat) : F32 :=
  ((List.range count).map (fun i => (BitVec.ofNat 32 (ofBytes (readRange s (rec + 16 * i + off) 4)) : F32))).foldl add32 0

/-! ### The global norm (07 R221) -/

def gnReg : Nat := mangerReg 0 0x300020
def gnAcc : Nat := mangerReg 0 0x300048
def gnBank (st : Nat) : Nat := 32 * (st % 2)

/-- Whether UPD_GN holds step `want`, seen from the update of step `st` (07 R223). -/
def gnHolds (s : State) (st want : Nat) : Bool :=
  getF s gnReg 48 1 == 1 && fullStep st (getF s gnReg 32 16) 16 == want

/-- The exchange is over: the square root of the sum is written. -/
def gnFinish (s : State) : State :=
  match s.upd.gn with
  | none => s
  | some n =>
    let sum := sumCells s (getF s (mangerReg 0 0x300028) 0 48) (getF s (mangerReg 0 0x300028) 48 12 + 1) 0
    let w := (sqrt32 sum).toNat + (n.step % 2 ^ 16) * 2 ^ 32 + 2 ^ 48
    setReg (onUpd s (fun u => { u with gn := none })) gnReg (BitVec.ofNat 64 w)

/-- A closed sum is exchanged over the norm group. Its members are taken to be the consecutive modules from the one of
ordinal 0 (the spec names none: notes/assumptions). -/
def gnExchange (s : State) (n : NormSt) : State :=
  let s := onUpd s (fun u => { u with gn := some n })
  let rec_ := getF s (mangerReg 0 0x300028) 0 48
  let count := getF s (mangerReg 0 0x300028) 48 12 + 1
  let tally : Sref := BitVec.ofNat 24 (getF s (mangerReg 0 0x300030) 0 24)
  let ord := getF s (mangerReg 0 0x300030) 24 12
  let base := (ownModule s).toNat + 65536 - ord
  let s := each (List.range count) (fun s i => sendCell s .gnorm (BitVec.ofNat 16 (base + i)) (rec_ + 16 * ord) tally n) s
  match askNow s .gnorm .take tally (BitVec.ofNat 32 count) with
  | (some 0, s) => gnFinish s
  | (_, s) => s

/-- Exchange sums that closed meanwhile, one after another. -/
def gnNext : Nat → State → State
  | 0, s => s
  | n + 1, s =>
    if s.upd.gn.isSome then s else
    match s.upd.gnNext with
    | [] => s
    | x :: t => gnNext n (gnExchange (onUpd s (fun u => { u with gnNext := t })) x)

/-- The module's sum for a step closes (07 R221): it is exchanged, after one that is still under way. -/
def gnClose (s : State) (st : Nat) : State :=
  let n : NormSt := { step := st, part := .norm, gsq := BitVec.ofNat 32 (getF s gnAcc (gnBank st) 32), sent := true }
  let s := setF s gnAcc (gnBank st) 32 0
  if s.upd.gn.isSome then onUpd s (fun u => { u with gnNext := u.gnNext ++ [n] }) else gnExchange s n

def execUpdGnClose (s : State) : Host.Outcome State Fault Refusal := finish s (gnClose s s.upd.gnStep)

def gnWoken (s : State) (status : Nat) : State :=
  if status = 0 then let s := gnFinish s; gnNext s.upd.gnNext.length s else s

/-! ### Bale records (05 R168) -/

/-- Adjust the records of some bales of a shard, from bale number `i`, for step `st`. -/
def adjustBales (s : State) (set : BitVec 16) (m : Mg) (d st i : Nat) (bs : List Bale) : State :=
  match (if sdBrec d = 0 then none else baleArray s (sdBrec d)) with
  | none => s
  | some arr =>
    bs.zipIdx.foldl (fun s b =>
      let o := adjustRec s (recWord s arr st (i + b.2)) b.1
      let s := writeRange s (recAddr arr (st + 1) (i + b.2)) (toBytes 2 o.1) false
      let c := mangerReg m 0x200038
      let s := satF (satF (satF s c 0 24 o.2.1) c 24 24 o.2.2.1) c 48 16 o.2.2.2
      onUpd s (fun u => { u with adjusts := mupd u.adjusts (0, 0, 0) set.toNat (fun t => (t.1 + o.2.1, t.2.1 + o.2.2.1, t.2.2 + o.2.2.2)) })) s

/-- The header's step and cold count after a shard's update (05 R166, 07 R224 step 7). -/
def advanceArray (s : State) (d st : Nat) : State :=
  match (if sdBrec d = 0 then none else baleArray s (sdBrec d)) with
  | none => s
  | some arr =>
    let cold := ((List.range arr.bales).filter (fun i => !bitOf (recWord s arr (st + 1) i) 8)).length
    let h := ofBytes (readRange s arr.addr 64)
    writeRange s arr.addr (toBytes 64 (setBits (setBits h 64 48 (st + 1)) 112 32 cold)) false

/-- The events of an array once per step, when every local shard has been adjusted. -/
def adjustEvents (s : State) (set : BitVec 16) (m : Mg) (d : Nat) : State :=
  if sdBrec d = 0 then s else
  let t := mget s.upd.adjusts (0, 0, 0) set.toNat
  let src := srcManger m 0x3F
  let s := emit s src 0x08C4 (sdBrec d) (min t.1 (2 ^ 24 - 1) + min t.2.1 (2 ^ 24 - 1) * 2 ^ 24)
  let s := if t.2.2 = 0 then s else emit s src 0x08C5 (sdBrec d) t.2.2
  onUpd s (fun u => { u with adjusts := mdel u.adjusts set.toNat })

/-! ### Ratios (05 R171) -/

/-- sqrt(dsq) / sqrt(wsq): 0 when both are 0, +infinity when only the weight sum is. -/
def ratioOf (dsq wsq : F32) : F32 :=
  if vIsZero (val32 wsq) then (if vIsZero (val32 dsq) then 0 else BitVec.ofNat 32 0x7F800000)
  else div32 (sqrt32 dsq) (sqrt32 wsq)

/-- Write a set's ratio into its layer record, keeping the largest of the step; whether it exceeds ratio_max. -/
def writeRatio (s : State) (d st : Nat) (ratio : F32) : State × Bool :=
  match layerAddr s (sdLayer d) with
  | none => (ledgerIllegal s (srcManger 0 0x3F) (sdLayer d), false)
  | some a =>
    if rangeCode s a 256 ≠ 0 then (s, false) else
    let old : F32 := BitVec.ofNat 32 (ofBytes (readRange s (a + 72) 4))
    let maxR : F32 := BitVec.ofNat 32 (ofBytes (readRange s (a + 76) 4))
    let same := mfind s.upd.ratios (sdLayer d) = some st
    let hit := lt32 maxR ratio
    let c := ofBytes (readRange s a 8)
    let v := if same && !lt32 old ratio then old else ratio
    let s := writeRange s (a + 72) (toBytes 4 v.toNat) false
    let s := writeRange s a (toBytes 8 (setBits c 10 1 (flag (hit || (same && bitOf c 10))))) false
    (onUpd s (fun u => { u with ratios := mput u.ratios (sdLayer d) st }), hit)

/-! ### Signals and the end of an update -/

/-- The modules of a set's replica list (07 R207). -/
def replicas (s : State) (d : Nat) : List ModuleId :=
  (List.range (sdNrep d)).map (fun i => BitVec.ofNat 16 (ofBytes (readRange s (sdRlist d + 2 * i) 2)))

/-- Set the journal's sig bit of shards whose signals are all acknowledged. -/
def sigAcked (s : State) (e : Fin 16) : State :=
  if (waitingOf s (.engine e) 3).isEmpty then
    let x := engOf s e
    let s := putEng s e { x with sigWait := [] }
    each x.sigWait (fun s k => match setDesc s k.1 with
      | none => s
      | some d => match shardRec s d k.2 with
        | none => s
        | some r => match journal s r with
          | some j => putJournal s r (setBits j 52 1 1)
          | none => s) s
  else s

/-- ADD 1 on ftally of every module of the replica list (step 8). -/
def signalFetch (s : State) (e : Fin 16) (set : BitVec 16) (shard : BitVec 24) (d r : Nat) : State :=
  let (ok, s) := (replicas s d).foldl (fun (p : Bool × State) m =>
    let (c, s) := syncAt p.2 (.engine e) m 3 (srFtally r) 1
    (p.1 && c == 0, s)) (true, s)
  if ok then sigAcked (updEng s e (fun x => { x with sigWait := x.sigWait ++ [(set, shard)] })) e else s

/-- Shards parked as early, or held by a point, whose time has come. -/
def unparkEarly (s : State) (set : BitVec 16) (shard : BitVec 24) (st : Nat) : State :=
  unpark s (fun p => if p.reason = .early ∧ p.run.set = set ∧ p.run.shard = shard ∧ p.run.step = st + 1 then some p.run else none)

/-- Whether every local shard of a set stands at step `st`, phase 3. -/
def setDone (s : State) (d st : Nat) : Bool :=
  (localShards s d).all (fun e => match journal s e.2 with
    | some j => decide (st < jStep j ∨ (jStep j = st ∧ jPhase j = 3))
    | none => false)

/-- A sum of the ratio over the local shards of a layer's set (05 R171), from the `k`-th draw on. -/
def sumJournals (s : State) (k d lo : Nat) : F32 :=
  openSum s k 0 ((localShards s d).map (fun e => (BitVec.ofNat 32 (field ((journal s e.2).getD 0) lo 32) : F32)))

/-- Steps 7 and 8 of R224 from phase 2. -/
def closeShard (s : State) (e : Fin 16) (set : BitVec 16) (shard : BitVec 24) (d r st : Nat) : State :=
  let s := advanceArray s d st
  let j := (journal s r).getD 0
  let s := putJournal s r (setBits (setBits j 48 2 3) 52 1 0)
  let s := satF s (engReg e 0x28) 0 24 1
  let s := setEng (updEng s e (fun x => { x with run := none })) e 0
  let s := signalFetch s e set shard d r
  let s := unparkEarly s set shard st
  if setDone s d st then
    let s := adjustEvents s set (engManger e) d
    let s := if uwrAct s d ≠ 2 ∧ (layerAddr s (sdLayer d)).isSome then
        let n := (localShards s d).length + 1
        let ratio := ratioOf (sumJournals s 0 d 192) (sumJournals s n d 224)
        let (s, hit) := writeRatio (drawn s (2 * n)) d st ratio
        if hit && uwrAct s d == 1 then emit s (srcManger 0 0x3F) 0x08C1 (sdLayer d) ratio.toNat else s
      else s
    let s := onUpd s (fun u => { u with norms := mdel u.norms set.toNat })
    if sdGnClose d then gnClose s st else s
  else s

/-- Step 6: weights written, staging freed, pins released. -/
def weightsWritten (s : State) (run : UpdRun) : State :=
  let s := freeStaging s run.set run.shard run.step
  let mine (x : BitVec 16 × BitVec 24 × BitVec 27) : Bool := x.1 == run.set && x.2.1 == run.shard
  let names := (s.upd.upPins.filter mine).map (fun x => x.2.2)
  each names (fun s n => (setPin s n.toNat false).2) (onUpd s (fun u => { u with upPins := u.upPins.filter (fun x => !mine x) }))

/-! ### Pre-pass and start (07 R219, R220, R224 steps 2 to 4) -/

/-- Where a shard's gradient lies: its staging, else what its journal names. -/
def gradAddr (s : State) (set : BitVec 16) (shard : BitVec 24) (step r : Nat) : Nat :=
  match stagingOf s set shard step with
  | some x => x.addr.toNat
  | none => jStg ((journal s r).getD 0)

/-- The clip factor of an update, none while it must wait for UPD_GN. -/
def clipOf (s : State) (set : BitVec 16) (d st : Nat) : Option F32 :=
  match sdClip d with
  | 1 => some (((normOf s set).bind (·.clipf)).getD one32)
  | 2 => if st = 1 then some one32
    else if gnHolds s st (st - 1) then some (clipFactor (sdClipc d) (BitVec.ofNat 32 (getF s gnReg 0 32))) else none
  | _ => some one32

/-- Step 4: lr, clip factor and journal. A bale-record array whose header is poisoned is recorded (05 R178). -/
def startRun (s : State) (e : Fin 16) (run : UpdRun) (d r : Nat) (clipf : F32) : State :=
  let lr := match schedTable s (sdSched d) with
    | some t => lrAt t run.step (sdLrmult d)
    | none => 0
  let stg := gradAddr s run.set run.shard run.step r
  let tstep := match stagingOf s run.set run.shard run.step with
    | some x => x.tstep.toNat
    | none => run.step % 2 ^ 16
  let j := run.step % 2 ^ 48 + lr.toNat * 2 ^ 96 + clipf.toNat * 2 ^ 128 + run.set.toNat * 2 ^ 256 + run.shard.toNat * 2 ^ 272
    + stg * 2 ^ 304 + tstep * 2 ^ 352
  let s := onUpd (putJournal s r j) (fun u => { u with badBales := mdel u.badBales (shardKey run.set run.shard) })
  let s := if sdBrec d ≠ 0 ∧ (baleArray s (sdBrec d)).isNone then ledgerIllegal s (engSrc e) (sdLayer d) else s
  setEng (updEng s e (fun x => { x with run := some { run with begun := true, cursor := 0, lr := lr, clipf := clipf } })) e 1

/-- A part of the pre-pass over a whole shard: its sums, and the shard parked. -/
def runPart (s : State) (e : Fin 16) (run : UpdRun) (d r : Nat) (part : ParkReason) (clipf : F32) : State :=
  let bsz := gradBsz s d run.set run.shard run.step
  let stg := gradAddr s run.set run.shard run.step r
  let ws := progWords s (engManger e) (sdProg d)
  let ks := constsOf d run.step (match schedTable s (sdSched d) with | some t => lrAt t run.step (sdLrmult d) | none => 0)
  let grads (c : Nat) := gradElems (blockLen r c) (gradBales s stg (srLen r) bsz (4096 * c) (blockLen r c))
  let blocks := List.range (blockCount r)
  let sums : F32 × F32 × F32 :=
    if part = .norm then (openSum s 0 0 (blocks.flatMap (fun c => gsqTerms d (grads c))), 0, 0)
    else
      let es := blocks.flatMap (fun c => runBlock s d r ks ws clipf (grads c) false c)
      (0, openSum s 0 0 ((es.filter (fun x => !x.keep)).map (fun x => square (deltaOf x))), openSum s (srLen r + 1) 0 (es.map (fun x => square x.w)))
  let s := parkRun (drawn s (2 * (srLen r + 1))) e run part
  partDone s run.set run.shard d run.step part sums.1 sums.2.1 sums.2.2

/-- Carry an update on from where it stands: the next part of its pre-pass, or its commits. -/
def goOn (s : State) (e : Fin 16) (run : UpdRun) (d r : Nat) : State :=
  let x := engOf s e
  let hold (v : Nat) : State := setEng (putEng s e { x with run := some run }) e v
  if x.moves ≠ [] then hold 3
  else if sdClip d = 1 ∧ run.stage = 0 then
    if 16 ≤ x.parked.length then hold 2 else runPart s e run d r .norm one32
  else
    match clipOf s run.set d run.step with
    | none => hold 2
    | some f =>
      if uwrAct s d = 2 ∧ run.stage < 2 then
        if 16 ≤ x.parked.length then hold 2 else runPart s e run d r .trial f
      else startRun s e run d r f

/-- Move a shard's master and state segments of tiers 3 and 4 to the lofts and pin them (07 R233). What is pinned is kept
by shard, so that whichever engine ends the update unpins it. -/
def moveUp (s : State) (e : Fin 16) (run : UpdRun) (d r : Nat) : State :=
  let awaited (s : State) (n : Nat) : State :=
    let name := BitVec.ofNat 27 n
    let key := (run.set, run.shard, name)
    onUpd (updEng s e (fun x => { x with moves := x.moves ++ [name] }))
      (fun u => { u with upPins := if u.upPins.contains key then u.upPins else u.upPins ++ [key] })
  each (homeNames d r) (fun s n =>
    match nameRec s n with
    | none => s
    | some h =>
      if h.tier ≠ 3 ∧ h.tier ≠ 4 then s else
      match requestMove s { moveOf n with pinAfter := some true, forEngine := some e } 1 with
      | (0, s) => awaited s n
      | (_, s) => if h.tier = 3 then emit s (engSrc e) 0x0886 (n * segSize) 0 else awaited s n) s

/-- An update begins (07 R224). -/
def beginRun (s : State) (e : Fin 16) (set : BitVec 16) (shard : BitVec 24) (st d r : Nat) : State :=
  let run : UpdRun := { set := set, shard := shard, step := st }
  goOn (moveUp s e run d r) e run d r

/-- A failed move of a flash-backed segment is retried (07 R233). -/
def moveUpRetry (s : State) (e : Fin 16) : State :=
  each (engOf s e).moves (fun s n =>
    match nameRec s n.toNat with
    | none => engineMoved s e n.toNat
    | some h =>
      if h.tier = 4 ∧ h.move = 0 then
        (requestMove s { moveOf n.toNat with pinAfter := some true, forEngine := some e } 1).2
      else if h.tier ≠ 4 ∧ h.tier ≠ 3 ∧ h.move = 0 then engineMoved (setPin s n.toNat true).2 e n.toNat
      else s) s

def execMoveUpRetry (m : Mg) (e : Fin 4) (s : State) : Host.Outcome State Fault Refusal := finish s (moveUpRetry s (engAt m e))

/-! ### Triggers (07 R222, R229, R231) -/

def execTriggerPush (m : Mg) (e : Fin 4) (trig : Word) (s : State) : Host.Outcome State Fault Refusal :=
  finish s (match pushTrigger s (engAt m e) trig with
    | some s => s
    | none => engStatus (setF s (engReg (engAt m e) 8) 6 1 1) (engAt m e) 0x0804)

/-- A resumption from the journal (07 R229), with its event. -/
def resumeRun (s : State) (e : Fin 16) (set : BitVec 16) (shard : BitVec 24) (d r j : Nat) : State :=
  let s := emit s (engSrc e) 0x0881 (setShard set shard) (jPhase j + jCursor j * 2 ^ 16)
  let s := satF s (engReg e 0x28) 24 8 1
  let j := setBits j 56 8 (min (field j 56 8 + 1) 255)
  let s := putJournal s r j
  let run : UpdRun := { set := set, shard := shard, step := jStep j, stage := 2, begun := true, cursor := jCursor j
                        weightOnly := jPhase j = 1, lr := jLr j, clipf := jClipf j }
  match jPhase j with
  | 3 => if jSig j then s else signalFetch s e set shard d r
  | 2 => closeShard (weightsWritten s run) e set shard d r (jStep j)
  | _ =>
    let s := moveUp s e run d r
    setEng (updEng s e (fun x => { x with run := some run })) e (if (engOf s e).moves = [] then 1 else 3)

/-- Whether a secure point holds the next update of a set: its shards of the point's step have not been read
(16 R472, R476). -/
def pointHolds (s : State) (set : BitVec 16) (st : Nat) : Bool :=
  match s.svc.point with
  | some p => p.fixed && p.setsLeft.contains set && decide (p.step < st)
  | none => false

/-- A duplicate: the staging of that step is freed and nothing is applied. -/
def dropDuplicate (s : State) (e : Fin 16) (set : BitVec 16) (shard : BitVec 24) (st : Nat) : State :=
  emit (freeStaging s set shard st) (engSrc e) 0x0882 (setShard set shard) st

/-- Serve a trigger of kind update or resume taken from the ring: compare its step with the journal. -/
def serveTrigger (s : State) (e : Fin 16) (set : BitVec 16) (shard : BitVec 24) (low : Nat) (resume : Bool) : State :=
  match checkUpdate s e set shard with
  | .error (c, a, b) => refuseTrigger s e c a b
  | .ok (d, r) =>
    match journal s r with
    | none => journalLost s (engSrc e) set shard
    | some j =>
      let st := fullStep (jStep j + 1) low 16
      let run : UpdRun := { set := set, shard := shard, step := st }
      if isSuspect s set shard then parkRun s e run .suspect
      else if st = jStep j + 1 ∧ jPhase j = 3 then
        if resume ∧ (stagingOf s set shard st).isNone then s
        else if pointHolds s set st then parkRun s e run .point
        else beginRun s e set shard st d r
      else if st = jStep j ∧ jPhase j < 3 then resumeRun s e set shard d r j
      else if st ≤ jStep j then
        if resume ∧ st = jStep j ∧ !jSig j then resumeRun s e set shard d r j else dropDuplicate s e set shard st
      else emit (parkRun s e run .early) (engSrc e) 0x088A (setShard set shard) st

def trigSet (w : Word) : BitVec 16 := BitVec.ofNat 16 (recBits w 0 16)
def trigShard (w : Word) : BitVec 24 := BitVec.ofNat 24 (recBits w 16 24)
def trigStep (w : Word) : Nat := recBits w 40 16
def trigKind (w : Word) : Nat := recBits w 56 2

/-- Whether the gradient of an update that would begin is there to be read; a trigger ahead of it waits at the ring's head.
Any other trigger is compared at once (07 R231). -/
def gradReady (s : State) (set : BitVec 16) (shard : BitVec 24) (low : Nat) : Bool :=
  match setDesc s set with
  | none => true
  | some d => match shardRec s d shard with
    | none => true
    | some r => match journal s r with
      | none => true
      | some j => jPhase j != 3 || fullStep (jStep j + 1) low 16 != jStep j + 1 || (stagingOf s set shard (jStep j + 1)).isSome

/-- A released parked shard goes on. -/
def serveParked (s : State) (e : Fin 16) (p : Parked) : State :=
  let s := updEng s e (fun x => { x with parked := x.parked.erase p })
  match checkUpdate s e p.run.set p.run.shard with
  | .error (c, a, b) => refuseTrigger s e c a b
  | .ok (d, r) =>
    if p.reason = .norm ∨ p.reason = .trial then goOn s e p.run d r
    else serveTrigger s e p.run.set p.run.shard (p.run.step % 2 ^ 16) false

/-- An update that has not begun tries to go on. While it cannot, for want of a parked entry or of the global norm, a released
shard is served in its place, and it takes that shard's entry until its turn (07 R220). -/
def retryRun (s : State) (e : Fin 16) (run : UpdRun) : State :=
  match setDesc s run.set with
  | none => s
  | some d => match shardRec s d run.shard with
    | none => s
    | some r =>
      let s := goOn s e run d r
      let x := engOf s e
      match x.parked.find? (·.released), x.run with
      | some p, some w =>
        if w.begun ∨ x.moves ≠ [] then s
        else serveParked (putEng s e { x with run := none, parked := x.parked ++ [{ run := w, reason := .norm, released := true }] }) e p
      | _, _ => s

/-- An engine takes its next update trigger, a released parked shard first. -/
def updateTrigger (s : State) (e : Fin 16) : State :=
  let x := engOf s e
  if !engReady s e then s else
  match x.run with
  | some run => if run.begun then s else retryRun s e run
  | none =>
    match x.parked.find? (·.released) with
    | some p => serveParked s e p
    | none =>
      match x.ring with
      | [] => s
      | w :: _ =>
        if trigKind w = 3 then popRing s e
        else if trigKind w ≠ 0 ∨ 16 ≤ x.parked.length ∨ !gradReady s (trigSet w) (trigShard w) (trigStep w) then s
        else serveTrigger (popRing s e) e (trigSet w) (trigShard w) (trigStep w) false

def execUpdateTrigger (m : Mg) (e : Fin 4) (s : State) : Host.Outcome State Fault Refusal := finish s (updateTrigger s (engAt m e))

/-- A resume trigger at the ring's head (07 R229). -/
def resumeTrigger (s : State) (e : Fin 16) : State :=
  let x := engOf s e
  match x.ring with
  | [] => s
  | w :: _ =>
    if !engReady s e ∨ x.run.isSome ∨ trigKind w ≠ 2 ∨ 16 ≤ x.parked.length then s
    else serveTrigger (popRing s e) e (trigSet w) (trigShard w) (trigStep w) true

def execResumeTrigger (m : Mg) (e : Fin 4) (s : State) : Host.Outcome State Fault Refusal := finish s (resumeTrigger s (engAt m e))

/-! ### Block commits (07 R228) -/

/-- Write the derived copies of a block from its new masters. A bale whose every element is kept keeps its codes. -/
def writeCopies (s : State) (d r c : Nat) (vals : List Val) (keep : List Bool) : State :=
  each [0, 1] (fun s i =>
    let cp := sdCopy d i
    if !cp.en then s else
    each (List.range (ceilDiv (blockLen r c) cp.bale)) (fun s k =>
      let part := (vals.drop (cp.bale * k)).take cp.bale
      if ((keep.drop (cp.bale * k)).take cp.bale).all id then s
      else writeCopyBale s cp (srCopy r i) (srLen r) (4096 * c / cp.bale + k) part) s) s

/-- The poisoned-gradient event of an update, where it met such bales (07 R235). -/
def poisonedEvent (s : State) (e : Fin 16) (run : UpdRun) (n : Nat) : State :=
  if n = 0 then s else emit s (engSrc e) 0x0883 (setShard run.set run.shard) n

/-- Commit block `run.cursor`. -/
def commitBlock (s : State) (e : Fin 16) (run : UpdRun) (d r j : Nat) : State :=
  let c := run.cursor
  let lo := 4096 * c
  let n := blockLen r c
  let bsz := gradBsz s d run.set run.shard run.step
  let bs := if run.weightOnly then [] else gradBales s (jStg j) (srLen r) bsz lo n
  let gs := gradElems n bs
  let ks := constsOf d run.step run.lr
  let ws := progWords s (engManger e) (sdProg d)
  let es := runBlock s d r ks ws run.clipf gs run.weightOnly c
  let key := getReg s (mangerReg (engManger e) 0x300018)
  let bits (i : Nat) : BitVec 16 := srBits key run.set run.step (srStart r + lo + i)
  let ms := es.zipIdx.map (fun x => newMaster d x.1 (bits x.2))
  -- the new state, then the master, then the copies
  let s := if run.weightOnly then s else
    each (List.range (sdNstate d)) (fun s k =>
      writeRange s (stateAt d r k lo) (es.zipIdx.flatMap (fun x => toBytes (stBytes d) (newState d x.1 (bits x.2) k))) false) s
  let s := writeRange s (masterAt d r lo) (ms.flatMap (toBytes (mBytes d))) false
  let s := writeCopies s d r c (ms.map (masterVal d)) (es.map (·.keep))
  -- the sums
  let live := es.filter (fun x => !x.keep)
  let nans := (live.filter (fun x => !vFinite (val32 x.out.w))).length
  let acc (j lo : Nat) : F32 := BitVec.ofNat 32 (field j lo 32)
  let j := setBits j 160 32 (openSum s 0 (acc j 160) (gsqTerms d gs)).toNat
  let j := setBits j 192 32 (openSum s (n + 1) (acc j 192) (live.map (fun x => square (deltaOf x)))).toNat
  let j := setBits j 224 32 (openSum s (2 * (n + 1)) (acc j 224) (es.map (fun x => square x.w))).toNat
  let bad := (bs.filter badBale).length
  let j := if bad = 0 then j else setBits j 51 1 1
  let gsum := openSum s (3 * (n + 1)) (BitVec.ofNat 32 (getF s gnAcc (gnBank run.step) 32)) (gsqTerms d gs)
  let s := setF (drawn s (4 * (n + 1))) gnAcc (gnBank run.step) 32 gsum.toNat
  let s := onUpd s (fun u => { u with gnStep := max u.gnStep run.step })
  let s := if run.weightOnly then s else adjustBales s run.set (engManger e) d run.step ((srStart r + lo) / bsz) bs
  let s := satF s (engReg e 0x28) 48 16 nans
  let s := satF s (engReg e 0x18) 0 48 1
  let key := shardKey run.set run.shard
  let total := mget s.upd.badBales 0 key + bad
  let s := onUpd s (fun u => { u with badBales := mset u.badBales 0 key total })
  let run := { run with cursor := c + 1, weightOnly := false }
  if c + 1 < blockCount r then
    let s := putJournal s r (setBits (setBits j 48 2 0) 64 32 (c + 1))
    updEng s e (fun x => { x with run := some run })
  else
    let s := putJournal s r (setBits (setBits j 48 2 2) 64 32 (c + 1))
    let s := poisonedEvent s e run total
    closeShard (weightsWritten s run) e run.set run.shard d r run.step

/-- Whether a block's master or state holds poison. -/
def blockPoisoned (s : State) (d r c : Nat) : Bool :=
  poisonRange s (masterAt d r (4096 * c)) (mBytes d * blockLen r c)
  || (List.range (sdNstate d)).any (fun k => poisonRange s (stateAt d r k (4096 * c)) (stBytes d * blockLen r c))

/-- Whether a home of the block is moving, so that its writes wait (10 R306). -/
def blockMoving (s : State) (d r c : Nat) : Bool :=
  rangeMoving s (masterAt d r (4096 * c)) (mBytes d * blockLen r c) || rangeMoving s (srJrnl r) 64
  || (List.range (sdNstate d)).any (fun k => rangeMoving s (stateAt d r k (4096 * c)) (stBytes d * blockLen r c))
  || [0, 1].any (fun i => (sdCopy d i).en && rangeMoving s (srCopy r i) (copyBytes (sdCopy d i) (srCopy r i) (srLen r)))

def blockCommit (s : State) (e : Fin 16) : State :=
  match (engOf s e).run with
  | none => s
  | some run =>
    if !engReady s e ∨ !run.begun ∨ (engOf s e).moves ≠ [] then s else
    match checkUpdate s e run.set run.shard with
    | .error (c, a, b) => refuseTrigger (setEng (updEng s e (fun x => { x with run := none })) e 0) e c a b
    | .ok (d, r) =>
      match journal s r with
      | none => journalLost (setEng s e 0) (engSrc e) run.set run.shard
      | some j =>
        if blockMoving s d r run.cursor then s
        else if blockPoisoned s d r run.cursor then journalLost (setEng s e 0) (engSrc e) run.set run.shard
        else commitBlock s e run d r j

def execBlockCommit (m : Mg) (e : Fin 4) (s : State) : Host.Outcome State Fault Refusal := finish s (blockCommit s (engAt m e))

/-! ### The norm exchange (07 R220) -/

/-- A skipped shard: its bale records are adjusted from the gradient and its journal completes with skip (05 R171). No block
is committed, so the journal's sums over committed blocks and over weight changes are 0. -/
def skipShard (s : State) (e : Fin 16) (run : UpdRun) (d r : Nat) (clipf : F32) : State :=
  let bsz := gradBsz s d run.set run.shard run.step
  let bs := gradBales s (gradAddr s run.set run.shard run.step r) (srLen r) bsz 0 (srLen r)
  let s := adjustBales s run.set (engManger e) d run.step (srStart r / bsz) bs
  let lr := match schedTable s (sdSched d) with
    | some t => lrAt t run.step (sdLrmult d)
    | none => 0
  let ws := (List.range (srLen r)).map (fun i => square (to32 (masterVal d (ofBytes (readRange s (masterAt d r i) (mBytes d))))))
  let bad := (bs.filter badBale).length
  let wsq := openSum s 0 0 ws
  let s := poisonedEvent (drawn s (ws.length + 1)) e run bad
  let j := run.step % 2 ^ 48 + 2 * 2 ^ 48 + 2 ^ 50 + (if bad = 0 then 0 else 2 ^ 51) + blockCount r * 2 ^ 64 + lr.toNat * 2 ^ 96
    + clipf.toNat * 2 ^ 128 + wsq.toNat * 2 ^ 224 + run.set.toNat * 2 ^ 256 + run.shard.toNat * 2 ^ 272 + gradAddr s run.set run.shard run.step r * 2 ^ 304 + (run.step % 2 ^ 16) * 2 ^ 352
  let st := engState s e
  let held := (engOf s e).run
  let s := closeShard (weightsWritten (putJournal s r j) run) e run.set run.shard d r run.step
  setEng (updEng s e (fun x => { x with run := held })) e st

/-- Complete every parked shard of a set with skip. -/
def skipSet (s : State) (set : BitVec 16) (d : Nat) (clipf : F32) : State :=
  each (List.finRange 16) (fun s e =>
    let mine := (engOf s e).parked.filter (fun p => p.run.set == set && p.reason == .trial)
    let s := updEng s e (fun x => { x with parked := x.parked.filter (fun p => !(p.run.set == set && p.reason == .trial)) })
    each mine (fun s p => match shardRec s d p.run.shard with
      | some r => skipShard s e p.run d r clipf
      | none => s) s) s

/-- MG0's TAKE is met: sum the cells, and release or skip. -/
def normExchange (s : State) (set : BitVec 16) : State :=
  let (status, s) := takeWake s (.norm set)
  match normOf s set, setDesc s set with
  | some (n : NormSt), some d =>
    if !n.sent ∨ !(n.met || status = some 0) then s else
    let n := { n with met := true }
    if n.part = .norm then
      let f := clipFactor (sdClipc d) (sqrt32 (sumCells s (sdNrec d) (sdNown d) 0))
      let s := putNorm s set { n with clipf := some f, sent := false }
      unpark s (fun p => if p.reason = .norm ∧ p.run.set = set ∧ p.run.step = n.step then some { p.run with stage := 1 } else none)
    else
      let ratio := ratioOf (sumCells s (sdNrec d) (sdNown d) 4) (sumCells s (sdNrec d) (sdNown d) 8)
      let s := putNorm s set { n with sent := false }
      let (s, hit) := writeRatio s d n.step ratio
      if hit && uwrAct s d == 2 then
        skipSet (emit s (srcManger 0 0x3F) 0x08C2 (sdLayer d) ratio.toNat) set d ((clipOf s set d n.step).getD one32)
      else
        unpark s (fun p => if p.reason = .trial ∧ p.run.set = set ∧ p.run.step = n.step then some { p.run with stage := 2 } else none)
  | _, _ => s

def execNormExchange (set : BitVec 16) (s : State) : Host.Outcome State Fault Refusal := finish s (normExchange s set)

/-- The TAKE of a set's exchange has ended. -/
def normWoken (s : State) (set : BitVec 16) (status : Nat) : State :=
  match normOf s set with
  | some n => if status = 0 then normExchange (putNorm s set { n with met := true }) set else s
  | none => s

/-- An exchange still incomplete after 10 ms is recorded, and again every 10 ms; 0xFFFF names the global norm. -/
def execNormWaitTimeout (set : BitVec 16) (s : State) : Host.Outcome State Fault Refusal :=
  finish s (
    let waits := if set = 0xFFFF then s.upd.gn.isSome
      else match normOf s set with
        | some n => n.sent
        | none => false
    when waits (fun s => emit s (srcManger 0 0x3F) 0x0888 set.toNat 0) s)

/-! ### Stop, resume and failure (07 R235, R237) -/

/-- The state an engine shows when it is not stopped. -/
def engShown (x : EngSt) : Nat :=
  match x.run with
  | none => 0
  | some r => if r.begun then 1 else if x.moves ≠ [] then 3 else 2

def engineStop (s : State) (e : Fin 16) : State := if engState s e = 5 then s else setEng s e 4
def engineResume (s : State) (e : Fin 16) : State := if engState s e = 4 then setEng s e (engShown (engOf s e)) else s

def execEngineStop (m : Mg) (e : Fin 4) (s : State) : Host.Outcome State Fault Refusal := finish s (engineStop s (engAt m e))
def execEngineResume (m : Mg) (e : Fin 4) (s : State) : Host.Outcome State Fault Refusal := finish s (engineResume s (engAt m e))

/-- The index within the manger of the engine that takes over from one that failed. -/
def heirOf (s : State) (e : Fin 16) : Nat :=
  let b := e.val / 4 * 4
  ([1, 2, 3].map (fun i => (e.val % 4 + i) % 4)).find? (fun i => engUp s ⟨(b + i) % 16, by omega⟩) |>.getD ((e.val + 1) % 4)

/-- What an engine holds passes to another: a resume trigger for an update that had begun, a trigger for one that had not, its
ring, and its parked shards. What the other ring has no room for waits. -/
def passShards (s : State) (e t : Fin 16) : State :=
  let x := engOf s e
  let own : List Word := match x.run with
    | some r => [triggerWord r.set r.shard r.step (if r.begun then 2 else 0)]
    | none => []
  let s := updEng (putEng s e {}) t (fun y => { y with parked := y.parked ++ x.parked, sigWait := y.sigWait ++ x.sigWait })
  each (own ++ x.ring) (fun s w => pushLater s t w) s

/-- An engine fails: its shards pass on, and served_by of it, and of each that failed before it, names the engine of the
manger that serves its shards now (07 R235, R237). -/
def engineFault (s : State) (e : Fin 16) : State :=
  if engState s e = 5 then s else
  let s := setEng s e 5
  let s := each ((List.finRange 16).filter (fun f => f.val / 4 == e.val / 4 && engState s f == 5)) (fun s f => setF s (engReg f 8) 4 2 (heirOf s f)) s
  let t := serving s e
  let s := if t = e then s else passShards s e t
  emit s (engSrc e) 0x0887 e.val 0

def execEngineFault (m : Mg) (e : Fin 4) (s : State) : Host.Outcome State Fault Refusal := finish s (engineFault s (engAt m e))

/-- Whether some engine of a manger runs a program slot (07 R213). -/
def progInUse (s : State) (m : Mg) (p : Nat) : Bool :=
  (List.finRange 4).any (fun e => match (engOf s (engAt m e)).run with
    | some r => (match setDesc s r.set with | some d => sdProg d == p | none => false)
    | none => false)

/-- The first engine of a manger that runs a program slot: the discarded write's event names it (07 R238). -/
def slotEngine (s : State) (m : Mg) (p : Nat) : Fin 16 :=
  (((List.finRange 4).find? (fun e => match (engOf s (engAt m e)).run with
    | some r => (match setDesc s r.set with | some d => sdProg d == p | none => false)
    | none => false)).map (engAt m)).getD (engAt m 0)

/-- A write of a program word; discarded with a status while an engine of the manger runs the slot. -/
def programWrite (s : State) (m : Mg) (p i : Nat) (w : Word) : State :=
  if progInUse s m p then
    each (List.finRange 4) (fun s e => match (engOf s (engAt m e)).run with
      | some _ => engStatus s (engAt m e) 0x0805
      | none => s) (emit s (engSrc (slotEngine s m p)) 0x0805 p i)
  else setReg s (progReg m p i) w

end Sys2Proof.Machine
end

