-- ==== Sys2Proof/Machine/Fetch.lean ====
section
/-! DEFINITION. Fetches of derived copies (07 R225), regeneration (07 R226) and the refill of pinned copies
(08 R244, R245). -/

namespace Sys2Proof.Machine

/-! ### Pending fetches (07 R225) -/

def fetchKey (m : Mg) (b : Fin 4) : Nat := m.val * 4 + b.val
def fetchList (s : State) (m : Mg) (b : Fin 4) : List Fetch := mget s.upd.fetches [] (fetchKey m b)
def putFetches (s : State) (m : Mg) (b : Fin 4) (l : List Fetch) : State :=
  onUpd s (fun u => { u with fetches := mset u.fetches [] (fetchKey m b) l })
def fetchAgent (m : Mg) (b : Fin 4) (f : Fetch) : Agent := .fetch m b f.set f.shard

/-- The same fetch: refreshes are kept apart from fetches. -/
def sameFetch (a b : Fetch) : Bool := a.set == b.set && a.shard == b.shard && a.refresh == b.refresh

def updFetch (s : State) (m : Mg) (b : Fin 4) (f : Fetch) : State :=
  putFetches s m b ((fetchList s m b).map (fun g => if sameFetch g f then f else g))
def dropFetch (s : State) (m : Mg) (b : Fin 4) (f : Fetch) : State :=
  putFetches s m b ((fetchList s m b).filter (fun g => !sameFetch g f))

/-- The shards that a fetch barrow serves, in order: those of its engine field in sets whose replica list names this
module. -/
def fetchShards (s : State) (m : Mg) (b : Fin 4) : List (BitVec 16 × BitVec 24 × Nat × Nat) :=
  (List.range (getF s (mangerReg 0 0x300000) 48 16 + 1)).flatMap (fun i =>
    let set := BitVec.ofNat 16 i
    match setDesc s set with
    | none => []
    | some d =>
      if sdLegal d && (replicas s d).contains (ownModule s) then
        (shardsOf s d).filterMap (fun e => if (srEng e.2).val = fetchKey m b then some (set, e.1, d, e.2) else none)
      else [])

/-- The next shard without a pending fetch, after the one registered last. -/
def nextFetch (s : State) (m : Mg) (b : Fin 4) : Option (BitVec 16 × BitVec 24 × Nat × Nat) :=
  let free := (fetchShards s m b).filter (fun e =>
    !(fetchList s m b).any (fun f => !f.refresh && f.set == e.1 && f.shard == e.2.1))
  let pos := mfind s.upd.fetchPos (fetchKey m b)
  let later (e : BitVec 16 × BitVec 24 × Nat × Nat) : Bool := match pos with
    | some p => decide (p < shardKey e.1 e.2.1)
    | none => true
  (free.find? later).orElse (fun _ => free.head?)

/-- The TAKE of a fetch: met at once, or waiting. -/
def askFetch (s : State) (m : Mg) (b : Fin 4) (f : Fetch) (r : Nat) : State :=
  match askNow s (fetchAgent m b f) .take (srFtally r) 1 with
  | (some 0, s) => updFetch s m b { f with met := true }
  | (_, s) => s

/-- Register the next fetch, 64 pending at most. -/
def registerFetch (s : State) (m : Mg) (b : Fin 4) : State :=
  if 64 ≤ (fetchList s m b).length then s else
  match nextFetch s m b with
  | none => s
  | some (set, shard, _, r) =>
    let f : Fetch := { set := set, shard := shard, step := (mfind s.upd.fetched (shardKey set shard)).map (· + 1) }
    let s := putFetches s m b (fetchList s m b ++ [f])
    let s := onUpd s (fun u => { u with fetchPos := mput u.fetchPos (fetchKey m b) (shardKey set shard) })
    askFetch s m b f r

/-- What a fetch copies of step `st`: addresses and lengths, the same on every module. -/
def fetchParts (s : State) (d r st : Nat) : List (Nat × Nat) :=
  ([0, 1].filterMap (fun i =>
    let c := sdCopy d i
    if c.en && c.fetch then some (srCopy r i, copyBytes c (srCopy r i) (srLen r)) else none))
  ++ (match (if sdBrec d = 0 then none else baleArray s (sdBrec d)) with
      | some a => [(recAddr a (st + 1) (srStart r / a.bsz), 2 * (srLen r / a.bsz))]
      | none => [])

/-- Reads of at most 4,096 B. -/
def chunksOf : Nat → Nat → Nat → List (Nat × Nat)
  | 0, _, _ => []
  | fuel + 1, a, n => if n = 0 then [] else (a, min n 4096) :: chunksOf fuel (a + 4096) (n - 4096)
def fetchChunks (s : State) (d r st : Nat) : List (Nat × Nat) :=
  (fetchParts s d r st).flatMap (fun p => chunksOf (p.2 / 4096 + 1) p.1 p.2)

/-- The fetch is done: it arrives at ugate, and the shard stands at step `st` here. -/
def arriveFetch (s : State) (m : Mg) (b : Fin 4) (f : Fetch) (d st : Nat) : State :=
  let key := shardKey f.set f.shard
  let fresh := !f.refresh || (match mfind s.upd.fetched key with | some t => decide (t < st) | none => true)
  let s := dropFetch s m b f
  if fresh then
    applySignal (onUpd s (fun u => { u with fetched := mput u.fetched key st })) (fetchAgent m b f) (sdUgate d)
  else s

/-- Whether the owner's journal is the one awaited. -/
def journalFits (f : Fetch) (j : Nat) : Bool :=
  jPhase j == 3 && (f.refresh || (match f.step with | some t => jStep j == t | none => true))

/-- A journal that does not fit: a duplicate signal is counted and the fetch waits again; a refresh ends. -/
def unfitFetch (s : State) (m : Mg) (b : Fin 4) (f : Fetch) (r : Nat) : State :=
  if f.refresh then dropFetch s m b f
  else
    let s := satF s (engReg (srEng r) 0x28) 32 16 1
    let f := { f with met := false, journal := none, asked := 0, data := [] }
    askFetch (updFetch s m b f) m b f r

/-- Write what was read of the owner's copies. -/
def landFetch (s : State) (m : Mg) (b : Fin 4) (f : Fetch) (d st : Nat) : State :=
  let a := fetchAgent m b f
  if f.data.any (fun x => rangeMoving s x.1 x.2.1.length) then s
  else arriveFetch (each f.data (fun s x => writeMem s a x.1 x.2.1 x.2.2) s) m b f d st

/-- A fetch whose TAKE is met goes on: the owner's journal, then the copies, then the arrival. -/
def runFetch (s : State) (m : Mg) (b : Fin 4) (f : Fetch) : State :=
  match setDesc s f.set with
  | none => s
  | some d => match shardRec s d f.shard with
    | none => s
    | some r =>
      let a := fetchAgent m b f
      if localShard s r then
        match journal s r with
        | none => journalLost s (engSrc (srEng r)) f.set f.shard
        | some j => if journalFits f j then arriveFetch s m b f d (jStep j) else unfitFetch s m b f r
      else
        let idle := (waitingOf s a 1).isEmpty
        match f.journal with
        | none =>
          (match f.data with
          | (_, bytes, bad) :: _ =>
            if bad then updFetch s m b { f with asked := 0, data := [] }
            else updFetch s m b { f with journal := some (BitVec.ofNat 512 (ofBytes bytes)), asked := 1, data := [] }
          | [] =>
            if f.asked = 1 && !idle then s
            else match readRemote s a (srModule r) (srJrnl r) 64 with
              | (0, s) => updFetch s m b { f with asked := 1 }
              | (_, s) => s)
        | some j =>
          if !journalFits f j.toNat then unfitFetch s m b f r
          else
            let want := fetchChunks s d r (jStep j.toNat)
            if f.asked = 1 then
              let (ok, s) := want.foldl (fun (p : Bool × State) c =>
                let (code, s) := readRemote p.2 a (srModule r) c.1 c.2
                (p.1 && code == 0, s)) (true, s)
              if ok then updFetch s m b { f with asked := 2 } else s
            else if !idle then s
            else if f.data.length < want.length then updFetch s m b { f with asked := 1, data := [] }
            else landFetch s m b f d (jStep j.toNat)

/-- SHARD_FETCH: the oldest fetch whose TAKE is met goes on; with none, the next is registered. -/
def shardFetch (s : State) (m : Mg) (b : Fin 4) : State :=
  match (fetchList s m b).find? (·.met) with
  | some f => runFetch s m b f
  | none => registerFetch s m b

def execShardFetch (m : Mg) (b : Fin 4) (s : State) : Host.Outcome State Fault Refusal := finish s (shardFetch s m b)

def fetchWoken (s : State) (m : Mg) (b : Fin 4) (set : BitVec 16) (shard : BitVec 24) (status : Nat) : State :=
  match (fetchList s m b).find? (fun f => f.set == set && f.shard == shard && !f.refresh) with
  | some f => if status = 0 then updFetch s m b { f with met := true } else dropFetch s m b f
  | none => s

/-! ### Regeneration (07 R226) -/

/-- The barrow of a shard's engine field. -/
def fetchBarrow (r : Nat) : Mg × Fin 4 := (⟨(srEng r).val / 4, by omega⟩, ⟨(srEng r).val % 4, by omega⟩)

/-- Names of a shard's derived copies are suspect no longer. -/
def copiesSound (s : State) (d r : Nat) : State :=
  each [0, 1] (fun s i =>
    let c := sdCopy d i
    if !c.en then s else
    each (segsOf (srCopy r i) (copyBytes c (srCopy r i) (srLen r))) (fun s a => match nameRec s (a / segSize) with
      | some h => putRec s (a / segSize) { h with suspect := false }
      | none => s) s) s

/-- Rewrite every derived copy of a shard from its master. -/
def rewriteCopies (s : State) (d r : Nat) : State :=
  copiesSound (each (List.range (blockCount r)) (fun s c =>
    let n := blockLen r c
    let vals := (List.range n).map (fun i => masterVal d (ofBytes (readRange s (masterAt d r (4096 * c + i)) (mBytes d))))
    writeCopies s d r c vals (List.replicate n false)) s) d r

/-- A regenerate trigger. -/
def regenerate (s : State) (e : Fin 16) (set : BitVec 16) (shard : BitVec 24) (announce : Bool) : State :=
  match setDesc s set with
  | none => refuseTrigger s e 0x0801 set.toNat 0
  | some d =>
    if !sdLegal d then refuseTrigger s e 0x0801 set.toNat 0
    else if sdShards d ≤ shard.toNat then refuseTrigger s e 0x0803 set.toNat shard.toNat
    else match shardRec s d shard with
      | none => refuseTrigger s e 0x0801 set.toNat 0
      | some r =>
        if !localShard s r then
          let (m, b) := fetchBarrow r
          let f : Fetch := { set := set, shard := shard, refresh := true, met := true }
          if (fetchList s m b).any (sameFetch f) then s else putFetches s m b (fetchList s m b ++ [f])
        else match journal s r with
          | none => journalLost s (engSrc e) set shard
          | some j =>
            if jPhase j < 3 then resumeRun s e set shard d r j
            else if (List.range (blockCount r)).any (fun c => poisonRange s (masterAt d r (4096 * c)) (mBytes d * blockLen r c)) then
              journalLost s (engSrc e) set shard
            else
              let s := rewriteCopies s d r
              if announce then signalFetch (putJournal s r (setBits j 52 1 0)) e set shard d r else s

def regenerateTrigger (s : State) (e : Fin 16) : State :=
  let x := engOf s e
  match x.ring with
  | [] => s
  | w :: _ =>
    if !engReady s e ∨ x.run.isSome ∨ trigKind w ≠ 1 then s
    else regenerate (popRing s e) e (trigSet w) (trigShard w) (trigStep w % 2 == 1)

def execRegenerateTrigger (m : Mg) (e : Fin 4) (s : State) : Host.Outcome State Fault Refusal :=
  finish s (regenerateTrigger s (engAt m e))

/-! ### Pinned copies (08 R244, R245) -/

def pmN (h : Nat) : Nat := field h 0 16
def pmRtally (h : Nat) : Sref := BitVec.ofNat 24 (field h 16 24)
def peSet (e : Nat) : BitVec 16 := BitVec.ofNat 16 (field e 0 16)
def peDst (e : Nat) : Nat := field e 16 48
def peHeld (e : Nat) : Nat := field e 64 48
def peKeep (e : Nat) : Bool := bitOf e 112

/-- Elements of a set. -/
def setElems (s : State) (d : Nat) : Nat := ((shardsOf s d).map (fun e => srLen e.2)).foldl (· + ·) 0

/-- The dst tensor when it fits the set's rollout copy. -/
def pinTensor (s : State) (d e : Nat) : Option Tensor :=
  match readTensor s (peDst e) .dest with
  | .error _ => none
  | .ok t =>
    let c := sdCopy d 1
    if c.en && elemCount t == setElems s d && t.fmt == c.fmt && !t.lsel
        && (if copyHasScales c then t.bale == c.bale && t.sfmt == (if c.ue then 0xE else 0xD) else t.bale == 0) then some t else none

/-- The step of a set's copy that stands here. -/
def copyStep (s : State) (set : BitVec 16) (d : Nat) : Nat :=
  match mfind s.upd.fetched (shardKey set 0) with
  | some t => t
  | none => match (shardRec s d 0).bind (journal s) with
    | some j => jStep j
    | none => 0

/-! #### The refilling barrows -/

/-- A barrow of a stall that refills: of those on the edge that faces the mangers, IOU barrows 0 to 7 in logical rows 0 and 1
and 24 to 31 in rows 2 and 3, a free choice (08 R245). -/
def refillBarrow (s : State) (st : Stall) : BrwId × State :=
  let top := match stallLp s st with | some p => decide (p / 7 < 2) | none => true
  let (k, s) := pick s 8
  (⟨⟨st.val, by omega⟩, ⟨((if top then 0 else 24) + k) % 32, by omega⟩⟩, s)

/-- What a refill has done in a stall: bits of values, scales, and the poisoned source tokens that it read. -/
structure Refilled where
  stall : Stall
  bits : Nat
  scales : Nat
  bad : List Nat
  deriving DecidableEq, Repr

def Refilled.bytes (x : Refilled) : Nat := ceilDiv x.bits 8 + x.scales

/-- Add to what was done in a stall. -/
def addRefilled (l : List Refilled) (x : Refilled) : List Refilled :=
  if l.any (·.stall == x.stall) then
    l.map (fun y => if y.stall = x.stall then { y with bits := y.bits + x.bits, scales := y.scales + x.scales, bad := (y.bad ++ x.bad).eraseDups } else y)
  else l ++ [x]

/-- A refill's bytes and poisoned tokens in a stall, counted and recorded by the barrow that moved them (09 R282, R284). -/
def noteRefill (s : State) (x : Refilled) : State :=
  let (b, s) := refillBarrow s x.stall
  let s := satF (satF s (brwBase b + 0x30) 0 48 x.bytes) (brwBase b + 0x48) 0 32 x.bad.length
  match x.bad with
  | [] => s
  | a :: _ => emit s (brwSrc s b) 0x0182 a x.bad.length

/-- Copy the rollout copy of a shard into the blocks of dst, or into those of one stall. -/
def pinShard (s : State) (t : Tensor) (c : CopySpec) (r : Nat) (only : Option Stall) : State × List Refilled :=
  let w := fmtBits c.fmt
  let base := srCopy r 1
  let spots := (List.range (srLen r)).filterMap (fun k =>
    (spotOf s t ((walk t.size)[srStart r + k]?.getD [])).bind (fun p =>
      if only.isSome ∧ spotStall p ≠ only then none else (spotStall p).map (fun st => (k, p, st))))
  let lo (k : Nat) : Nat := base + (k * w) / 8
  let n (k : Nat) : Nat := ceilDiv ((k * w) % 8 + w) 8
  let bad (k : Nat) : Bool := poisonRange s (lo k) (n k)
  let puts := spots.flatMap (fun e =>
    splitBits w e.2.1.bit w (field (ofBytes (readRange s (lo e.1) (n e.1))) ((e.1 * w) % 8) w) (bad e.1))
  let scaled := if copyHasScales c then spots.filter (fun e => e.1 % c.bale == 0) else []
  let s' := each scaled (fun s e =>
    let a := copyScales c base (srLen r) + e.1 / c.bale
    if c.fmt = 0xC then
      { s with tags := (linesOf (e.2.1.bit / 8) (2 * c.bale)).foldl (fun m x => mput m (x / 64) ((readRange s a 1).getD 0 0)) s.tags }
    else writeRange s e.2.1.scale (readRange s a 1) (poisonRange s a 1)) (writePuts s puts)
  let done := spots.foldl (fun l e => addRefilled l
    { stall := e.2.2, bits := w, scales := if copyHasScales c && e.1 % c.bale == 0 then 1 else 0
      bad := if bad e.1 then [lo e.1 / 64 * 64] else [] }) []
  (s', done)

/-- Copy the rollout copy of a set into dst, or into its blocks of one stall. -/
def pinSet (s : State) (d : Nat) (t : Tensor) (only : Option Stall) : State × List Refilled :=
  let (s, l) := (shardsOf s d).foldl (fun (p : State × List Refilled) x =>
    let (s, k) := pinShard p.1 t (sdCopy d 1) x.2 only
    (s, k.foldl addRefilled p.2)) (s, [])
  (l.foldl noteRefill s, l)

/-- The source of a pin map's events: a barrow that refills, or of the stall that carries LP00 while none is known
(08 R254; DESIGN CHOICE, log entry 131). -/
def pinSource (s : State) (l : List Refilled) : BitVec 16 :=
  let st := match l with
    | x :: _ => some x.stall
    | [] => lpStall s 0
  match st with
  | some st => let (b, s) := refillBarrow s st; brwSrc s b
  | none => srcManger 0 0x3F

/-- The refill of an entry once the gate has released. -/
def pinCopy (s : State) (map : Addr) (entry : Nat) (h e d : Nat) (t : Tensor) : State :=
  let st := copyStep s (peSet e) d
  let raise (s : State) (l : List Refilled) : State :=
    let src := pinSource s l
    syncCore (emit s src 0x0290 (peSet e).toNat (sumOf (l.map Refilled.bytes))) (.pin map entry) false src .add (pmRtally h) 1
  let s := onUpd s (fun u => { u with pinMaps := if u.pinMaps.contains map then u.pinMaps else u.pinMaps ++ [map] })
  if peKeep e ∧ peHeld e = st then raise s []
  else
    let (s, l) := pinSet s d t none
    raise (writeRange s (map.toNat + 64 + 32 * entry) (toBytes 32 (setBits e 64 48 st)) false) l

def pinDone (s : State) (map : Addr) (entry : Nat) : State :=
  onUpd s (fun u => { u with pins := u.pins.filter (fun p => !(p.1 == map && p.2.1 == entry)) })

/-- Whether a rollout batch runs that took a tally: a RUN entry's TAKE of it has been met, and the region's sequencer has
switched to no other slot since, nor waits for that tally again (08 R251, R252; the model's reading, log entry 131). -/
def batchRuns (s : State) (rtally : Sref) : Bool :=
  s.seqs.any (fun e => seqLive e.2 && e.2.batch.any (fun b => b.2.contains rtally))

/-- An entry of a pin map that keeps R244, with its set's descriptor and its dst; or the set that its event names. -/
def pinEntry (s : State) (map : Addr) (h entry : Nat) : Except Nat (Nat × Nat × Tensor) :=
  if pmN h = 0 ∨ 4096 < pmN h ∨ field h 40 472 ≠ 0 then .error 0 else
  match readRec s (map.toNat + 64 + 32 * entry) 32 with
  | none => .error 0
  | some e =>
    match setDesc s (peSet e) with
    | none => .error (peSet e).toNat
    | some d => match pinTensor s d e with
      | none => .error (peSet e).toNat
      | some t => if field e 113 143 = 0 then .ok (e, d, t) else .error (peSet e).toNat

/-- PIN_REFILL of an entry of a pin map. A refill whose gate has released waits while a rollout batch runs. -/
def pinRefill (s : State) (map : Addr) (entry : Nat) : State :=
  let illegal (set : Nat) : State := emit s (pinSource s []) 0x0217 entry set
  match readRec s map.toNat 64 with
  | none => illegal 0
  | some h =>
    if pmN h ≤ entry ∧ pmN h ≠ 0 then s else
    match pinEntry s map h entry with
    | .error set => illegal set
    | .ok (e, d, t) =>
      let runs := batchRuns s (pmRtally h)
      let wait (s : State) (met : Bool) : State := onUpd s (fun u => { u with pins := u.pins ++ [(map, entry, met)] })
      match s.upd.pins.find? (fun p => p.1 == map && p.2.1 == entry) with
      | some (_, _, true) => if runs then s else pinCopy (pinDone s map entry) map entry h e d t
      | some (_, _, false) => s
      | none =>
        match askNow s (.pin map entry) .arriveWait (sdUgate d) 0 with
        | (some 0, s) => if runs then wait s true else pinCopy s map entry h e d t
        | (some _, s) => s
        | (none, s) => wait s false

/-- The pinned share of a stall is refilled from the lofts, in every map that has been refilled (08 R253). -/
def pinShares (s : State) (st : Stall) : State :=
  each s.upd.pinMaps (fun s map => match readRec s map.toNat 64 with
    | none => s
    | some h => each (List.range (min 4096 (pmN h))) (fun s i => match pinEntry s map h i with
      | .error _ => s
      | .ok (e, d, t) => if peHeld e = 0 then s else (pinSet s d t (some st)).1) s) s

def execPinRefill (map : Addr) (entry : Nat) (s : State) : Host.Outcome State Fault Refusal := finish s (pinRefill s map entry)

/-- The gate has released: the refill runs. -/
def pinWoken (s : State) (map : Addr) (entry : Nat) (status : Nat) : State :=
  if status = 0 then
    pinRefill (onUpd s (fun u => { u with pins := u.pins.map (fun p => if p.1 = map ∧ p.2.1 = entry then (p.1, p.2.1, true) else p) })) map entry
  else pinDone s map entry

end Sys2Proof.Machine
end

