-- ==== Sys2Proof/Machine/Replay.lean ====
section
/-! DEFINITION. The replay of a step (16 R465, R466; 06 R202): every running region is flushed, its pools are reset, and its
sequencer goes back to its step mark. -/

namespace Sys2Proof.Machine

/-- Regions whose sequencer is running. -/
def liveRegions (s : State) : List Region := (List.finRange 64).filter (fun r => seqLive (seqOf s r))

/-- Change the object that a reference names, where it names one. -/
def resetObj (s : State) (r : Sref) (f : SyncObj → SyncObj) : State :=
  match findObj s r with
  | .ok k => putObj s k (f (objOf s k))
  | .error _ => s

/-- A pool's tallies return to 0 and its quit gate is reset. -/
def resetPool (s : State) (a : Nat) : State :=
  match readRec s a 128 with
  | none => s
  | some w =>
    let s := each [64, 88, 112] (fun s lo => resetObj s (BitVec.ofNat 24 (field w lo 24)) (fun o => { o with value := 0 })) s
    resetObj s (BitVec.ofNat 24 (field w 136 24)) (fun o => { o with arrivals := 0, isOpen := o.open0 })

/-- Barrows that run a firing of a region. -/
def firingBarrows (s : State) (r : Region) : List BrwId :=
  (List.finRange 32).flatMap (fun st => ((List.finRange 32).map (fun b => (⟨⟨st.val, by omega⟩, b⟩ : BrwId))).filter (fun b =>
    (imageJobs (brwOf s b)).any (fun j => decide (jobRegion s b j = some r))))

/-- The agents of a region. -/
def ofRegion (s : State) (r : Region) (bs : List BrwId) : Agent → Bool
  | .seq q _ => q == r
  | .claimer b => (regionClaimers s r).any (fun k => claimerId k.1 k.2 == b)
  | .image b => bs.contains b
  | _ => false

/-- A region returns to its step mark, empty. -/
def replayRegion (s : State) (r : Region) : State :=
  let bs := firingBarrows s r
  let cl := regionClaimers s r
  let pools := (cl.flatMap (fun k => match claimerRegion s k.1 k.2 with
    | some (_, c) => claimerList s k.1 k.2 c
    | none => [])).eraseDups
  let s := dropWaits s (ofRegion s r bs)
  let s := each bs dropBlock s
  let s := each (regionStalls s r) (fun s st => each ([0, 1, 2, 3] : List Slot) (fun s c => flushLane s st r c) s) s
  let s := each (regionStalls s r) (fun s st => each (stallUnits s st r) (fun s site =>
    if siteType site = .mat ∧ getF s (matReg st (siteIndex site) 0) 0 3 = 1 then setF s (matReg st (siteIndex site) 0) 0 3 0 else s) s) s
  let s := each pools resetPool s
  let s := each cl (fun s k => putClaimer s k.1 k.2 {}) s
  nextEntry (putSeq s r { back := (seqOf s r).back }) r (seqGet s r 0x1400 0 16)

/-- Every running region replays its step. Causes: 0 stall loss, 1 unit reset, 2 suspect data, 3 flow flush. -/
def replayStep (s : State) (cause : Nat) : State :=
  let rs := liveRegions s
  let s := each rs replayRegion s
  let s := emit s (srcGroom s) 0x0B84 cause rs.length
  if rs = [] then emit s (srcGroom s) 0x0B85 0 0
  else onSvc s (fun v => { v with replay := some { regions := rs, started := s.time, dups := 0 } })

/-! ### Repair records (16 R487) -/

/-- A soft repair is recorded, while one of the 16,384 records is free. -/
def addRepair (s : State) (kind : Fin 11) (die : Nat) (loc : Nat) : State :=
  if 16384 ≤ s.svc.repairs.length then s
  else onSvc s (fun v => { v with repairs := v.repairs ++ [{ kind := kind, die := BitVec.ofNat 8 die, fused := false, loc := BitVec.ofNat 48 loc }] })

end Sys2Proof.Machine
end

