-- ==== Sys2Proof/Machine/Fabric.lean ====
section
/-! DEFINITION. The fabric's receiving side (12): flits, retrains and lanes, discovery, requests served and responses taken,
packets in transit, timeouts, takeover records, and the shed watch. -/

namespace Sys2Proof.Machine

/-! ### Violations (12 R380) -/

def errReg (p : Port) : Nat := portReg p 0x10

/-- A violation is counted; more than FAB_QTHR.count within FAB_QTHR.ms quarantine the port. -/
def violation (s : State) (p : Port) : State :=
  let ms := max 1 (getF s (shedReg 0 0x28) 16 8)
  let x := portOf s p
  let l := (x.violations.filter (fun t => s.time < t + ms * 1000000)) ++ [s.time]
  let s := putPort s p { x with violations := l }
  if getF s (shedReg 0 0x28) 0 16 < l.length ∧ portState s p ≠ 4 then
    emit (setPortState s p 4) (srcPort p) 0x0585 p.val l.length
  else s

/-- The malformed event, for the first in 1 ms. -/
def malformedEvent (s : State) (p : Port) (kind smod : Nat) : State :=
  let x := portOf s p
  let first := match x.lastMalformed with | none => true | some t => decide (t + 1000000 ≤ s.time)
  if first then emit (putPort s p { x with lastMalformed := some s.time }) (srcPort p) 0x0584 p.val (kind + smod * 2 ^ 16) else s

/-! ### Retrains (12 R357, R366) -/

/-- A port retrains: its link state stays. -/
def startRetrain (s : State) (p : Port) : State :=
  let st := portState s p
  if st = 2 ∨ st = 3 ∨ st = 4 then
    let s := updPort s p (fun x => { x with was := st })
    send (satF (setPortState s p 1) (errReg p) 32 16 1) (.portRetrain p)
  else s

/-- A sent flit stays unacknowledged for 4 µs. -/
def execAckTimeout (p : Port) (s : State) : Host.Outcome State Fault Refusal :=
  finish s (if (portOf s p).replay = [] then s else startRetrain s p)

/-- Flits not acknowledged are sent again from the one after ack. -/
def replayFlits (s : State) (p : Port) : State :=
  let x := portOf s p
  if x.replay = [] then s else send (satF s (errReg p) 16 16 1) (.portReplay p (x.acked + 1).toNat)

/-- The key's next one-time index is used; its reservation is burned first (17 R500, R501). -/
def useIndex (s : State) : Nat × State :=
  let i := s.sec.next
  let s := if s.sec.resv * 256 ≤ i then
      emit (onSec s (fun c => { c with resv := c.resv + 1 })) (srcGroom s) 0x0785 s.sec.resv (2 ^ 20 - i)
    else s
  (i, onSec s (fun c => { c with next := i + 1, signed := min (c.signed + 1) (2 ^ 24 - 1) }))

/-- The secrets have been cleared (17 R506). -/
def secretsCleared (s : State) : Bool := getF s (shedReg 0 0x400000) 2 1 = 1

/-- A discovery that fails (12 R366, R385). -/
def identityRejected (s : State) (p : Port) : State := emit (portStatus s p 0x0508) (srcPort p) 0x0588 p.val 0x0508

/-- What a boot record's signature covers. -/
def bootMessage (r : BootRecord) : List Byte :=
  toBytes 16 r.serial.toNat ++ toBytes 1 r.stepping.toNat ++ toBytes 32 r.measurement.toNat ++ toBytes 4 r.bootCounter.toNat ++ toBytes 32 r.c0.toNat

/-- Hash a chain value a number of times. -/
def hashChain : Nat → BitVec 256 → BitVec 256
  | 0, c => c
  | n + 1, c => hashChain n (Config.digest 0 (toBytes 32 c.toNat))

/-- The serial number, 16 B. -/
def serialNumber : Nat := Config.factory 3 0 % 2 ^ 128
/-- The device identity public key, whose digest is fuse idpk (17 R493). -/
def identityKey : List Byte := toBytes 68 (Config.factory 4 3)
/-- A signature of 2,820 B with a one-time index (17 R492). -/
def signed (index : Nat) (d : List Byte) : List Byte := (Config.signature index d ++ List.replicate 2820 0).take 2820

/-- Value i of the chain that was drawn last: its seed is random. -/
def chainValue (s : State) (i : Nat) : BitVec 256 :=
  hashChain (1024 - i) (BitVec.ofNat 256 (Config.unstated 0x54 (s.sec.boot * 2 ^ 20 + s.fab.chainDrawn)))

/-- The image running. -/
def runningDigest (s : State) : BitVec 256 :=
  match (if s.sec.running then s.sec.slot1 else s.sec.slot0) with
  | some i => i.digest
  | none => 0

/-- The module's boot record with the chain element of its k-th discovery. -/
def ownRecord (s : State) : BootRecord :=
  let r : BootRecord :=
    { serial := BitVec.ofNat 128 serialNumber, stepping := 0xA2, measurement := s.fab.bootMeasure
      bootCounter := BitVec.ofNat 32 s.sec.boot, c0 := chainValue s 0, pubKey := BitVec.ofNat 544 (ofBytes identityKey), signature := []
      k := s.fab.discoveries, ck := chainValue s s.fab.discoveries, claimed := ownModule s }
  { r with signature := signed s.fab.bootIndex (bootMessage r) }

/-- A new chain, with a boot record signed by a new index. -/
def newRecord (s : State) : State :=
  let (i, s) := useIndex s
  onFab s (fun f => { f with discoveries := 0, chainDrawn := f.chainDrawn + 1, bootIndex := i, bootMeasure := runningDigest s })

/-- The module's boot record and chain element go to the peer; after 1,024 discoveries a new record is signed (12 R367).
Without its chain values the discovery fails (17 R506). -/
def sendBoot (s : State) (p : Port) : State :=
  if secretsCleared s then identityRejected s p else
  let s := when (decide (1024 ≤ s.fab.discoveries)) newRecord s
  let s := onFab s (fun f => { f with discoveries := f.discoveries + 1 })
  send s (.bootRecord p (ownRecord s))

/-- Reserved credits of a channel (FAB_CRED). -/
def reserveOf (s : State) (p : Port) (vc : Nat) : Nat := getF s (portReg p 8) (12 + 8 * vc) 8

/-- A first link-up: the link starts afresh, reserved credits are advertised, and discovery begins. -/
def linkUp (s : State) (p : Port) : State :=
  let old := portOf s p
  let granted := [0, 1, 2, 3].foldl (fun m vc => mset m 0 vc (reserveOf s p vc)) []
  let x : PortSt := { granted := granted, txq := old.txq, hold := old.hold, txMoved := s.time, laneMap := old.laneMap }
  let s := putPort s p { x with lastMalformed := old.lastMalformed, dropped := old.dropped }
  sendBoot (setPortState s p 2) p

/-- Training has ended with some lanes, in any order and each of either polarity: x4, x2 on two of them, or all four at the
lower rate (12 R366, 15 R442). An enabled port without a link trains. -/
def retrainComplete (s : State) (p : Port) (full : Bool) (lanes : List (Fin 4 × Bool)) (slow : Bool) : State :=
  if 1 < portState s p ∨ lanes.length < 2 then s else
  let four := decide (4 ≤ lanes.length)
  let s := updPort s p (fun x => { x with laneMap := if four then lanes else lanes.take 2 })
  let s := setF (setF s (portReg p 0) 3 2 (flag !four)) (portReg p 0) 5 1 (flag slow)
  let was := (portOf s p).was
  if was = 0 then linkUp s p
  else
    let s := updPort (setPortState s p was) p (fun x => { x with was := 0 })
    let s := emit (replayFlits s p) (srcPort p) 0x0582 p.val (flag full)
    sendWaiting (pumpPort s p)

def execRetrainComplete (p : Port) (full : Bool) (lanes : List (Fin 4 × Bool)) (slow : Bool) (s : State) : Host.Outcome State Fault Refusal :=
  finish s (retrainComplete s p full lanes slow)

/-! ### Flows that lose a port, and the flush of a flow (12 R379, R386) -/

/-- Discard and count what a flow holds in queues, extension and window. -/
def discardFlow (s : State) (k : Nat) : State :=
  let flow : BitVec 16 := BitVec.ofNat 16 (k % 16384)
  let e := flowEntry s k
  let x := elOf s k
  let queued := (s.fab.ports.map (fun q => (q.2.red.filter (fun r => r.flow == flow)).length)).foldl (· + ·) 0
  let s := each (List.finRange 16) (fun s p =>
    let mine := (portOf s p).red.filter (fun r => r.flow == flow)
    if mine = [] then s else
    let s := updPort s p (fun x => { x with red := x.red.filter (fun r => r.flow != flow), redMoved := s.time })
    each mine (fun s r => freeBlocks s p 2 r.blocks) s) s
  let s := flowDropN s flow k e (queued + x.ext.length + x.waiting.length + x.window.length)
  let s := fitExt (putEl s k { elOf s k with ext := [] }) k e
  putEl s k { elOf s k with window := [], delivered := 0, seen := [], waiting := [], prepass := [], halted := false }

/-- Flows selected in their regions with a child or the parent on a port. -/
def flowsOn (s : State) (p : Port) : List Nat :=
  (listedFlows s).filter (fun k =>
    let e := flowEntry s k
    feValid e && (flowIndex s (BitVec.ofNat 16 (k % 16384)) == k) && ((feChildren e).contains p || (!feRoot e && feParent e == p)))

/-- A port is down: packets staged toward it go another way, flows on it stop and their step replays. -/
def portDown (s : State) (p : Port) : State :=
  let x := portOf s p
  let peer := portPeer s p
  let s := putPort (setPortState s p 0) p { lastMalformed := x.lastMalformed, dropped := x.dropped }
  let s := send (emit s (srcPort p) 0x0583 p.val peer) (.linkDown p)
  let staged := x.txq.filterMap (fun b => if b.vc = 0 ∨ b.vc = 1 then b.pkt else none)
  let s := each (staged ++ x.hold.filter (fun k => channelOf k.kind.toNat = 0 ∨ channelOf k.kind.toNat = 1)) sendPacket s
  let ks := flowsOn s p
  if ks = [] then s else replayStep (pumpReduction (each ks discardFlow s)) 3

def execPortTrainingTimeout (p : Port) (s : State) : Host.Outcome State Fault Refusal :=
  finish s (if portState s p = 1 then portDown s p else s)

/-! ### Lanes (12 R353, R386) -/

/-- A spare lane of a shed that has not failed and serves no lane. -/
def spareLane (s : State) (sh : Shed) : Option Nat :=
  [0, 1].find? (fun i => !s.fab.failedLanes.any (fun e => e.1 == sh.val * 18 + 16 + i || (e.1 / 18 == sh.val && e.2 == i)))

def lanePort (sh : Shed) (lane : Nat) : Port := ⟨(sh.val * 4 + lane / 4) % 16, by omega⟩

/-- A lane of a port loses its carrier: a spare takes its position at the retrain that follows, or the port retrains
without it. -/
def serveLane (s : State) (sh : Shed) (lane : Nat) : State :=
  let key := sh.val * 18 + lane
  let p := lanePort sh lane
  let sp := spareLane s sh
  let others := s.fab.failedLanes.filter (fun e => e.1 != key)
  let s := onFab s (fun f => { f with failedLanes := others ++ [(key, sp.getD 2)] })
  let s := match sp with
    | some _ =>
      let s := satF s (portReg p 0) 6 2 1
      addRepair (emit s (srcShed sh 0x3F) 0x0B83 (1 + sh.val * 2 ^ 8) lane) 5 (0x28 + sh.val) lane
    | none => s
  startRetrain s p

def laneFailure (s : State) (sh : Shed) (lane : Fin 18) : State :=
  let key := sh.val * 18 + lane.val
  if lane.val < 16 then
    if s.fab.failedLanes.any (fun e => e.1 == key) then s else serveLane s sh lane.val
  else
    let i := lane.val - 16
    let served := s.fab.failedLanes.filter (fun e => e.1 / 18 == sh.val && e.2 == i)
    let s := onFab s (fun f => { f with failedLanes := f.failedLanes.filter (fun e => e.1 != key) ++ [(key, 2)] })
    each served (fun s e =>
      let p := lanePort sh (e.1 % 18)
      serveLane (setF s (portReg p 0) 6 2 (getF s (portReg p 0) 6 2 - 1)) sh (e.1 % 18)) s

def execLaneFailure (sh : Shed) (lane : Fin 18) (s : State) : Host.Outcome State Fault Refusal := finish s (laneFailure s sh lane)

/-! ### Flits (12 R355–R358, R362, R380) -/

/-- Bytes that `n` bales take, none while they are not all there. -/
def baleSpan (bsz : Nat) : Nat → List Byte → Option Nat
  | 0, _ => some 0
  | n + 1, d =>
    if d.length < 2 then none else
    let len := 2 + (if bitOf (ofBytes (d.take 2)) 11 then 0 else 2 * bsz)
    if d.length < len then none else (baleSpan bsz n (d.drop len)).map (· + len)

def parseHeader (h : Nat) : Packet :=
  { kind := BitVec.ofNat 4 h, ext := bitOf h 4, last := bitOf h 5, dmod := BitVec.ofNat 16 (field h 8 16), smod := BitVec.ofNat 16 (field h 24 16)
    hops := BitVec.ofNat 4 (field h 40 4), addr := BitVec.ofNat 48 (field h 48 48), len := BitVec.ofNat 8 (field h 96 8)
    tag := BitVec.ofNat 16 (field h 104 16), rstep := BitVec.ofNat 8 (field h 120 8), rsvd := decide (field h 6 2 ≠ 0 ∨ field h 44 4 ≠ 0) }

/-- Most bales of a packet: their data take at most 4,096 B (12 R359). -/
def mostBales (bsz : Nat) : Nat := 4096 / (2 + 2 * bsz)

/-- Whether a packet is malformed on a channel. -/
def malformed (s : State) (vc : Fin 4) (k : Packet) : Bool :=
  decide (10 < k.kind.toNat) || k.rsvd || channelOf k.kind.toNat != vc
  || (if k.kind = 7 ∨ k.kind = 8 then decide (mostBales (feBsz (flowEntry s (flowIndex s k.tag))) < k.len.toNat) else decide (128 < k.len.toNat))

/-- Bytes of a packet's data, none while they are not all there. -/
def dataSpan (s : State) (k : Packet) (d : List Byte) : Option Nat :=
  match k.kind.toNat with
  | 1 => some 0
  | 5 => some 0
  | 7 => baleSpan (feBsz (flowEntry s (flowIndex s k.tag))) k.len.toNat d
  | 8 => baleSpan (feBsz (flowEntry s (flowIndex s k.tag))) k.len.toNat d
  | _ => if d.length < 32 * k.len.toNat then none else some (32 * k.len.toNat)

/-- The packet at the start of some bytes and its length in whole units; none while it is not whole. -/
def parsePacket (s : State) (d : List Byte) : Option (Packet × Nat) :=
  let k := parseHeader (ofBytes (d.take 16))
  let x := ofBytes ((d.drop 16).take 16)
  let k := if k.ext then { k with sref := BitVec.ofNat 24 (field x 0 24), sig := bitOf x 24, pmask := BitVec.ofNat 64 (field x 64 64) } else k
  let hd := if k.ext then 32 else 16
  if d.length < hd then none else
  (dataSpan s k (d.drop hd)).map (fun n => ({ k with data := (d.drop hd).take n }, (hd + n + 31) / 32 * 32))

/-- Whether an identifier is this module's: its own, or a standby's S (12 R368, R381). -/
def ours (s : State) (m : ModuleId) : Bool :=
  m != 0xFFFF && (m == ownModule s || (fabRole s == 2 && m.toNat == getF s (shedReg 0 0) 16 16))

/-- A packet received whole: kept, or dropped by the checks on its modules. Before its peer is admitted a port has no identifier
to check management packets by. -/
def packetIn (s : State) (p : Port) (vc : Fin 4) (k : Packet) (blocks : Nat) : State :=
  let here := ours s k.dmod ∨ vc = 2 ∨ vc = 3
  if (k.hops = 15 ∧ !here) ∨ (k.hops = 0 ∧ k.smod.toNat ≠ portPeer s p ∧ (vc ≠ 3 ∨ portState s p = 3)) then
    freeBlocks (violation (malformedEvent s p k.kind.toNat k.smod.toNat) p) p vc.val blocks
  else updPort s p (fun x => { x with queue := x.queue ++ [(k, blocks)] })

/-- Parse a channel's bytes; the fuel is the 32 B units that a body and the longest packet hold. -/
def parseBytes (s : State) (p : Port) (vc : Fin 4) (blocks : Nat) : Nat → List Byte → State
  | 0, _ => freeBlocks s p vc.val blocks
  | n + 1, d =>
    if d = [] then freeBlocks s p vc.val blocks else
    let h := ofBytes (d.take 16)
    if field h 0 4 = 0 then freeBlocks s p vc.val blocks
    else if malformed s vc (parseHeader h) then
      let s := violation (satF (malformedEvent s p (field h 0 4) (field h 24 16)) (errReg p) 48 16 1) p
      freeBlocks s p vc.val blocks
    else match parsePacket s d with
      | none => updPort s p (fun x => { x with parse := mput x.parse vc.val d, parseBlocks := mput x.parseBlocks vc.val blocks })
      | some (k, len) => parseBytes (packetIn s p vc k blocks) p vc 0 n (d.drop len)

/-- A body of a channel joins what the channel has not yet parsed. -/
def bodyIn (s : State) (p : Port) (vc : Fin 4) (body : BitVec 2048) : State :=
  let x := portOf s p
  let d := mget x.parse [] vc.val ++ toBytes 256 body.toNat
  let n := mget x.parseBlocks 0 vc.val + 1
  let s := putPort s p { x with parse := mdel x.parse vc.val, parseBlocks := mdel x.parseBlocks vc.val }
  parseBytes s p vc n (d.length / 32 + 1) d

/-- A flit that does not arrive intact is discarded and a replay asked for. -/
def badFlit (s : State) (p : Port) : State := satF (updPort s p (fun x => { x with nak := true })) (errReg p) 0 16 1

def trField (f : Flit) (lo len : Nat) : Nat := recBits f.trailer lo len

/-- Acknowledge flits up to a sequence number. -/
def takeAck (s : State) (p : Port) (ack : BitVec 11) : State :=
  updPort s p (fun x => { x with acked := ack, replay := x.replay.drop (ack - x.acked).toNat })

/-- A flit intact and in order: its body joins its channel. -/
def flitBody (s : State) (p : Port) (f : Flit) : State :=
  let vc : Fin 4 := ⟨trField f 23 2 % 4, by omega⟩
  if trField f 25 1 = 1 then s
  else
    let x := portOf s p
    if mget x.granted 0 vc.val = 0 then violation (malformedEvent s p (recBits f.body 0 4) (recBits f.body 24 16)) p
    else if !carries s p vc then updPort s p (fun x => { x with dropped := x.dropped + 1 })
    else bodyIn (putPort s p { x with granted := mset x.granted 0 vc.val (mget x.granted 0 vc.val - 1) }) p vc f.body

/-- A flit arrives on a port. -/
def flitReceive (s : State) (p : Port) (f : Flit) : State :=
  let st := portState s p
  if st ≠ 2 ∧ st ≠ 3 ∧ st ≠ 4 then s else
  let s := satF s (portReg p 0x18) 0 48 f.corrected
  if !f.fecOk ∨ trField f 32 32 ≠ trailerCrc f.body f.trailer.toNat then badFlit s p
  else
    let x := portOf s p
    let ack : BitVec 11 := BitVec.ofNat 11 (trField f 11 11)
    if x.replay.length < (ack - x.acked).toNat then startRetrain (violation s p) p
    else
      let s := takeAck s p ack
      let s := if trField f 22 1 = 1 then replayFlits s p else s
      let s := updPort s p (fun x => { x with credits := mupd x.credits 0 (trField f 26 2) (· + 4 * trField f 28 4) })
      let x := portOf s p
      let s := if trField f 0 11 = (x.rxLast + 1).toNat then
          flitBody (putPort s p { x with rxLast := x.rxLast + 1, nak := false }) p f
        else s
      pumpPort s p

def execFlitReceive (p : Port) (f : Flit) (s : State) : Host.Outcome State Fault Refusal := finish s (flitReceive s p f)

/-! ### Discovery (12 R366–R368) -/

def keyHash (r : BootRecord) : BitVec 256 := Config.digest 0 (toBytes 68 r.pubKey.toNat)

def idReady (s : State) : Bool := getF s (shedReg 0 0x400000) 4 1 = 1

/-- A port whose peer is admitted comes up once the identity key is ready and the module has its identifier (12 R366, R368;
15 R454; 17 R499). -/
def admitUp (s : State) (p : Port) : State :=
  if portState s p = 2 ∧ (portOf s p).bootOk ∧ idReady s ∧ ownModule s ≠ 0xFFFF then sendWaiting (pumpPort (setPortState s p 3) p) else s

def bootRecordReceive (s : State) (p : Port) (r : BootRecord) : State :=
  if portState s p ≠ 2 then s else
  let x := portOf s p
  let msg := bootMessage r
  let dig := Config.digest 0 (msg ++ r.signature)
  let known := x.bootOk && x.bootDigest == dig
  let j := if known then x.chainK else 0
  let cj := if known then x.chainC else r.c0
  let trusted := known || Config.verifies (toBytes 68 r.pubKey.toNat) msg r.signature
  let chain := decide (j ≤ r.k) && hashChain (r.k - j) r.ck == cj
  let admitted := r.claimed != 0xFFFF && s.fab.admission.any (fun e => e.1 == keyHash r && e.2 == r.claimed)
  if trusted ∧ chain ∧ admitted ∧ !secretsCleared s then
    let s := updPort s p (fun x => { x with bootOk := true, bootDigest := dig, chainK := r.k, chainC := r.ck })
    let s := setF s (portReg p 0) 8 16 r.claimed.toNat
    admitUp s p
  else identityRejected s p

def execBootRecordReceive (p : Port) (rec : BootRecord) (s : State) : Host.Outcome State Fault Refusal :=
  finish s (bootRecordReceive s p rec)

/-! ### Requests served (12 R358, R372) -/

/-- A packet leaves the receive queue that held it. -/
def takePacket (s : State) (k : Packet) : State :=
  match takeQueued s (fun _ q => q == k) with
  | (some e, s) => freeBlocks s e.1 (channelOf k.kind.toNat).val e.2
  | (none, s) => s

/-- Whether a packet is addressed to this module. -/
def forUs (s : State) (k : Packet) : Bool := ours s k.dmod

/-- The host range and the register space are closed to other modules. -/
def closedRange (a n : Nat) : Bool := decide ((0x220000000000 < a + n ∧ a < 0x400000000000) ∨ regSpace < a + n)

/-- The shed that a received packet came to. -/
def arrivalShed (s : State) (k : Packet) : Shed :=
  match (takeQueued s (fun _ q => q == k)).1 with
  | some (p, _) => portShed p
  | none => 0

def remoteRefused (s : State) (x : Shed) (k : Packet) : State := fabRefusal s x k.addr.toNat 0x0502 k.smod

def fabricRead (s : State) (k : Packet) : State :=
  if !forUs s k then s else
  let x := arrivalShed s k
  let s := takePacket s k
  let a := k.addr.toNat
  let n := 32 * k.len.toNat
  if closedRange a n then respond (remoteRefused s x k) k.smod 4 k.tag 0x0502 [] 0
  else
    let c := rangeCode s a n
    if c ≠ 0 then respond (refuseEvent s (.remote k.smod k.tag) (refusedAt s a n) c) k.smod 4 k.tag c [] 0
    else
      let s := touchRange s a n
      respond s k.smod 4 k.tag 0 (readRange s a n) (poisonMask s a n)

def execFabricRead (pkt : Packet) (s : State) : Host.Outcome State Fault Refusal := finish s (fabricRead s pkt)

def fabricWrite (s : State) (k : Packet) : State :=
  if !forUs s k then s else
  let x := arrivalShed s k
  let s := takePacket s k
  let a := k.addr.toNat
  if closedRange a k.data.length then respond (remoteRefused s x k) k.smod 5 k.tag 0x0502 [] 0
  else holdOrLand s { agent := .remote k.smod k.tag, addr := k.addr, write := true, size := k.data.length, data := k.data
                      marks := if k.ext then k.pmask else 0, sref := if k.ext && k.sig then some k.sref else none }

def execFabricWrite (pkt : Packet) (s : State) : Host.Outcome State Fault Refusal := finish s (fabricWrite s pkt)

/-- Send the reply of an operation to its sender's module (11 R330). -/
def replyRemote (s : State) (m : ModuleId) (tag : BitVec 16) (status : Nat) (result : Nat) : State :=
  respond s m 6 tag status (toBytes 16 (status + result * 2 ^ 32)) 0

/-- An operation record from another module. Every one is answered, an operation without a reply as an
acknowledgement (07 R224; 12 R372). -/
def fabricSyncOp (s : State) (k : Packet) : State :=
  if !forUs s k then s else
  let s := takePacket s k
  let w := ofBytes (k.data.take 16)
  match syncOpOf (field w 0 4) with
  | none => replyRemote s k.smod k.tag 0x0402 0
  | some op =>
    let a : Agent := .remote k.smod k.tag
    let s := syncOp s a op (BitVec.ofNat 24 (field w 8 24)) (BitVec.ofNat 32 (field w 64 32))
    match op with
    | .signal | .arrive | .add | .sub => if s.sync.wakes.any (fun x => x.agent == a) then s else wakeAgent s { agent := a }
    | _ => s

def execFabricSyncOp (pkt : Packet) (s : State) : Host.Outcome State Fault Refusal := finish s (fabricSyncOp s pkt)

/-! ### Responses taken (12 R358) -/

def findRequest (s : State) (kind : BitVec 4) (tag : BitVec 16) : Option Outstanding :=
  s.fab.outstanding.find? (fun o => o.tag == tag && o.kind == kind)
def dropRequest (s : State) (o : Outstanding) : State := onFab s (fun f => { f with outstanding := f.outstanding.erase o })

/-- A read of a barrow's descriptor has its answer: the line joins the transfer; a refusal fails it, at once when it is the
one under way. -/
def barrowLine (s : State) (b : BrwId) (image : Bool) (o : Outstanding) (status : Nat) (d : List Byte) (poison : Bool) : State :=
  if status = 0 then
    updBrw s b (fun x => updAgentJob x image (fun j => { j with remote := j.remote ++ [(o.dmod, o.addr.toNat, d, poison)] }))
  else match (brwOf s b).job with
    | some j =>
      if imageOf j = image then failJob s b j status
      else updBrw s b (fun x => updAgentJob x image (fun j => { j with failed := BitVec.ofNat 16 status }))
    | none => updBrw s b (fun x => updAgentJob x image (fun j => { j with failed := BitVec.ofNat 16 status }))

/-- A write of a barrow is refused: its transfer keeps the first status, and fails when the others have landed. -/
def barrowRefused (s : State) (b : BrwId) (o : Outstanding) (status : Nat) : State :=
  let put (j : BrwJob) : BrwJob :=
    if j.writes.contains o.tag ∧ j.failed = 0 then { j with failed := BitVec.ofNat 16 status } else j
  updBrw s b (fun x => { x with job := x.job.map put, preempted := x.preempted.map put, landing := x.landing.map put })

/-- A host read ends with data or an abort (13 R394). -/
def hostReadDone (s : State) (a : Addr) (status : Nat) (d : List Byte) (poison : Bool) : State :=
  match s.host.pendingReads.find? (fun e => e.2 == a) with
  | none => s
  | some e =>
    let s := onHost s (fun h => { h with pendingReads := h.pendingReads.erase e })
    send s (if status = 0 then .completion .success poison d else .completion .abort false [])

/-- A read of an agent has its answer. A refusal fails a barrow's transfer; a timeout reads poisoned. -/
def readDone (s : State) (o : Outstanding) (status : Nat) (d : List Byte) (poison : Bool) : State :=
  let s := dropRequest s o
  let bad := status != 0 && status != 0x0503
  match o.agent with
  | .barrow b => barrowLine s b false o (if bad then status else 0) d poison
  | .image b => barrowLine s b true o (if bad then status else 0) d poison
  | .fetch m b set shard =>
    (match (fetchList s m b).find? (fun f => f.set == set && f.shard == shard && f.met) with
    | some f => updFetch s m b (if bad then { f with asked := 0, data := [], journal := none } else { f with data := f.data ++ [(o.addr.toNat, d, poison)] })
    | none => s)
  | .host => hostReadDone s o.addr status d poison
  | .groom => onSvc s (fun v => { v with restore := v.restore.map (fun x =>
      { x with got := x.got ++ [(o.addr.toNat, d)], failed := x.failed || status != 0 || poison }) })
  | a => send s (.readReply a (BitVec.ofNat 16 status) poison d)

/-- The status that a response carries. -/
def respStatus (k : Packet) : Nat := recBits k.addr 0 16

def readData (s : State) (k : Packet) : State :=
  if !forUs s k then s else
  let s := takePacket s k
  match findRequest s 1 k.tag with
  | none => s
  | some o =>
    let d := k.data.take o.size ++ List.replicate (o.size - k.data.length) 0
    readDone s o (respStatus k) d (k.ext && k.pmask != 0)

/-- A write of an agent is acknowledged; a refusal is kept for the end of a barrow's transfer. -/
def writeDone (s : State) (o : Outstanding) (status : Nat) : State :=
  let s := dropRequest s o
  match o.agent with
  | .barrow b => if status = 0 then s else barrowRefused s b o status
  | .image b => if status = 0 then s else barrowRefused s b o status
  | .host => s
  | .groom => onSvc s (fun v => { v with point := v.point.map (fun x =>
      { x with failed := if x.failed = 0 then BitVec.ofNat 16 status else x.failed }) })
  | a => send s (.reply a (BitVec.ofNat 16 status) 0)

def writeAck (s : State) (k : Packet) : State :=
  if !forUs s k then s else
  let s := takePacket s k
  match findRequest s 2 k.tag with
  | none => s
  | some o => writeDone s o (respStatus k)

/-- A reply to a sync operation; an engine's signals are acknowledged when none is outstanding. -/
def syncDone (s : State) (o : Outstanding) (status result : Nat) : State :=
  let s := dropRequest s o
  match o.agent with
  | .engine e =>
    if status = 0 then sigAcked s e else updEng s e (fun x => { x with sigWait := [] })
  | a => wakeAgent s { agent := a, status := BitVec.ofNat 16 status, result := BitVec.ofNat 32 result }

def syncReply (s : State) (k : Packet) : State :=
  if !forUs s k then s else
  let s := takePacket s k
  match findRequest s 3 k.tag with
  | none => s
  | some o =>
    let w := ofBytes (k.data.take 16)
    syncDone s o (if respStatus k = 0 then field w 0 16 else respStatus k) (field w 32 32)

def execSyncReply (pkt : Packet) (s : State) : Host.Outcome State Fault Refusal := finish s (syncReply s pkt)

/-! ### Refusals at the source (12 R370, R372) -/

/-- An agent's request ends without a response. -/
def requestFailed (s : State) (o : Outstanding) (code : Nat) : State :=
  let s := fabRefusal s (issuingShed s o.agent) o.addr.toNat code o.dmod
  match o.kind.toNat with
  | 1 => readDone s o code (List.replicate o.size 0) true
  | 2 => writeDone s o code
  | _ => syncDone s o code 0

/-- A read or sync op without a response after 10 ms. -/
def fabricTimeout (s : State) (tag : BitVec 16) : State :=
  match s.fab.outstanding.find? (fun o => o.tag == tag && (o.kind == 1 || o.kind == 3)) with
  | some o => requestFailed s o 0x0503
  | none => s

/-- Packets for a module that have waited 100 ms for a port are refused. -/
def routeWaitTimeout (s : State) (m : ModuleId) : State :=
  let l := s.fab.waiting.filter (fun e => e.1.dmod == m)
  let s := onFab s (fun f => { f with waiting := f.waiting.filter (fun e => e.1.dmod != m) })
  each l (fun s e =>
    let k := e.1
    match (if k.smod = ownModule s ∧ k.kind.toNat ≤ 3 then findRequest s k.kind k.tag else none) with
    | some o => requestFailed s o 0x0504
    | none => fabRefusal s 0 k.addr.toNat 0x0504 m) s

/-! ### Transit and management (12 R359, R370, R382) -/

/-- A packet in transit goes on with one more hop, or is dropped at hops = 15. A standby accepts none (R381). -/
def packetForward (s : State) (p : Port) (k : Packet) : State :=
  if fabRole s = 2 ∨ forUs s k ∨ channelOf k.kind.toNat = 2 ∨ channelOf k.kind.toNat = 3 then s else
  let s := takePacket s k
  if k.hops = 15 then violation (malformedEvent s p k.kind.toNat k.smod.toNat) p
  else if !routeValid (routeEntry s k.dmod) ∨ k.dmod = 0xFFFF then fabRefusal s (portShed p) k.addr.toNat 0x0501 k.dmod
  else sendPacket s { k with hops := k.hops + 1 }

def execPacketForward (p : Port) (pkt : Packet) (s : State) : Host.Outcome State Fault Refusal := finish s (packetForward s p pkt)

def execLinkManagement (p : Port) (pkt : Packet) (s : State) : Host.Outcome State Fault Refusal :=
  finish s (onFab (takePacket s pkt) (fun f => { f with linkRecords := f.linkRecords ++ [(p, pkt.data)] }))

/-- The takeover record as a fabric-management packet (the layout of its 8 B is the model's choice). -/
def floodTakeover (s : State) (x sp : ModuleId) (sequence : BitVec 32) (except : Option Port) : State :=
  each ((List.finRange 16).filter (fun p => portState s p == 3 && except != some p)) (fun s p =>
    txPort s p { kind := 0xA, last := true, dmod := BitVec.ofNat 16 (portPeer s p), smod := ownModule s, len := 1
                 data := toBytes 32 (x.toNat + sp.toNat * 2 ^ 16 + sequence.toNat * 2 ^ 32) }) s

def takeoverKey (x sp : ModuleId) (sequence : BitVec 32) : Nat := x.toNat + sp.toNat * 2 ^ 16 + sequence.toNat * 2 ^ 32

/-- A takeover record received for the first time: entry S becomes entry X, and the record goes on. -/
def takeoverRecord (s : State) (p : Port) (x sp : ModuleId) (sequence : BitVec 32) : State :=
  let key := takeoverKey x sp sequence
  if s.fab.takeovers.contains key then s else
  let s := onFab s (fun f => { f with takeovers := key :: f.takeovers })
  let s := setSheds s (0x1000000 + 8 * x.toNat) (BitVec.ofNat 64 (routeEntry s sp))
  let s := setSheds s (0x1000000 + 8 * sp.toNat) 0
  let s := emit s (srcPort p) 0x0589 x.toNat sp.toNat
  sendWaiting (floodTakeover s x sp sequence (some p))

def execTakeoverRecord (p : Port) (x sp : ModuleId) (sequence : BitVec 32) (s : State) : Host.Outcome State Fault Refusal :=
  finish s (takeoverRecord s p x sp sequence)

/-! ### The shed watch (12 R377–R379) -/

def pwReg (sh : Shed) : Nat := shedReg sh 0x18

/-- Whether the head of a port's reduction queue waits behind a full window of a flow homed in a shed. -/
def windowFull (s : State) (sh : Shed) (p : Port) : Bool :=
  match (portOf s p).red with
  | [] => false
  | r :: _ =>
    let k := flowIndex s r.flow
    let e := flowEntry s k
    feShed e == sh && r.rstep.toNat == feStep e && decide (lowest (elOf s k) e + feWin e ≤ r.first)

/-- A queue that has held flits without moving any for the window. -/
def stalledRed (s : State) (sh : Shed) (p : Port) : Bool :=
  let x := portOf s p
  x.red != [] && decide (x.redMoved + 2 ^ getF s (pwReg sh) 0 5 ≤ s.time)
def stalledTx (s : State) (sh : Shed) (p : Port) : Bool :=
  let x := portOf s p
  x.txq != [] && decide (x.txMoved + 2 ^ getF s (pwReg sh) 0 5 ≤ s.time)

/-- Ports whose queues hold the contribution that the head flow of a port's queue lacks. -/
def waitsOn (s : State) (p : Port) : List Port :=
  match (portOf s p).red with
  | [] => []
  | r :: _ =>
    let k := flowIndex s r.flow
    let e := flowEntry s k
    let x := elOf s k
    let i := lowest x e
    (feChildren e).filter (fun q => q != p && !x.seen.contains (i, .child q) &&
      (portOf s q).red.any (fun t => t.flow == r.flow && decide (t.first ≤ i ∧ i < t.first + t.bales.length)))

/-- A cycle of waits through a port: the ports on it; the fuel is the number of ports. -/
def cycleFrom (s : State) (start : Port) : Nat → Port → List Port → Option (List Port)
  | 0, _, _ => none
  | n + 1, p, path =>
    (waitsOn s p).findSome? (fun q => if q = start then some (path ++ [p]) else if path.contains q then none else cycleFrom s start n q (path ++ [p]))

def headFlow (s : State) (p : Port) : Option (BitVec 16) := (portOf s p).red.head?.map (·.flow)

/-- The flow of lowest priority on a cycle, the lower identifier among equals, with its stalled queue. -/
def victim (s : State) (ps : List Port) : Option (Port × BitVec 16) :=
  (ps.filterMap (fun p => (headFlow s p).map (fun f => (p, f)))).foldl (fun best e => match best with
    | none => some e
    | some b =>
      let x := fePrio (flowEntry s (flowIndex s e.2))
      let y := fePrio (flowEntry s (flowIndex s b.2))
      if y < x ∨ (x = y ∧ e.2.toNat < b.2.toNat) then some e else some b) none

/-- The flows on the cycle halt. -/
def haltFlows (s : State) (sh : Shed) (ps : List Port) : State :=
  let fs := (ps.filterMap (headFlow s)).eraseDups
  let s := each fs (fun s f => let k := flowIndex s f; putEl s k { elOf s k with halted := true }) s
  let s := each ps (fun s p => portStatus s p 0x0507) s
  emit s (srcShed sh 0x11) 0x0587 ((fs.getD 0 0).toNat) ((fs.getD 1 (fs.getD 0 0)).toNat)

/-- Move the run of a flow's packets at the head of a stalled queue into its extension, or halt the cycle's flows. -/
def breakCycle (s : State) (sh : Shed) (ps : List Port) : State :=
  match victim s ps with
  | none => s
  | some (p, f) =>
    let k := flowIndex s f
    let e := flowEntry s k
    let run := (portOf s p).red.takeWhile (fun r => r.flow == f)
    if getF s (pwReg sh) 9 1 = 0 then haltFlows s sh ps
    else match extendFlow s k e p run with
      | none => haltFlows s sh ps
      | some s =>
        let s := updPort s p (fun x => { x with red := x.red.drop run.length, redMoved := s.time })
        pumpReduction (emit s (srcShed sh 0x11) 0x0586 f.toNat (elOf s k).extBlocks)

def shedWatch (s : State) (sh : Shed) : State :=
  let ports := List.finRange 16
  let full := ports.filter (windowFull s sh)
  let stalled := ports.filter (fun p => stalledRed s sh p || stalledTx s sh p)
  if getF s (pwReg sh) 8 1 = 0 ∨ full = [] ∨ stalled = [] then s
  else match full.findSome? (fun p => cycleFrom s p 16 p []) with
    | some ps => breakCycle s sh ps
    | none =>
      let s := emit s (srcShed sh 0x11) 0x058B (((full.filterMap (headFlow s)).getD 0 0).toNat) 0
      each stalled (fun s p => updPort s p (fun x => { x with redMoved := s.time, txMoved := s.time })) s

def execShedWatchExpiry (sh : Shed) (s : State) : Host.Outcome State Fault Refusal := finish s (shedWatch s sh)

/-- Take packets of a port from the head of a flow's extension into its window; the fuel is their number. -/
def refillFrom (s : State) (flow : BitVec 16) (k : Nat) (p : Port) : Nat → State
  | 0 => s
  | n + 1 =>
    let x := elOf s k
    match x.ext.find? (fun e => e.1 == p) with
    | none => s
    | some r =>
      let rest := x.ext.erase r
      let e := flowEntry s k
      if r.2.rstep.toNat ≠ feStep e then
        (if r.2.rstep.toNat = (feStep e + 1) % 256 then s
         else refillFrom (staleDrop (putEl s k { x with ext := rest }) flow k e) flow k p n)
      else
        match acceptAll s flow k (.child p) r.2.first r.2.bales with
        | (s, _, []) => let x := elOf s k; refillFrom (putEl s k { x with ext := x.ext.erase r }) flow k p n
        | (s, i, l) =>
          let x := elOf s k
          putEl s k { x with ext := x.ext.map (fun e => if e = r then (p, { r.2 with first := i, bales := l }) else e) }

/-- A block of an extension has been read: its 64 bodies refill the window, before the queue. -/
def extensionRead (s : State) (sh : Shed) (flow : BitVec 16) (p : Port) : State :=
  let k := flowIndex s flow
  let e := flowEntry s k
  if feShed e ≠ sh ∨ (elOf s k).halted then s
  else pumpReduction (fitExt (refillFrom s flow k p 64) k e)

def execFlowExtensionRefill (sh : Shed) (flow : BitVec 16) (p : Port) (s : State) : Host.Outcome State Fault Refusal :=
  finish s (extensionRead s sh flow p)

end Sys2Proof.Machine
end

