-- ==== Sys2Proof/Machine/Wakes.lean ====
section
/-! DEFINITION. Release tokens and replies reach the agents that wait for them (11 R330, R341, R342). -/

namespace Sys2Proof.Machine

/-- What a reply or a release does in the agent that gets it. Agents outside the block's own engines get it as an output. -/
def agentWoken (s : State) (w : Wake) : State :=
  let c := w.status.toNat
  match w.agent with
  | .barrow b => barrowWoken s b false c
  | .image b => barrowWoken s b true c
  | .seq r i => seqWoken s r i c
  | .claimer b => claimerWoken s ⟨b.die.val % 32, by omega⟩ b.b c
  | .fetch m b set shard => fetchWoken s m b set shard c
  | .window r => windowWoken s r c
  | .moveRing m => ringWoken s m c
  | .norm set => normWoken s set c
  | .gnorm => gnWoken s c
  | .pin map entry => pinWoken s map entry c
  | .remote m tag => replyRemote s m tag c w.result.toNat
  | a => send s (.reply a w.status w.result)

/-- The oldest token on its way arrives. -/
def waiterWake (s : State) : State :=
  match s.sync.wakes with
  | [] => s
  | w :: t => agentWoken (onSync s (fun y => { y with wakes := t })) w

def execWaiterWake (s : State) : Host.Outcome State Fault Refusal := finish s (waiterWake s)

end Sys2Proof.Machine
end

