-- ==== Sys2Proof/Machine/Views.lean ====
section
/-! DEFINITION. Registers as they read: what is kept, overlaid with the fields that the state itself shows. -/

namespace Sys2Proof.Machine

/-- Put fields (lowest bit, length, value) over a word. -/
def overlay (w : Nat) (fs : List (Nat × Nat × Nat)) : Nat := fs.foldl (fun w f => setBits w f.1 f.2.1 f.2.2) w

/-! ### Stalls -/

def stallStateCode (s : State) (st : Stall) : Nat :=
  match stallState s st with | .inService => 0 | .relay => 1 | .failed => 2 | .shifting => 3

/-- The site, queue and lane that YRD_CNT_SEL selects (03 R99). -/
def selUnit (s : State) (st : Stall) : Option Site :=
  let w := getF s (stallReg st 0x438) 0 10
  if h : w < 576 then some ⟨w, h⟩ else none

def selQueue (s : State) (st : Stall) : Nat :=
  let r := (getReg s (stallReg st 0x438)).toNat
  field r 10 3 * 8 + field r 16 2 * 2 + field r 18 1

def selLane (s : State) (st : Stall) : Slot := ⟨getF s (stallReg st 0x438) 16 2 % 4, by omega⟩

def countView (s : State) (st : Stall) (o : Nat) : Nat :=
  match selUnit s st with
  | none => 0
  | some site =>
    let u := unitOf s st site
    let c := selLane s st
    match o with
    | 0x440 => mget u.bp 0 (selQueue s st)
    | 0x448 => mget u.fires 0 c.val
    | 0x450 => (([0, 1, 2, 3] : List Slot).map (fun l => min (heldTokens s st site l) 0xFFFF <<< (16 * l.val))).foldl (· + ·) 0
    | 0x458 => mget u.drops 0 c.val + (mget u.voids 0 c.val) <<< 32
    | _ => mget u.disc 0 c.val

/-- SEQ_STAT.state: a mapping entry reads as running (the model's choice). -/
def seqStateCode (q : SeqSt) : Nat :=
  match q.phase with
  | .idle => 0
  | .waiting => if q.held then 2 else 1
  | .running | .mapping => 3
  | .draining => 4
  | .stopped => 5
  | .halted => 6

/-- A sequencer's wait counters with the wait under way (06 R187). -/
def seqWaitView (s : State) (r : Region) (fill : Bool) (kept : Nat) : Nat :=
  let q := seqOf s r
  let n := (s.time - q.counted) * 9 / 5
  let fills := match q.phase with | .waiting => q.entry.isSome && q.held | .draining => q.held | _ => false
  let idles := match q.phase with | .waiting => q.entry.isSome && !q.held | .draining => !q.held | .mapping => true | _ => false
  min (kept + (if (if fill then fills else idles) then n else 0)) (2 ^ 48 - 1)

def asRegion (i : Nat) : Region := ⟨i % 64, by omega⟩
def asIsland (i : Nat) : Island := ⟨i % 16, by omega⟩

/-- Soft and fused repairs of a die, and its fuse entries free (16 R488, R489). -/
def dieCode : RegPlace → Nat
  | .stall n _ => n.val
  | .manger m _ => 0x20 + m.val
  | .shed x _ => 0x28 + x.val
  | .aon _ => 0xFF

def fuseEntries (die : Nat) : Nat := if die < 0x20 then 256 else if die < 0x28 then 512 else if die < 0x30 then 128 else 0

def repairsOf (s : State) (die : Nat) (fused : Bool) : Nat :=
  (s.svc.repairs.filter (fun r => r.die.toNat == die && r.fused == fused)).length

/-- BST registers of a die (16 R489, R490). -/
def bstView (s : State) (p : RegPlace) (o kept : Nat) : Nat :=
  let die := dieCode p
  match o with
  | 0x000 =>
    let st := match s.svc.tests.find? (fun t => t.die.toNat == die || t.die == 0xFF) with
      | some t => if t.inService then 3 else if t.kind = 1 then 2 else 1
      | none => field kept 0 3
    overlay kept [(0, 3, st), (3, 1, match p with | .shed 0 _ => flag s.svc.pending | _ => 0)]
  | 0x010 => repairsOf s die false + (repairsOf s die true) <<< 16 + (fuseEntries die - mget s.svc.fuses 0 die) <<< 32
  | 0x018 => min ((s.time - mget s.svc.testedAt 0 die) / 3600000000000) (2 ^ 32 - 1)
  | 0x108 =>
    if die ≠ 0x28 then kept
    else overlay kept [(16, 2, s.svc.nextRow.val), (32, 16, s.svc.rotationDue - (s.time - s.svc.rotationSet) / 3600000000000)]
  | _ => kept

/-- The region whose sequencer or window a register belongs to: in other stalls than the region's home stall it reads 0
and ignores writes (03 R71, 06 R182, 10 R324). -/
def homeReg (o : Nat) : Option Region :=
  ([0xA00, 0xC00, 0xE00, 0x1000, 0x1200, 0x1400, 0x1600, 0x1800].findSome? (fun b => arr o b 8 64)).map asRegion

/-- MAT_STAT.held: the halves of the operand buffer that hold a set of an inactive context (04 R117, R138). -/
def heldHalves (u : UnitSt) : Nat :=
  sumOf (u.halves.map (fun e => if e.2.ctx = u.active then 0 else 2 ^ (e.1 % 2)))

/-- MAT_STARVE and MAT_DRAINW with the wait under way. -/
def matWaitView (s : State) (st : Stall) (k : Nat) (drain : Bool) (kept : Nat) : Nat :=
  let u := unitOf s st (siteOf .mat k)
  let n := match mfind u.mat u.active.val with | some p => waitCycles s st (siteOf .mat k) p drain | none => 0
  min (kept + n) (2 ^ 48 - 1)

def stallView (s : State) (st : Stall) (o kept : Nat) : Nat :=
  if (match homeReg o with | some r => regionHome s r != some st | none => false) then 0 else
  match o with
  | 0x000 => overlay kept [(0, 5, st.val), (8, 8, (stallLp s st).getD 0xFF), (16, 2, stallStateCode s st)]
  | 0x008 => s.yard.mapver.toNat
  | 0x020 => auxBits s st
  | 0x440 | 0x448 | 0x450 | 0x458 | 0x460 => countView s st o
  | 0x1A0008 => overlay kept [(0, 11, ovfUsed s st)]
  | 0x1A0020 => (s.sync.objs.filter (fun e => keyObjStall e.1 == st && e.2.lost)).length
  | _ =>
    match arr o 0x100 8 16, arr o 0x180 8 16, arr o 0x600 8 64, arr o 0x800 8 64, arr o 0xE00 8 64 with
    | some n, _, _, _, _ =>
      let i := asIsland n
      let x := islandStep s st i
      overlay kept [(0, 5, x), (16, 1, flag (inputWarn s)), (17, 1, flag (limitOf s st i).thermal.isSome), (18, 1, flag (limitOf s st i).droop),
        (19, 1, flag (islandCap s st i == x && x != 31))]
    | _, some n, _, _, _ => islandCycles s st (asIsland n)
    | _, _, some n, _, _ =>
      let r := asRegion n
      overlay kept [(13, 1, flag (regionHome s r == some st)), (14, 1, flag ((regionStalls s r).contains st))]
    | _, _, _, some n, _ => if regionHome s (asRegion n) = some st then overlay kept [(43, 21, spillUsed s (asRegion n))] else kept
    | _, _, _, _, some n => if regionHome s (asRegion n) = some st then overlay kept [(16, 3, seqStateCode (seqOf s (asRegion n)))] else kept
    | _, _, _, _, _ =>
      match arr o 0x1000 8 64, arr o 0x1200 8 64, arr o 0x140000 8 16 with
      | some n, _, _ => if regionHome s (asRegion n) = some st then seqWaitView s (asRegion n) true kept else kept
      | _, some n, _ => if regionHome s (asRegion n) = some st then seqWaitView s (asRegion n) false kept else kept
      | _, _, some a =>
        (match mfind s.stats (st.val * 16 + a) with
        | some x => x.layer % 2 ^ 12 + 2 ^ 12 + (x.step % 2 ^ 48) <<< 16
        | none => 0)
      | _, _, _ =>
        match arr o 0x100000 0x40 256, arr o 0x100020 0x40 256, arr o 0x100028 0x40 256 with
        | some k, _, _ => overlay kept [(48, 2, heldHalves (unitOf s st (siteOf .mat k)))]
        | _, some k, _ => matWaitView s st k false kept
        | _, _, some k => matWaitView s st k true kept
        | _, _, _ => if 0xF00000 ≤ o then bstView s (.stall st o) (o - 0xF00000) kept else kept

/-! ### Mangers -/

def segsStaged (s : State) (spill : Bool) : Nat := sumOf ((stagedSegs s spill).map Prod.snd)

def pinnedIn (s : State) (t : Nat) : Nat := (s.homes.table.filter (fun e => e.2.pin && e.2.tier.val == t)).length

def mangerView (s : State) (m : Mg) (o kept : Nat) : Nat :=
  if o = 0x300040 then segsStaged s false + (segsStaged s true) <<< 16 + (s.upd.stgWait.length % 2 ^ 16) <<< 32
  else if o = 0x600028 then overlay kept [(0, 3, (mangerMoves s m).length)]
  else match arr o 0x300108 0x40 4 with
    | some e =>
      let x := engOf s ⟨(m.val * 4 + e) % 16, by omega⟩
      overlay kept [(8, 8, x.ring.length), (16, 5, x.parked.length)]
    | none =>
      match arr o 0x600088 8 5, arr o 0x6000C8 8 5 with
      | some t, _ => tierCap s (t + 1) % 2 ^ 32 + (tierFree s (t + 1) % 2 ^ 32) <<< 32
      | _, some t => overlay kept [(0, 32, pinnedIn s (t + 1))]
      | _, _ => if 0xF00000 ≤ o then bstView s (.manger m o) (o - 0xF00000) kept else kept

/-! ### Sheds -/

/-- An event of severity unit lost was recorded and not cleared. -/
def unitLost (s : State) : Bool := getF s (shedReg 0 0x300018) 2 1 = 1
def thermNow (s : State) : Bool := s.yard.limits.any (fun e => e.2.thermal.isSome)

/-- ALERT# (15 R446, R456). -/
def alertNow (s : State) : Bool :=
  inputWarn s || (thermNow s && getF s (shedReg 0 0x300018) 8 1 == 1) || (unitLost s && getF s (shedReg 0 0x300018) 9 1 == 1)

/-- Rows, lane sets, lofts or groom pairs without a spare (15 R447). -/
def noSpare (s : State) : Bool :=
  ([0, 1, 2, 3] : List (Fin 4)).any (fun r => stallState s (mkStall r (outColumn s r)) != .relay)
  || ([0, 1, 2, 3] : List Shed).any (fun x => (spareLane s x).isNone)
  || (List.range 128).any (fun g => ifaceLost s g)
  || s.groom.a == .failed || s.groom.b == .failed || s.groom.a == .out || s.groom.b == .out

/-- SVC_LED: 0 off, 1 on, 2 blinking at 1 Hz, 3 blinking at 4 Hz (15 R447). -/
def ledState (s : State) : Nat :=
  if s.power.bootFail then 3
  else if getF s (shedReg 0 0x300010) 6 1 = 1 then 2
  else if pstate s = 3 then 0
  else if noSpare s || unitLost s || s.svc.due then 1 else 0

/-- Blocks of a shed's pool that the fixed uses and the reduction windows reserve: the host port's 256 are SH0's alone
(12 R364, R365). -/
def poolReserved (s : State) (x : Shed) : Nat := (if x = 0 then 1728 else 1472) + flowReserve s x none

/-- Hours until the fuse counter advances; 0 when none is due (SEC_FW.adv, 17 R498). -/
def advanceHours (s : State) : Nat :=
  match (if s.sec.running then s.sec.slot1 else s.sec.slot0) with
  | some v => if s.sec.svn < min 64 v.svn.toNat then ceilDiv (86400000000000 - (s.time - s.sec.runSince)) 3600000000000 else 0
  | none => 0

/-- GRM_BOOTT: the times of the last start, of which the spec gives the bounds (15 R454, R456). -/
def bootTimes (s : State) : Nat :=
  if s.sec.resv = 0 then 0 else Config.unstated 0x48 s.sec.resv % 1001 + (Config.unstated 0x49 s.sec.resv % 3001) <<< 32

def shedView (s : State) (x : Shed) (o kept : Nat) : Nat :=
  if x = 0 ∧ o = 0x300008 then bootTimes s
  else if o = 0x008 then
    let u := poolUsed s x
    u % 2 ^ 18 + (max u (mget s.fab.poolPeak 0 x.val)) <<< 18 + (poolReserved s x % 2 ^ 18) <<< 36
  else if x = 0 ∧ o = 0x300010 then
    overlay kept [(3, 1, flag (alertNow s)), (4, 1, flag s.power.tripped), (5, 1, flag (ledState s ≠ 0)), (7, 1, flag (getF s (shedReg 0 0x400000) 0 2 ≠ 0))]
  else if x = 0 ∧ o = 0x300018 then overlay kept [(0, 1, flag (inputWarn s)), (1, 1, flag (thermNow s))]
  else if x = 0 ∧ o = 0x400008 then s.sec.next % 2 ^ 20 + (s.sec.resv % 2 ^ 13) <<< 20 + (min s.sec.signed (2 ^ 24 - 1)) <<< 40
  else if x = 0 ∧ o = 0x400010 then
    let svnOf (i : Option Image) : Nat := match i with | some v => v.svn.toNat | none => 0xFF
    s.sec.svn % 2 ^ 7 + (svnOf s.sec.slot0) <<< 8 + (svnOf s.sec.slot1) <<< 16 + (flag s.sec.pref) <<< 24 + (advanceHours s) <<< 32
  else if x = 0 ∧ o = 0x400018 then Config.factory 4 0 % 2 ^ 32
  else if 0xF00000 ≤ o then bstView s (.shed x o) (o - 0xF00000) kept
  else kept

/-! ### Reading -/

/-- A register as it reads; register space without a register reads zeros (00 R6). Write-only fields read 0. -/
def readReg (s : State) (a : Nat) : Nat :=
  match regPlace a with
  | none => 0
  | some p =>
    match placeSpec p with
    | none => 0
    | some fs =>
      let k := p.keep
      let w := (getReg s k.addr).toNat
      let v := match k with
        | .stall st o => stallView s st o w
        | .manger m o => mangerView s m o w
        | .shed x o => shedView s x o w
        | .aon _ => w
      v &&& maskOf fs (fun c => c ≠ .wo)

/-- `size` bytes of registers from an address. -/
def readRegs (s : State) (a size : Nat) : List Byte :=
  (List.range size).map (fun i => BitVec.ofNat 8 (readReg s ((a + i) / 8 * 8) >>> (8 * ((a + i) % 8))))

end Sys2Proof.Machine
end

