-- ==== Sys2Proof/Machine/RegisterWrite.lean ====
section
/-! DEFINITION. Writes to registers (00 R6–R9; 01 R30): which writes are performed, the registers whose writes act, and the
frequency events of a changed cap (02 R63, 14 R437). -/

namespace Sys2Proof.Machine

/-! ### Limits of the islands (14 R436, R437) -/

def allIslands : List (Stall × Island) :=
  (List.finRange 32).flatMap (fun st => (List.finRange 16).map (fun i => (st, i)))

def putLimit (s : State) (st : Stall) (i : Island) (l : IslLimit) : State :=
  onYard s (fun y => { y with limits := mset y.limits {} (islandKey st i) l })

/-- The frequency event of an island (14 R439). -/
def frequencyEvent (s : State) (st : Stall) (i : Island) : State :=
  emit s (srcStall st i.val) 0x0681 (islandStep s st i + (islandCause s st i) <<< 5)
    (islandCap s st i + (getF s (aonReg 0x18) 0 16) <<< 16)

/-- After a change from `s` to `t` of the limits of an island that runs: its cycle count goes on at the new step, and a
change of the limit's cause is recorded. -/
def settleIsland (s t : State) (st : Stall) (i : Island) : State :=
  if !coreOn t st then t else
  let t := if islandStep s st i = islandStep t st i then t
    else let l := closeCount s st i
      putLimit t st i { limitOf t st i with cyc := l.cyc, since := l.since }
  if islandCause s st i = islandCause t st i then t else frequencyEvent t st i

def settleIslands (s t : State) (l : List (Stall × Island)) : State := each l (fun t e => settleIsland s t e.1 e.2) t

/-! ### Power domains of registers (14 R416) -/

/-- Whether the domain that holds a register is off. Of a failed stall YRD_ID is still answered, since it shows that the stall
has failed (02 R62; log entry 122). -/
def regOff (s : State) : RegPlace → Bool
  | .stall st o =>
    !s.power.on || (stallState s st == .failed && o != 0)
    || (if o < 0x10000 ∨ 0xF00000 ≤ o then decide (2 ≤ pstate s)
        else if 0x1A0000 ≤ o then decide (3 ≤ pstate s)
        else decide (2 ≤ pstate s) || !coreOn s st || stallState s st != .inService)
  | .manger m o => !s.power.on || decide (2 ≤ pstate s) || (decide (0x400000 ≤ o ∧ o < 0x500000) && !engineDomOn s m)
  | .shed _ _ => !s.power.on || decide (3 ≤ pstate s)
  | .aon _ => false

/-! ### Accesses that are not performed (00 R6, 01 R30) -/

/-- Whether an access names a register, in a size and alignment that is performed. -/
def regLegal (a size : Nat) : Bool :=
  ((size = 8 && a % 8 = 0) || (size = 4 && a % 4 = 0))
  && (match regPlace (a / 8 * 8) with
    | some p => (placeSpec p).isSome
    | none => false)

/-! ### Writes -/

/-- The word that a write leaves before the access codes apply: `lanes` names the bits written. -/
def mergeWord (old data lanes : Nat) : Nat := (old - (old &&& lanes)) + (data &&& lanes)

/-- Store a written value as the access codes say (00 R7, R8). -/
def storeReg (s : State) (p : RegPlace) (fs : List Fld) (data lanes : Nat) : State :=
  setReg s p.addr (BitVec.ofNat 64 (writtenBits p fs (locked s p) (getReg s p.addr).toNat data lanes))

/-- A write to MAT_RETIRE: recorded as made by hand, with go or without; go retires the MAT (04 R134, R137). -/
def matRetire (s : State) (st : Stall) (mat : Nat) (go : Bool) : State :=
  let s := handRecord s (srcStall st 0x3F)
  if go ∧ getF s (matReg st mat 0) 0 3 < 3 then setF s (matReg st mat 0) 0 3 3 else s

/-- BRW_CTL: stop, resume and skip (09 R285). -/
def barrowCtl (s : State) (b : BrwId) (w : Nat) : State :=
  let s := when (bitOf w 1) (fun s => barrowStop s b) s
  let s := when (bitOf w 2) (fun s => barrowResume s b) s
  when (bitOf w 3) (fun s => barrowSkip s b) s

/-- Writes to a stall's registers. -/
def writeStall (s : State) (st : Stall) (o : Nat) (fs : List Fld) (data lanes : Nat) : State :=
  let p : RegPlace := .stall st o
  let act := data &&& lanes
  let merged := mergeWord (getReg s p.addr).toNat data lanes
  let low := bitOf lanes 0
  if o = 0x400 then
    when low (fun s => contextSwitch s st (asRegion (field act 0 6)) ⟨field act 8 2 % 4, by omega⟩) s
  else if o = 0x408 then seqsFill (ctxLoadWrite s st merged)
  else if o = 0x420 then when low (fun s => laneOpen s st (asRegion (field act 0 6)) ⟨field act 8 2 % 4, by omega⟩) s
  else if o = 0x140080 then when (bitOf act 0) (fun s => foldStall s st) s
  else if o = 0x110100 then matRetire s st (field act 0 8) (bitOf act 8)
  else if 0x180000 ≤ o ∧ o < 0x181000 ∧ o % 0x80 = 0x18 then
    barrowCtl (storeReg s p fs data lanes) ⟨⟨st.val, by omega⟩, ⟨(o - 0x180000) / 0x80 % 32, by omega⟩⟩ act
  else match homeReg o with
    | some r =>
      if regionHome s r ≠ some st then s
      else if 0xC00 ≤ o ∧ o < 0xE00 then seqCtlWrite s st r merged
      else storeReg s p fs data lanes
    | none => match arr o 0x100 8 16 with
      | some n => settleIsland s (storeReg s p fs data lanes) st (asIsland n)
      | none => storeReg s p fs data lanes

/-- Whether a tier holds a frame of a task other than Ivain's. -/
def tierInUse (s : State) (t : Nat) : Bool :=
  s.homes.table.any (fun e => e.2.task != 0xFFFF && (e.2.tier.val == t || (e.2.move != 0 && e.2.dtier.val == t)))

/-- HOM_TIER: the mode changes only while the tier holds no task's frame (10 R308). -/
def tierWrite (s : State) (p : RegPlace) (t : Nat) (fs : List Fld) (data lanes : Nat) : State :=
  let u := storeReg s p fs data lanes
  if getF u (homTier t) 0 1 ≠ getF s (homTier t) 0 1 ∧ tierInUse s t then
    setF (setF u (homTier t) 0 1 (getF s (homTier t) 0 1)) (homTier t) 32 16 0x0307
  else u

/-- Writes to a manger's registers. -/
def writeManger (s : State) (m : Mg) (o : Nat) (fs : List Fld) (data lanes : Nat) : State :=
  let p : RegPlace := .manger m o
  let act := data &&& lanes
  let eng (o : Nat) : Fin 16 := engAt m ⟨o / 0x40 % 4, by omega⟩
  if o = 0x200010 then when (bitOf act 0) ledgerAdvance s
  else if o = 0x200000 then (if m = 0 then tableWritten (storeReg s p fs data lanes) else storeReg s p fs data lanes)
  else if o = 0x300038 then when (bitOf act 0) (fun s => gnClose s s.upd.gnStep) s
  else if 0x300100 ≤ o ∧ o < 0x300200 ∧ o % 0x40 = 0 then
    let s := storeReg s p fs data lanes
    let s := when (bitOf act 1) (fun s => engineStop s (eng (o - 0x300100))) s
    when (bitOf act 2) (fun s => engineResume s (eng (o - 0x300100))) s
  else if 0x300100 ≤ o ∧ o < 0x300200 ∧ o % 0x40 = 0x10 then
    match pushTrigger s (eng (o - 0x300100)) (BitVec.ofNat 64 act) with
    | some s => s
    | none => engStatus (setF s (engReg (eng (o - 0x300100)) 8) 6 1 1) (eng (o - 0x300100)) 0x0804
  else if 0x400000 ≤ o ∧ o < 0x400400 ∧ o % 0x80 = 0x18 then
    barrowCtl (storeReg s p fs data lanes) ⟨⟨32 + m.val, by omega⟩, ⟨(o - 0x400000) / 0x80 % 32, by omega⟩⟩ act
  else match arr o 0x600048 8 5, arr o 0x301000 8 512 with
    | some i, _ => tierWrite s p (i + 1) fs data lanes
    | none, some k => programWrite s m (k / 64) (k % 64) (BitVec.ofNat 64 (mergeWord (getReg s p.addr).toNat data lanes))
    | none, none => storeReg s p fs data lanes

/-- Writes to a shed's registers. A region whose reserves a new selection of flow sets would exceed keeps its set (12 R365). -/
def writeShed (s : State) (x : Shed) (o : Nat) (fs : List Fld) (data lanes : Nat) : State :=
  let p : RegPlace := .shed x o
  match arr o 0x30 8 4 with
  | some i =>
    let w := mergeWord (getReg s p.addr).toNat data lanes
    each ((List.range 16).filter (fun j => field w (4 * j) 4 ≠ getF s p.addr (4 * j) 4))
      (fun s j => (flowSelect s (asRegion (16 * i + j)) (field w (4 * j) 4)).2) s
  | none => storeReg s p fs data lanes

/-- A write of the bits `lanes` of a register. One in a domain that is off, or through another die than the keeper's of a
module-wide register, is discarded. -/
def writeReg (s : State) (a data lanes : Nat) : State :=
  match regPlace a with
  | none => s
  | some p =>
    match placeSpec p with
    | none => s
    | some fs =>
      if regOff s p ∨ !p.writable then s else
      match p with
      | .stall st o => writeStall s st o fs data lanes
      | .manger m o => writeManger s m o fs data lanes
      | .shed x o => writeShed s x o fs data lanes
      | _ => storeReg s p fs data lanes

/-- The bits that an access of a size names in its register. -/
def lanesOf (a size : Nat) : Nat := (2 ^ (8 * size) - 1) <<< (8 * (a % 8))

/-- A write of `size` bytes to register space: performed, or discarded and recorded (00 R6, 01 R30). -/
def registerWrite (s : State) (a size data : Nat) : State :=
  if regLegal a size then writeReg s (a / 8 * 8) (data <<< (8 * (a % 8))) (lanesOf a size)
  else accessEvent s a size true

def execRegisterWrite (addr : Addr) (size : Nat) (data : Word) (s : State) : Host.Outcome State Fault Refusal :=
  finish s (registerWrite s addr.toNat size data.toNat)

/-- A read of `size` bytes of register space: the bytes, or zeros with the access event (00 R6, 01 R30). -/
def registerRead (s : State) (a size : Nat) : List Byte × State :=
  if regLegal a size then
    ((match regPlace (a / 8 * 8) with
      | some p => if regOff s p then List.replicate size 0 else readRegs s a size
      | none => List.replicate size 0), s)
  else (List.replicate size 0, accessEvent s a size false)

end Sys2Proof.Machine
end

