-- ==== Sys2Proof/Machine/Events.lean ====
section
/-! DEFINITION. The event log, its copy ring in host memory, and MSI-X (00 R14, R18; 13 R388, R402, R403, R413; 14 R422). -/

namespace Sys2Proof.Machine

/-! ### Configuration space and MSI-X (13 R387, R388, R402; 15 R449) -/

/-- Dword index of the MSI-X capability in configuration space. -/
def msixCap : Nat := 16 + Config.factory 0x20 0 % 48

/-- A dword of configuration space as it is kept (PRESUMED: the standard header). -/
def cfgWord (s : State) (i : Nat) : Nat :=
  let w := (mget s.host.cfgSpace (if i < 16 then 0 else BitVec.ofNat 32 (Config.factory 0x21 i)) i).toNat
  if i = 0 then Config.factory 0x22 0 % 2 ^ 16 + 0x0E40 * 2 ^ 16
  else if i = 2 then 0x120000A2
  else if i = 4 then setBits w 0 26 0
  else if i = 6 then setBits w 0 32 0xC
  else if i = 7 then setBits w 0 4 0
  else if i = 5 ∨ i = 8 ∨ i = 9 then 0
  else if i = msixCap then (mget s.host.cfgSpace 0 i).toNat % 2 ^ 32 / 2 ^ 30 * 2 ^ 30 + 63 * 2 ^ 16 + 0x11
  else w

/-- MSI-X is enabled; the whole function is masked. -/
def msixOn (s : State) : Bool := bitOf (cfgWord s msixCap) 31
def msixFnMask (s : State) : Bool := bitOf (cfgWord s msixCap) 30

/-- A vector's table entry: masked at reset. -/
def msixEntry (s : State) (v : Nat) : Nat := (mget s.host.msix (BitVec.ofNat 128 (2 ^ 96)) v).toNat
def msixMasked (s : State) (v : Nat) : Bool := msixFnMask s || bitOf (msixEntry s v) 96

def onPba (s : State) (v : Nat) (b : Bool) : State :=
  onHost s (fun h => { h with pba := BitVec.ofNat 64 (setBits h.pba.toNat v 1 (flag b)) })

/-- Raise a vector: a message, or a pending bit while it is masked. Vector 63 is never raised. -/
def raiseVector (s : State) (v : Nat) : State :=
  if 63 ≤ v ∨ !msixOn s then s
  else if msixMasked s v then onPba s v true
  else send s (.msix v (field (msixEntry s v) 0 64) (field (msixEntry s v) 64 32))

/-- Pending vectors that are not masked any more send their messages. -/
def flushPending (s : State) : State :=
  each (List.range 63) (fun s v =>
    if bitOf s.host.pba.toNat v ∧ msixOn s ∧ !msixMasked s v then raiseVector (onPba s v false) v else s) s

/-! ### The log (13 R403, 14 R422) -/

def logSize : Nat := 1048576
def hushSize : Nat := 24576

/-- The 32 B of an event record (00 R14). -/
def eventBytes (e : Event) : List Byte :=
  toBytes 2 e.source.toNat ++ toBytes 2 e.code.toNat ++ toBytes 6 e.cycles.toNat ++ toBytes 4 e.seq.toNat
  ++ toBytes 6 e.arg0.toNat ++ toBytes 6 e.arg1.toNat ++ toBytes 1 e.severity.toNat
  ++ toBytes 5 (flag e.manual + 2 * flag e.lost)

def hostRange : Nat := 0x220000000000

/-- The host-window entries that a ring takes: each valid, with ro = 0. -/
def ringValid (s : State) (entry records : Nat) : Bool :=
  (List.range (ceilDiv (32 * records) segSize)).all (fun i => match mfind s.homes.hostwin (entry + i) with
    | some w => !w.ro
    | none => false)

/-- Bus address of a byte of the host range, where its entry maps it. -/
def busAddr (s : State) (a : Nat) : Option Nat :=
  if a < hostRange then none else
  (mfind s.homes.hostwin ((a - hostRange) / segSize)).map (fun w => w.haddr.toNat * segSize + a % segSize)

/-- Whether an address of the host range is mapped with No Snoop (13 R396). -/
def noSnoopAt (s : State) (a : Nat) : Bool := (mfind s.homes.hostwin ((a - hostRange) / segSize)).any (·.ns)

/-- A write of the block into host memory at an address of the host range. -/
def writeHost (s : State) (a : Nat) (d : List Byte) : State :=
  match busAddr s a with
  | some bus => send (putBytes s (hostBase + bus) d) (.hostWrite bus (noSnoopAt s a) d)
  | none => s

/-- The ring's vector: at once when 10 µs have passed since the last raise, else deferred. -/
def ringVector (s : State) (v : Nat) : State :=
  let now : Bool := match s.host.lastRaise with
    | some t => decide (t + 10000 ≤ s.time)
    | none => true
  if now then raiseVector (onHost s (fun h => { h with lastRaise := some s.time, deferred := false })) v
  else onHost s (fun h => { h with deferred := true })

/-- A record that has entered the log is copied to the ring when the filter passes it. -/
def copyToRing (s : State) (e : Event) : State :=
  match s.host.ring with
  | none => s
  | some r =>
    if e.severity.toNat < s.host.filter.toNat ∨ r.records = 0 then s else
    let a := hostRange + r.entry * segSize + 32 * (e.seq.toNat % r.records)
    match busAddr s a with
    | none => s
    | some _ => ringVector (onHost (writeHost s a (eventBytes e)) (fun h => { h with evSeq := e.seq })) r.vector

/-- Ivain enters a record: it gets its seq; a full log loses its oldest record. -/
def enterRecord (s : State) (e : Event) : State :=
  let e := { e with seq := s.host.nextSeq, lost := e.lost || s.host.logDropped }
  let s := onHost s (fun h => { h with
    log := (if logSize ≤ h.log.length then h.log.drop 1 else h.log) ++ [e], nextSeq := h.nextSeq + 1, logDropped := false })
  let s := when (e.severity = 4) (fun s => setF s (shedReg 0 0x300018) 2 1 1) s
  copyToRing s e

/-- Whether a groom runs Ivain (13 R408, R409). -/
def groomLive (s : State) : Bool := s.groom.a == .active || s.groom.b == .active

/-- The record at the head of the input queue enters the log, by Ivain. In HUSH the held copies have room for 24,576 records. -/
def eventEntry (s : State) : State :=
  if !groomLive s then s else
  match s.host.evq with
  | [] => s
  | e :: t =>
    let s := onHost s (fun h => { h with evq := t })
    if pstate s = 2 then
      if hushSize ≤ s.power.hushRecords then onHost s (fun h => { h with evLost := h.evLost + 1, logDropped := true })
      else enterRecord (onPower s (fun p => { p with hushRecords := p.hushRecords + 1 })) e
    else enterRecord s e

def execEventRecordEntry (s : State) : Host.Outcome State Fault Refusal := finish s (eventEntry s)

/-- The deferred vector of the ring, 10 µs after its last raise. -/
def eventVectorDelay (s : State) : State :=
  match s.host.ring, s.host.deferred with
  | some r, true => raiseVector (onHost s (fun h => { h with lastRaise := some s.time, deferred := false })) r.vector
  | _, _ => s

def execEventVectorDelay (s : State) : Host.Outcome State Fault Refusal := finish s (eventVectorDelay s)

/-! ### The status block (13 R413) -/

/-- pstate of the status block: 3 is an entry to DORM in progress. -/
def statusPstate (s : State) : Nat :=
  match s.power.entry with
  | some e => if e.target = 3 then 3 else pstate s
  | none => pstate s

def standbyReady (s : State) : Bool := s.groom.a == .standby || s.groom.b == .standby

/-- Versions of the images running and staged; 0 where there is none. -/
def runningVersion (s : State) : BitVec 32 :=
  match (if s.sec.running then s.sec.slot1 else s.sec.slot0) with
  | some i => i.version
  | none => 0

def stagedVersion (s : State) : BitVec 32 :=
  match s.sec.staged with
  | some b => (match (if b then s.sec.slot1 else s.sec.slot0) with | some i => i.version | none => 0)
  | none => 0

/-- Whether the mailboxes accept commands (13 R399, R408, R413). -/
def mailboxesReady (s : State) : Bool :=
  s.power.on && s.host.ready && groomLive s && decide (pstate s ≤ 2)

/-- A word of the status block. -/
def statusWord (s : State) (i : Nat) : Nat :=
  match i with
  | 0 => flag (mailboxesReady s) + (statusPstate s) <<< 1 + (activeGroom s) <<< 4 + (flag s.groom.takeover) <<< 5
      + (flag (standbyReady s)) <<< 6 + 0xA2 <<< 16
  | 1 => (runningVersion s).toNat + (stagedVersion s).toNat <<< 32
  | 2 => s.host.evSeq.toNat + s.host.evLost.toNat <<< 32
  | 3 => s.host.heartbeat.toNat
  | 4 => s.yard.mapver.toNat + (ownModule s).toNat <<< 16
  | _ => 0

def statusBytes (s : State) (off n : Nat) : List Byte :=
  (List.range n).map (fun i => BitVec.ofNat 8 (statusWord s ((off + i) / 8) >>> (8 * ((off + i) % 8))))

end Sys2Proof.Machine
end

