-- ==== Sys2Proof/Machine/Mailbox.lean ====
section
/-! DEFINITION. Mailbox slots: posting, arguments and results, beginning and completing a command (13 R398–R401, R404–R411). -/

namespace Sys2Proof.Machine

/-! ### Slots (13 R398) -/

def mbOf (s : State) (k : MbSlot) : MbSt := mget s.host.slots {} k.val
def putMb (s : State) (k : MbSlot) (m : MbSt) : State := onHost s (fun h => { h with slots := mset h.slots {} k.val m })
def updMb (s : State) (k : MbSlot) (f : MbSt → MbSt) : State := putMb s k (f (mbOf s k))

def mbOwned (m : MbSt) : Bool := bitOf m.owner.toNat 0
def mbAborted (m : MbSt) : Bool := bitOf m.owner.toNat 1
def mbBegun (m : MbSt) : Bool := bitOf m.owner.toNat 2
def mbCode (m : MbSt) : Nat := recBits m.cmd 0 16
def mbNoIrq (m : MbSt) : Bool := recBits m.cmd 16 1 = 1
def mbLen (m : MbSt) : Nat := recBits m.cmd 32 12
def mbTask (m : MbSt) : Nat := recBits m.cmd 48 16

/-- Bytes of a slot as the host reads them. -/
def slotByte (m : MbSt) (o : Nat) : Byte :=
  let w (v : Word) : Byte := BitVec.ofNat 8 (v.toNat >>> (8 * (o % 8)))
  if o < 0x08 then w m.owner
  else if o < 0x10 then w m.cmd
  else if o < 0x18 then w m.res
  else if o < 0x20 then w m.cookie
  else if o < 0x40 then 0
  else mget m.data 0 (o - 0x40)

def slotBytes (m : MbSt) (o n : Nat) : List Byte := (List.range n).map (fun i => slotByte m (o + i))

def wordByte (w : Word) (i : Nat) (b : Byte) : Word := BitVec.ofNat 64 (setBits w.toNat (8 * i) 8 b.toNat)

/-- A byte that the host writes into a slot it owns; reserved bytes are not kept. -/
def putSlotByte (m : MbSt) (o : Nat) (b : Byte) : MbSt :=
  if o < 0x08 then m
  else if o < 0x10 then { m with cmd := wordByte m.cmd (o % 8) b }
  else if o < 0x18 then { m with res := wordByte m.res (o % 8) b }
  else if o < 0x20 then { m with cookie := wordByte m.cookie (o % 8) b }
  else if o < 0x40 then m
  else { m with data := mset m.data 0 (o - 0x40) b }

def putSlotBytes (m : MbSt) (o : Nat) : List Byte → MbSt
  | [] => m
  | b :: t => putSlotBytes (putSlotByte m o b) (o + 1) t

/-! ### Arguments and results (13 R404) -/

/-- `n` bytes of the arguments from an offset of data. -/
def mbBytes (m : MbSt) (o n : Nat) : List Byte := (List.range n).map (fun i => mget m.data 0 (o + i))
def mbArg (m : MbSt) (o n : Nat) : Nat := ofBytes (mbBytes m o n)

/-- The next offset that is a multiple of a field's size, or of 8 for fields of more than 8 B. -/
def fieldAt (o n : Nat) : Nat := let a := if n ≤ 8 then max n 1 else 8; (o + a - 1) / a * a

/-- Fields (size, value) with the offsets at which they lie. -/
def placeFields : Nat → List (Nat × Nat) → List (Nat × Nat × Nat)
  | _, [] => []
  | o, (n, v) :: t => let a := fieldAt o n; (a, n, v) :: placeFields (a + n) t

def putData (d : Map Byte) (o : Nat) : List Byte → Map Byte
  | [] => d
  | b :: t => putData (mset d 0 o b) (o + 1) t

def putFields (d : Map Byte) (fs : List (Nat × Nat × Nat)) : Map Byte := fs.foldl (fun d f => putData d f.1 (toBytes f.2.1 f.2.2)) d

def fieldsEnd (fs : List (Nat × Nat × Nat)) : Nat := (fs.map (fun f => f.1 + f.2.1)).foldl max 0

/-! ### Completion (13 R401) -/

def slotVector (s : State) (k : MbSlot) : Nat := getF s (shedReg 0 (0x200040 + 8 * (k.val / 8))) (8 * (k.val % 8)) 8

/-- A slot returned to the host: results, the result word, the owner word with own and begun 0. -/
def completedSlot (m : MbSt) (status : Nat) (fields : List (Nat × Nat)) (wh : Nat) : MbSt :=
  let fs := placeFields 0 fields
  { m with
    data := putFields m.data fs
    res := BitVec.ofNat 64 (status % 2 ^ 16 + fieldsEnd fs * 2 ^ 16 + (wh % 2 ^ 16) * 2 ^ 32)
    owner := BitVec.ofNat 64 (field m.owner.toNat 8 8 <<< 8), quiet := false, count := 0, stat := 0 }

/-- The slot is returned and counted, and leaves the journal. -/
def mbReturn (s : State) (k : MbSlot) (status : Nat) (fields : List (Nat × Nat)) (wh : Nat) : State :=
  onGroom (satF (putMb s k (completedSlot (mbOf s k) status fields wh)) (shedReg 0 0x200018) 32 32 1)
    (fun g => { g with journal := g.journal.filter (fun j => j != k) })

/-- The slot is returned, then the interrupt is raised. -/
def mbComplete (s : State) (k : MbSlot) (status : Nat) (fields : List (Nat × Nat)) (wh : Nat) : State :=
  if mbNoIrq (mbOf s k) || (mbOf s k).quiet then mbReturn s k status fields wh
  else raiseVector (mbReturn s k status fields wh) (slotVector (mbReturn s k status fields wh) k)

def mbOk (s : State) (k : MbSlot) (fields : List (Nat × Nat)) : State := mbComplete s k 0 fields 0xFFFF
def mbFail (s : State) (k : MbSlot) (status : Nat) : State := mbComplete s k status [] 0xFFFF
/-- An argument out of range, with the offset of data at which it lies. -/
def mbIllegal (s : State) (k : MbSlot) (o : Nat) : State := mbComplete s k 0x0903 [] o

/-! ### The commands (13 R406, R407) -/

/-- The codes that R407 assigns. -/
def mbCodes : List Nat :=
  [0x0101, 0x0102, 0x0103, 0x0104, 0x0105, 0x0201, 0x0202, 0x0203, 0x0204, 0x0301, 0x0302, 0x0303, 0x0304,
   0x0401, 0x0402, 0x0403, 0x0404, 0x0405, 0x0406, 0x0407, 0x0408, 0x0409, 0x040A]
  ++ [0x0501, 0x0502, 0x0503, 0x0504, 0x0505, 0x0506, 0x0601, 0x0602, 0x0603, 0x0701, 0x0702, 0x0703, 0x0704, 0x0705,
   0x0706, 0x0707, 0x0708, 0x0801, 0x0802, 0x0803, 0x0901, 0x0902, 0x0903]
  ++ [0x0A01, 0x0A02, 0x0A03, 0x0A04, 0x0B01, 0x0B02, 0x0C01, 0x0D01, 0x0D02, 0x0D03]

def mbFamily (code : Nat) : Nat := code / 256

/-- Commands that ignore cmd.task (13 R404). -/
def taskFree (code : Nat) : Bool :=
  code == 0x0301 || ([0x01, 0x07, 0x08, 0x09, 0x0A, 0x0B, 0x0C, 0x0D] : List Nat).contains (mbFamily code)

/-- Whether a task is created. -/
def taskExists (s : State) (t : Nat) : Bool := t != 0xFFFF && s.sync.tasks.any (fun x => x.toNat == t)

/-- Commands served in HUSH (14 R421). -/
def servedInHush (code : Nat) : Bool := code == 0x0801 || code == 0x0803 || mbFamily code == 0x01 || mbFamily code == 0x0D

/-- Commands accepted while a shut-down is pending (16 R485). -/
def servedPending (code : Nat) : Bool :=
  code == 0x0801 || code == 0x0803 || mbFamily code == 0x0A || mbFamily code == 0x01 || mbFamily code == 0x0D

/-- Commands refused once continuity is lost (16 R467). -/
def needsContinuity (code : Nat) : Bool := code == 0x0201 || code == 0x0203

/-- Commands that are begun and not completed. -/
def begunSlots (s : State) : List MbSlot := s.groom.journal

/-- Names that a MEMORY command targets: first name and count. -/
def targetNames (m : MbSt) : Option (Nat × Nat) :=
  if mbCode m = 0x0401 ∨ mbCode m = 0x0402 ∨ mbCode m = 0x0403 then some (mbArg m 0 4, mbArg m 4 4) else none

/-- POWER-STATE RUN. -/
def asksRun (m : MbSt) : Bool := mbCode m == 0x0801 && mbArg m 0 1 == 0

/-- A command waits for an earlier one that targets the same names (13 R400), or for one of the eight places; POWER-STATE
RUN waits for the end of an entry to HUSH or DORM (14 R431). -/
def mbBlocked (s : State) (k : MbSlot) : Bool :=
  decide (8 ≤ (begunSlots s).length)
  || (asksRun (mbOf s k) && s.power.entry.any (fun e => decide (2 ≤ e.target.val)))
  || (match targetNames (mbOf s k) with
    | none => false
    | some (a, n) => (begunSlots s).any (fun j => match targetNames (mbOf s j) with
      | none => false
      | some (b, q) => decide (a < b + q ∧ b < a + n)))

/-- The status with which a command is refused whatever its arguments, or 0. -/
def mbGate (s : State) (m : MbSt) : Nat :=
  let code := mbCode m
  if 4032 < mbLen m then 0x0902
  else if pstate s = 2 ∧ !servedInHush code then 0x0606
  else if s.svc.pending ∧ !servedPending code then 0x0A06
  else if s.svc.contLost ∧ needsContinuity code then 0x0B01
  else if !taskFree code ∧ !taskExists s (mbTask m) then 0x0904
  else 0

/-- The command at the head of the queue, when the groom can begin it. -/
def mbHead (s : State) : Option MbSlot :=
  match s.host.posted with
  | [] => none
  | k :: _ => if mailboxesReady s && !mbBlocked s k then some k else none

/-- Take the head off the queue and set begun. -/
def mbBegin (s : State) (k : MbSlot) : State :=
  let s := onHost s (fun h => { h with posted := h.posted.drop 1 })
  let s := onGroom s (fun g => { g with journal := g.journal ++ [k] })
  updMb s k (fun m => { m with owner := BitVec.ofNat 64 (setBits m.owner.toNat 2 1 1) })

/-- Codes that no command has are refused as they come to the head; the fuel is the queue's length. -/
def refuseUnknown : Nat → State → State
  | 0, s => s
  | fuel + 1, s =>
    match mbHead s with
    | none => s
    | some k =>
      if mbCodes.contains (mbCode (mbOf s k)) then s
      else refuseUnknown fuel (mbFail (mbBegin s k) k 0x0901)

def settlePosted (s : State) : State := refuseUnknown s.host.posted.length s

/-- Run a command of a code: when the slot stands at the head, the groom begins it, refuses it, or carries it out. The
argument lengths it needs are given by `len`. -/
def runCommand (s : State) (k : MbSlot) (code : Nat) (len : MbSt → Nat → Bool) (body : State → MbSlot → MbSt → State) : State :=
  if mbHead s = some k ∧ mbCode (mbOf s k) = code then
    let m := mbOf s k
    let s := mbBegin s k
    settlePosted (
      if mbGate s m ≠ 0 then mbFail s k (mbGate s m)
      else if !len m (mbLen m) then mbFail s k 0x0902
      else body s k m)
  else s

/-- A command of a fixed argument length. -/
def exactly (n : Nat) : MbSt → Nat → Bool := fun _ l => l == n

/-! ### Posting (13 R399) -/

/-- An 8 B write of a slot's owner word. -/
def mailboxPost (s : State) (k : MbSlot) (w : Nat) : State :=
  let m := mbOf s k
  if mbOwned m then
    if bitOf w 1 ∧ !mbBegun m ∧ s.host.posted.contains k then
      let s := onHost s (fun h => { h with posted := h.posted.filter (fun j => j != k) })
      settlePosted (satF (mbFail s k 0x0905) (shedReg 0 0x200018) 16 16 1)
    else s
  else
    let s := putMb s k { m with owner := BitVec.ofNat 64 (w &&& 0xFF03) }
    if !bitOf w 0 then s
    else if bitOf w 1 then satF (mbFail s k 0x0905) (shedReg 0 0x200018) 16 16 1
    else settlePosted (onHost s (fun h => { h with posted := h.posted ++ [k] }))

end Sys2Proof.Machine
end

