-- ==== Sys2Proof/Machine/Losses.lean ====
section
/-! DEFINITION. What loss of storage does, and accesses to the local address space as they meet it: ECC, suspect names, lost
interfaces and ports, the patrol scrub, slow accesses and the search for a peer's masters (01 R36; 10 R296–R298, R316–R320;
14 R419; 16 R470). -/

namespace Sys2Proof.Machine

/-! ### Suspect names (10 R303, R318, R320) -/

def asMg (i : Nat) : Mg := ⟨i % 4, by omega⟩
def asShed (i : Nat) : Shed := ⟨i % 4, by omega⟩

/-- The sets that the parameter table holds. -/
def allSets (s : State) : List (BitVec 16 × Nat) :=
  (List.range (getF s (mangerReg 0 0x300000) 48 16 + 1)).filterMap (fun i => (setDesc s (BitVec.ofNat 16 i)).map (fun d => (BitVec.ofNat 16 i, d)))

/-- Shards owned here whose masters or state lie in a name. -/
def shardsIn (s : State) (name : Nat) : List (BitVec 16 × BitVec 24) :=
  (allSets s).flatMap (fun e => ((localShards s e.2).filter (fun x => (homeNames e.2 x.2).contains name)).map (fun x => (e.1, x.1)))

/-- Shards with a derived copy in a name, with the engine that holds them. -/
def copiesIn (s : State) (name : Nat) : List (BitVec 16 × BitVec 24 × Fin 16) :=
  (allSets s).flatMap (fun e => ((shardsOf s e.2).filter (fun x => [0, 1].any (fun i =>
    let c := sdCopy e.2 i
    let a := srCopy x.2 i
    let n := copyBytes c a (srLen x.2)
    c.en && decide (name * segSize < a + n ∧ a < (name + 1) * segSize))) ).map (fun x => (e.1, x.1, srEng x.2)))

/-- Whether a name lies in a staging pool, a spill area or another area that Ivain allocated. -/
def spillName (s : State) (name : Nat) : Bool :=
  let within (base n : Nat) : Bool := decide (base ≤ name ∧ name < base + n)
  within (getF s (poolReg false) 0 27) (getF s (poolReg false) 32 11)
  || within (getF s (poolReg true) 0 27) (getF s (poolReg true) 32 11)
  || (List.finRange 64).any (fun r => match regionHome s r with
    | some st => within (getF s (splReg st r) 0 27) (getF s (splReg st r) 32 11)
    | none => false)
  || ([0, 1, 2, 3] : List Shed).any (fun x => within (getF s (shedSpl x) 0 27) (getF s (shedSpl x) 32 11))
  || s.homes.areas.any (fun e => within e.2.1 e.2.2.1)

def markSuspect (s : State) (name : Nat) : State :=
  match nameRec s name with
  | some r => putRec s name { r with suspect := true }
  | none => s

/-- Shards become suspect, each with its event (07 R235). -/
def suspectShards (s : State) (l : List (BitVec 16 × BitVec 24)) : State :=
  each l (fun s x => if isSuspect s x.1 x.2 then s else suspectEvent (suspectShard s x.1 x.2) (srcManger 0 0x3F) x.1 x.2) s

/-- Names become suspect: shards with masters there stop, derived copies there are regenerated, and the loss of staging or
spill replays the step. -/
def suspectNames (s : State) (names : List Nat) : State :=
  let s := each names markSuspect s
  let s := suspectShards s (names.flatMap (shardsIn s)).eraseDups
  let s := each (names.flatMap (copiesIn s)).eraseDups (fun s x => pushLater s x.2.2 (triggerWord x.1 x.2.1 0 1)) s
  if names.any (spillName s) ∧ liveRegions s ≠ [] then replayStep s 2 else s

/-- A failing frame is retired and its name moved (10 R307, R318). -/
def retireName (s : State) (name : Nat) : State :=
  match nameRec s name with
  | none => s
  | some r =>
    let s := emit s (srcManger (nameManger name) 0x3F) 0x0383 name (r.frame + r.tier.val * 2 ^ 32)
    if r.move ≠ 0 then
      onHomes s (fun h => { h with moves := h.moves.map (fun j => if j.name = name then { j with retire := true } else j) })
    else (requestMove s { moveOf name with retire := true } r.tier.val).2

/-! ### Places on the loft interfaces (10 R294, R299) -/

/-- Interface and offset of an address homed in a loft. -/
def ifaceAt (s : State) (a : Nat) : Option (Nat × Nat) :=
  match locate s a with
  | .mem _ _ tier name =>
    match nameRec s name with
    | some r =>
      let b := a % segSize / 4096
      if tier = 1 then some (blockIface s r.frame b, blockOffset s r.frame b + a % 4096)
      else if tier = 2 then some (protIface r.frame b, (7679 - r.frame / 112) * segSize + b * 4096 + a % 4096)
      else none
    | none => none
  | _ => none

/-- What lies at an offset of an interface: tier, frame and block; none for parity. -/
def ifaceFrame (s : State) (g off : Nat) : Option (Nat × Nat × Nat) :=
  let k := 7679 - off / segSize
  if off / segSize ≤ 7679 ∧ k < protBands s then
    let p := k % 8
    let b := off % segSize / 4096
    if g % 8 = p then none
    else
      let d := if g % 8 < p then g % 8 else g % 8 - 1
      some (2, k * 112 + (g / 8) * 7 + (d + 7 - b % 7) % 7, b)
  else if mangerLocal s then
    let q := off / 4096 * 32 + (g % 8) * 4 + g % 32 / 8
    some (1, g / 32 * 245760 + q / 512, q % 512)
  else
    let q := off / 4096 * 128 + (g % 8) * 16 + (g % 32 / 8) * 4 + g / 32
    some (1, q / 512, q % 512)

/-- The name that a frame holds. -/
def frameName (s : State) (t f : Nat) : Option Nat :=
  (s.homes.table.find? (fun e => e.2.tier.val == t && e.2.frame == f)).map Prod.fst

def srcIface (g : Nat) : BitVec 16 := srcManger (asMg (g / 32)) (g % 32)

/-- An entry of the error log of an interface's manger (10 R321): the pins in error, data pins 0 to 31 and the
error-detection pins 32 and 33. -/
def logError (s : State) (g line kind pins : Nat) : State :=
  let base := mangerReg (asMg (g / 32)) 0x500000
  let j := getF s (base + 0x18) 0 6
  let half := flag (field pins 0 16 = 0 && field pins 16 16 ≠ 0)
  let w := line % 2 ^ 34 + (g % 32) <<< 34 + kind <<< 40 + half <<< 42 + (field pins 32 2) <<< 43
    + (field pins (16 * half) 16) <<< 48
  let s := setReg s (base + 0x200 + 8 * j) (BitVec.ofNat 64 w)
  satF (addF s (base + 0x18) 0 6 1) (base + 0x18) 32 32 1

/-! ### Interface loss (10 R318, R319; 16 R470) -/

/-- Loft repairs of R487 carry the loft as their die. -/
def loftDie (g : Nat) : Nat := 0x30 + g / 8 % 16

def repairRecord (s : State) (kind : Fin 11) (die loc : Nat) : State :=
  emit (addRepair s kind die loc) (srcGroom s) 0x0A82 die (kind.val + (loc % 2 ^ 44) <<< 4)

/-- The interfaces of an interface's domain, its tier-1 frames as first and count. -/
def domainOf (s : State) (g : Nat) : List Nat × Nat × Nat :=
  if mangerLocal s then ((List.range 32).map (fun i => g / 32 * 32 + i), g / 32 * 245760, 245760 - 32 * protBands s)
  else (List.range 128, 0, 983040 - 128 * protBands s)

/-- Frames retired after `k` interfaces of a domain are lost. -/
def lossFrames (s : State) (g k : Nat) : Nat :=
  ceilDiv ((domainOf s g).2.2 * ((if mangerLocal s then 16 else 4) * k)) 512

/-- Blocks of a protected name that parity cannot rebuild, since its loft has lost a second interface, read poisoned. -/
def poisonLost (s : State) (name : Nat) (r : HomeRec) : State :=
  match framePlace s 2 r.frame 0 name with
  | .mem _ mark _ _ =>
    let bs := (List.range 512).filter (fun b => ifaceLost s (protIface r.frame b))
    let offs := bs.flatMap (fun b => (List.range 64).map (fun i => b * 4096 + 64 * i))
    { s with poison := offs.foldl (fun m o => mput m ((mark + o) / 64) ()) s.poison }
  | _ => s

/-- A move that finds no other destination frame is refused: the name stays, and what the move held proceeds (10 R307). -/
def dropMove (s : State) (j : MoveJob) (r : HomeRec) : State :=
  let s := onHomes s (fun h => { h with moves := h.moves.filter (fun k => k.name != j.name) })
  let s := invalidate (putRec s j.name { r with move := 0, dtier := 0, dframe := 0, pin := j.pinAfter.getD r.pin }) j.name
  let s := keepQuota (moveFailed (tierRefusal s r.dtier.val 0x0304) j 0x0304) r.task.toNat
  let s := each j.held holdOrLand s
  let s := match j.forEngine with
    | some e => engineMoved s e j.name
    | none => s
  startQueued s j.owner s.homes.moveQueue.length

/-- A move whose destination is lost takes another frame and starts again (10 R307). -/
def restartMove (s : State) (lost : HomeRec → Bool) (j : MoveJob) : State :=
  match nameRec s j.name with
  | none => s
  | some r =>
    if !lost r then s else
    match takeFrame s r.dtier.val (nameOnly s j.name r.dtier.val) with
    | none => dropMove s j r
    | some (f, s) =>
      let s := onHomes s (fun h => { h with retired := h.retired ++ [(r.dtier.val, r.dframe)] })
      let s := emit s (srcManger (nameManger j.name) 0x3F) 0x0383 j.name (r.dframe + r.dtier.val * 2 ^ 32)
      putRec s j.name { r with dframe := f }

/-- Whether a move's destination lies on a module interface, or behind a CXL port. -/
def destOnIface (s : State) (g : Nat) (r : HomeRec) : Bool :=
  match r.dtier.val with
  | 1 => !mangerLocal s || r.dframe / 245760 == g / 32
  | 2 => r.dframe % 112 / 7 == g / 8
  | _ => false
def destOnPort (p : Nat) (r : HomeRec) : Bool := (r.dtier == 3 || r.dtier == 4) && r.dframe / 2097152 == p

/-- Rebuilding moves wait for a place in band order (10 R318). -/
def queueRebuild (s : State) (name : Nat) (r : HomeRec) : State :=
  if r.move = 1 then s
  else
    let s := putRec s name { r with move := 2 }
    onHomes s (fun h => { h with moveQueue := h.moveQueue ++ [({ moveOf name with retire := true }, 2)] })

def insertBand (e : Nat × HomeRec) : List (Nat × HomeRec) → List (Nat × HomeRec)
  | [] => [e]
  | x :: t => if e.2.frame < x.2.frame then e :: x :: t else x :: insertBand e t

/-- What a lost interface costs: moves into it start again, the loft's protected names are rebuilt, the domain's top tier-1 frames
are retired, and the names striped over it are suspect (10 R318; 16 R470). -/
def lossHandled (s : State) (g first top : Nat) (newly : List Nat) (again : Bool) : State :=
  let s := each s.homes.moves (fun s j => restartMove s (destOnIface s g) j) s
  -- protected frames of the loft
  let prot := (s.homes.table.filter (fun e => e.2.tier.val == 2 && e.2.frame % 112 / 7 == g / 8)).foldl (fun l e => insertBand e l) []
  let s := if again then each prot (fun s e => poisonLost s e.1 e.2) s else s
  let bandFrames := (List.range (protBands s - 3)).flatMap (fun i => (List.range 7).map (fun j => (i + 3) * 112 + g / 8 * 7 + j))
  let freeProt := bandFrames.filter (fun f => !(usedFrames s 2).contains f)
  let s := onHomes s (fun h => { h with retired := h.retired ++ freeProt.map (fun f => (2, f)) })
  let s := each prot (fun s e => match nameRec s e.1 with
    | some r => queueRebuild s e.1 r
    | none => s) s
  -- tier-1 frames of the domain
  let mine := (s.homes.table.filter (fun e => e.2.tier.val == 1 && decide (first ≤ e.2.frame ∧ e.2.frame < top))).map Prod.fst
  let freeTop := newly.filter (fun f => (frameName s 1 f).isNone)
  let s := onHomes s (fun h => { h with retired := h.retired ++ freeTop.map (fun f => (1, f)) })
  let s := each (newly.filterMap (frameName s 1)) retireName s
  let s := suspectNames s (mine ++ (if again then prot.map Prod.fst else []))
  each ([0, 1, 2, 3] : List Mg) (fun s m => startQueued s m s.homes.moveQueue.length) s

def interfaceLost (s : State) (g : Nat) : State :=
  if ifaceLost s g then s else
  let dom := domainOf s g
  let k := (dom.1.filter (ifaceLost s)).length
  let again := (List.range 8).any (fun i => ifaceLost s (g / 8 * 8 + i))
  let x0 := lossFrames s g k
  let x1 := lossFrames s g (k + 1)
  let top := dom.2.1 + dom.2.2
  let newly := (List.range (x1 - x0)).map (fun i => top - 1 - x0 - i)
  let s := setF s (ifcReg g) 0 2 2
  let s := emit s (srcIface g) 0x0384 g (x1 - x0)
  let s := addRepair s 10 (loftDie g) g
  lossHandled s g dom.2.1 top newly again

def execInterfaceLost (iface : Fin 128) (s : State) : Host.Outcome State Fault Refusal := finish s (interfaceLost s iface.val)

/-! ### ECC (10 R296, R318; 16 R470) -/

def recentTimes (s : State) (key span : Nat) : List Nat :=
  (mget s.homes.uncTimes [] key ++ [s.time]).filter (fun t => s.time < t + span)

/-- A count of times within a span is kept; true when it reaches a limit. -/
def keepTime (s : State) (key span limit : Nat) : Bool × State :=
  let l := recentTimes s key span
  (decide (limit ≤ l.length), onHomes s (fun h => { h with uncTimes := mput h.uncTimes key l }))

/-- An interface with 16 lines beyond one pin in 24 h is lost. -/
def countUnc (s : State) (g : Nat) : State :=
  let s := satF s (ifcReg g) 24 16 1
  match keepTime s g 86400000000000 16 with
  | (true, s) => interfaceLost s g
  | (false, s) => s

/-- So is one with more than 1,000 corrected lines in an hour after its repairs are exhausted. -/
def countCorr (s : State) (g : Nat) : State :=
  let s := satF s (ifcReg g) 8 16 1
  if getF s (ifcReg g) 56 1 = 0 then s else
  match keepTime s (128 + g) 3600000000000 1001 with
  | (true, s) => interfaceLost s g
  | (false, s) => s

/-- A line read with an error that is corrected and written back. -/
def lineCorrected (s : State) (g line pins : Nat) : State := countCorr (logError s g line 0 pins) g

/-- A line with an error beyond one pin (10 R318): rebuilt from parity, or poisoned. -/
def lineUncorrected (s : State) (g line pins : Nat) (where' : Option (Nat × Nat × Nat)) : State :=
  match where' with
  | none => countUnc (logError s g line 3 pins) g
  | some (tier, f, off) =>
    let name := frameName s tier f
    let a := (name.map (fun n => n * segSize + off)).getD 0
    if tier = 2 then
      let s := logError s g line 3 pins
      let s := if name.isSome then emitSev s 2 false (srcIface g) 0x0382 a (f + tier * 2 ^ 32) else s
      countUnc s g
    else
      let s := logError s g line 1 pins
      let s := { s with poison := mput s.poison ((f * segSize + off) / 64) () }
      let s := if name.isSome then emit s (srcIface g) 0x0382 a (f + tier * 2 ^ 32) else s
      let s := match name with
        | some n => suspectNames (retireName s n) [n]
        | none => s
      countUnc s g

/-! ### Accesses (01 R36; 10 R306, R316; 14 R419) -/

/-- The CXL port behind an address: that of its range, or of its name's frame. -/
def portsAt (s : State) (a : Nat) : List Nat :=
  (if 0x020000000000 ≤ a ∧ a < 0x220000000000 then [(a - 0x020000000000) / 0x040000000000] else [])
  ++ (match nameRec s (a / segSize) with
    | some r => if r.tier = 3 ∨ r.tier = 4 then [r.frame / 2097152] else []
    | none => [])

/-- An access waits while a CXL port that has been up retrains, or a loft sleeps. -/
def pieceWaits (s : State) (a : Nat) : Bool :=
  (decide (a < 0x400000000000) && (portsAt s a).any (fun p => cxlState s p == 1 && s.homes.cxlWasUp.contains p))
  || (match ifaceAt s a with
    | some (g, _) => decide (pstate s = 1) && !loftOn s (g / 8)
    | none => false)

def rangeWaits (s : State) (a n : Nat) : Bool := (pieces a n).any (fun q => pieceWaits s q.1)

/-- What the sender of a read hears. -/
def answerRead (s : State) (x : Access) (code : Nat) (poison : Bool) (d : List Byte) : State :=
  match x.agent with
  | .remote m tag => respond s m 4 tag code d (if poison then 2 ^ (ceilDiv d.length 64) - 1 else 0)
  | .host =>
    if s.host.pendingReads.any (fun e => e.2 == x.addr) then hostReadDone s x.addr code d poison
    else send s (.readReply .host (BitVec.ofNat 16 code) poison d)
  | a => send s (.readReply a (BitVec.ofNat 16 code) poison d)

/-- ECC on the lines that a read touches. -/
def readErrors (s : State) (x : Access) : State :=
  let at' (o : Nat) : Nat := (x.addr.toNat + o) / 64 * 64
  let pins (s : State) : Nat × State := unstated s 0x18
  let s := each (x.corr.filter (fun o => o < x.size)) (fun s o => match ifaceAt s (at' o) with
    | some (g, off) => let (p, s) := pins s; lineCorrected s g (off / 64) p
    | none => s) s
  each (x.bad.filter (fun o => o < x.size)) (fun s o => match ifaceAt s (at' o), nameRec s (at' o / segSize) with
    | some (g, off), some r => let (p, s) := pins s; lineUncorrected s g (off / 64) p (some (r.tier.val, r.frame, at' o % segSize))
    | _, _ => s) s

/-- Poisoned lines that a read finds: in the lofts they are logged, behind a CXL port counted. -/
def readPoison (s : State) (x : Access) : State :=
  each (pieces x.addr.toNat x.size) (fun s q =>
    if !(readPiece s q.1 q.2).2 then s else
    match ifaceAt s q.1 with
    | some (g, off) => logError s g (off / 64) 2 0
    | none => match nameRec s (q.1 / segSize) with
      | some r => if r.tier = 3 ∨ r.tier = 4 then satF s (cxpReg (r.frame / 2097152) 0x10) 0 16 1 else s
      | none => s) s

/-- An access of an agent to the local address space. -/
def memoryAccess (s : State) (x : Access) : State :=
  let a := x.addr.toNat
  let n := if x.write then x.data.length else x.size
  if regSpace ≤ a then
    if x.write then answerWrite (registerWrite s a n (ofBytes x.data)) x 0
    else let (d, s) := registerRead s a n; answerRead s x 0 false d
  else if rangeWaits s a n then onHomes s (fun h => { h with held := h.held ++ [x] })
  else if x.write then holdOrLand s x
  else
    let c := rangeCode s a n
    if c ≠ 0 then answerRead (refuseEvent s x.agent (refusedAt s a n) c) x c false []
    else
      let s := readErrors s x
      let s := readPoison (touchRange s a n) x
      answerRead s x 0 (poisonRange s a n) (readRange s a n)

def execMemoryAccess (a : Access) (s : State) : Host.Outcome State Fault Refusal := finish s (memoryAccess s a)

/-- A write of the host, to its module. -/
def hostWriteTo (s : State) (m : ModuleId) (x : Access) : State :=
  if m = ownModule s then memoryAccess s x
  else (writeRemote s .host m x.addr.toNat x.data x.poison none).2

/-- Whether a write of the host waits for a move, a port or a loft. -/
def hostWriteWaits (s : State) (m : ModuleId) (x : Access) : Bool :=
  m == ownModule s && decide (x.addr.toNat < regSpace)
  && (rangeWaits s x.addr.toNat x.data.length || rangeMoving s x.addr.toNat x.data.length)

/-- Posted writes of the host are applied in the order they arrive (13 R395): the head goes when it need not wait. -/
def releaseHost : Nat → State → State
  | 0, s => s
  | fuel + 1, s =>
    match s.host.heldWrites with
    | [] => s
    | (m, x) :: t =>
      if hostWriteWaits s m x then s
      else releaseHost fuel (hostWriteTo (onHost s (fun h => { h with heldWrites := t })) m x)

def releaseHostWrites (s : State) : State := releaseHost s.host.heldWrites.length s

/-- A posted write of the host is performed, or waits behind those held before it. -/
def postHostWrite (s : State) (m : ModuleId) (x : Access) : State :=
  releaseHostWrites (onHost s (fun h => { h with heldWrites := h.heldWrites ++ [(m, x)] }))

/-- Held accesses are tried again, oldest first; those that still wait stay held. -/
def releaseHeld (s : State) : State :=
  releaseHostWrites (each s.homes.held memoryAccess (onHomes s (fun h => { h with held := [] })))

/-- An access that exceeds its tier's bound completes poisoned (10 R289, R317; 13 R397). -/
def slowAccess (s : State) (x : Access) : State :=
  let a := x.addr.toNat
  match locate s a with
  | .mem _ _ tier name =>
    if tier < 3 then s else
    let (src, s) : BitVec 16 × State := match nameRec s name with
      | some r =>
        if tier = 5 then (srcShed 0 0x30, satF s (shedReg 0 0x200010) 32 32 1)
        else let p := r.frame / 2097152
          (srcShed (asShed (p / 2)) (0x20 + p % 2), satF s (cxpReg p 0x10) 16 16 1)
      | none => (srcShed 0 0x30, satF s (shedReg 0 0x200010) 32 32 1)
    let s := emit s src 0x0387 a tier
    if x.write then holdOrLand s { x with poison := true, marks := BitVec.allOnes 64 }
    else answerRead s x 0 true (readRange s a x.size)
  | _ => s

def execSlowAccess (a : Access) (s : State) : Host.Outcome State Fault Refusal := finish s (slowAccess s a)

/-! ### Lofts in TRIM (14 R419) -/

/-- An access wakes a loft; the accesses that waited for it proceed. -/
def loftWake (s : State) (l : Nat) : State :=
  if pstate s ≠ 1 ∨ loftOn s l then s else
  let s := onHomes (setF s (aonReg 8) (36 + l) 1 1) (fun h => { h with awake := mput h.awake l s.time })
  releaseHeld s

def execLoftWake (l : Fin 16) (s : State) : Host.Outcome State Fault Refusal := finish s (loftWake s l.val)

/-- After 1 ms without access the loft sleeps again. -/
def execLoftSelfRefresh (l : Fin 16) (s : State) : Host.Outcome State Fault Refusal :=
  finish s (
    if pstate s = 1 ∧ (mfind s.homes.awake l.val).isSome then
      onHomes (setF s (aonReg 8) (36 + l.val) 1 0) (fun h => { h with awake := mdel h.awake l.val })
    else s)

/-! ### CXL ports (10 R316, R318, R323) -/

/-- A port's link leaves state up and retrains. -/
def execCxlLinkRetrain (p : Fin 8) (s : State) : Host.Outcome State Fault Refusal :=
  finish s (
    if cxlState s p.val = 2 then
      let s := satF (setF s (cxpReg p.val 0) 0 3 1) (cxpReg p.val 0x10) 32 16 1
      onHomes s (fun h => { h with
        cxlWasUp := p.val :: h.cxlWasUp.filter (fun q => q != p.val), cxlDownSince := mput h.cxlDownSince p.val s.time })
    else s)

/-- A port reaches state up: its device's width, rate and capacity are shown, held accesses resume, and the first time
since cold start it sets its own lock. -/
def execCxlPortUp (p : Fin 8) (width rate : Nat) (flash : Bool) (frames : BitVec 22) (s : State) :
    Host.Outcome State Fault Refusal :=
  finish s (
    if cxlState s p.val = 0 ∨ cxlState s p.val = 1 then
      let r := cxpReg p.val 0
      let s := setF (setF (setF s r 0 3 2) r 4 4 width) r 8 4 rate
      let s := setF (setF s r 12 1 (flag flash)) r 24 22 frames.toNat
      let s := setF s (cxpReg p.val 8) 8 1 1
      releaseHeld (onHomes s (fun h => { h with cxlDownSince := mdel h.cxlDownSince p.val }))
    else s)

/-- A port that stays down for 100 ms is failed, and its frames are lost; moves into them start again (10 R307, R318). -/
def execCxlPortFailed (p : Fin 8) (s : State) : Host.Outcome State Fault Refusal :=
  finish s (
    if cxlState s p.val = 1 ∨ cxlState s p.val = 2 then
      let s := setF s (cxpReg p.val 0) 0 3 3
      let s := emit s (srcShed (asShed (p.val / 2)) (0x20 + p.val % 2)) 0x0388 p.val 0
      let names := (s.homes.table.filter (fun e =>
        (e.2.tier.val == 3 || e.2.tier.val == 4) && e.2.frame / 2097152 == p.val)).map Prod.fst
      let s := suspectNames s names
      releaseHeld (each s.homes.moves (fun s j => restartMove s (destOnPort p.val) j) s)
    else s)

/-! ### The patrol scrub (10 R296, R297) -/

def spareRows (g : Nat) : Nat := Config.factory 0x30 g
def spareCols (g : Nat) : Nat := Config.factory 0x31 g
/-- Row and column of a line in its memory device: the geometry is the device's. -/
def lineRow (line : Nat) : Nat := Config.unstated 0x30 line
def lineCol (line : Nat) : Nat := Config.unstated 0x31 line

def repairsOn (s : State) (g : Nat) (kind : Fin 11) : Nat :=
  (s.svc.repairs.filter (fun r => r.kind == kind && r.die.toNat == loftDie g && r.loc.toNat / 2 ^ 34 % 128 == g)).length

/-- A spare row or column is taken; without one, the interface's repairs are exhausted. -/
def loftRepair (s : State) (g line : Nat) (kind : Fin 11) : State :=
  if repairsOn s g kind < (if kind = 6 then spareRows g else spareCols g) then
    let s := satF s (ifcReg g) (if kind = 6 then 40 else 48) 8 1
    repairRecord s kind (loftDie g) (line % 2 ^ 34 + g * 2 ^ 34)
  else if getF s (ifcReg g) 56 1 = 1 then s
  else emit (setF s (ifcReg g) 56 1 1) (srcIface g) 0x0389 g 0

/-- A corrected line counts toward its row and its column in this pass. -/
def countRepair (s : State) (g line : Nat) : State :=
  let row := lineRow line
  let rk := g + 128 * row
  let n := mget s.homes.rowCorr 0 rk + 1
  let s := onHomes s (fun h => { h with rowCorr := mput h.rowCorr rk n })
  let s := if n = 4 then loftRepair s g line 6 else s
  let ck := g + 128 * lineCol line
  if s.homes.colRows.contains (ck, row) then s else
  let s := onHomes s (fun h => { h with colRows := (ck, row) :: h.colRows })
  if (s.homes.colRows.filter (fun e => e.1 == ck)).length = 16 then loftRepair s g line 7 else s

/-- A pass over an interface begins at its first line. -/
def newPass (s : State) (g : Nat) : State :=
  onHomes s (fun h => { h with
    rowCorr := h.rowCorr.filter (fun e => e.1 % 128 != g), colRows := h.colRows.filter (fun e => e.1 % 128 != g) })

/-- Pins in error: those whose symbol differs. -/
def pinsOf (errs : List (Fin 34 × BitVec 16)) : List (Fin 34) :=
  (List.finRange 34).filter (fun p => ((errs.filter (fun e => e.1 == p)).map Prod.snd).foldl (· ^^^ ·) 0 ≠ 0)

/-- The scrubber reads one line. -/
def patrolScrub (s : State) (g line : Nat) (errs : List (Fin 34 × BitVec 16)) : State :=
  if getF s (mangerReg (asMg (g / 32)) 0x500010) 0 8 = 0 ∨ getF s (ifcReg g) 0 2 ≠ 0 ∨ 245760 * 1024 ≤ line then s else
  let s := if line = 0 then newPass s g else s
  let ps := pinsOf errs
  let mask := (ps.map (fun p => 2 ^ p.val)).foldl (· + ·) 0
  let off := 64 * line
  let where' := (ifaceFrame s g off).map (fun e => (e.1, e.2.1, e.2.2 * 4096 + off % 4096))
  let marked : Bool := match where' with
    | some (t, f, o) => (mfind s.poison (((if t = 2 then tier2Base else 0) + f * segSize + o) / 64)).isSome
    | none => false
  match ps with
  | [] => s
  | [_] => if marked then s else countRepair (lineCorrected s g line mask) g line
  | _ =>
    if marked then s else
    let (m, s) := unstated s 0x32
    if m % 2 = 0 then lineUncorrected s g line mask where'
    else match where' with
      | some (t, f, o) =>
        let p := (if t = 2 then tier2Base else 0) + f * segSize + o
        { putBytes s p (toBytes 64 (Config.miscorrected s.draws)) with draws := s.draws + 1 }
      | none => s

def execPatrolScrub (iface : Fin 128) (line : BitVec 34) (errs : List (Fin 34 × BitVec 16)) (s : State) :
    Host.Outcome State Fault Refusal := finish s (patrolScrub s iface.val line.toNat errs)

/-! ### The search for a peer (10 R320) -/

/-- A suspect shard is sound again: its names, its engine's parked update and its journal go on. -/
def shardSound (s : State) (set : BitVec 16) (shard : BitVec 24) (d r : Nat) : State :=
  let mine (p : Parked) : Bool := p.reason == .suspect && p.run.set == set && p.run.shard == shard
  let st := match s.upd.engines.findSome? (fun e => e.2.parked.find? mine) with
    | some p => p.run.step
    | none => match journal s r with
      | some j => if jPhase j < 3 then jStep j else jStep j + 1
      | none => 0
  let s := onUpd s (fun u => { u with
    suspects := u.suspects.filter (fun x => x != (set, shard))
    engines := u.engines.map (fun e => (e.1, { e.2 with
      parked := e.2.parked.filter (fun p => !mine p) })) })
  let s := each (homeNames d r) (fun s n => match nameRec s n with
    | some h => putRec s n { h with suspect := false }
    | none => s) s
  pushLater (pushLater s (srEng r) (triggerWord set shard 0 1)) (srEng r) (triggerWord set shard st 2)

/-- Whether a peer holds the shard at the same journal step. -/
def peerSeekResult (s : State) (set : BitVec 16) (shard : BitVec 24) (found : Bool) (master state : List Byte) : State :=
  if !isSuspect s set shard then s else
  match setDesc s set with
  | none => s
  | some d => match shardRec s d shard with
    | none => s
    | some r =>
      if !found ∨ mget s.homes.restoreLists [] set.toNat = [] then suspectEvent s (engSrc (srEng r)) set shard
      else
        let s := writeRange s (srMaster r) (master.take (mBytes d * srLen r)) false
        let n := if sdNstate d = 0 then 0 else stateAt d r (sdNstate d - 1) (srLen r) - srState r
        let s := writeRange s (srState r) (state.take n) false
        shardSound s set shard d r

def execPeerSeekResult (set : BitVec 16) (shard : BitVec 24) (found : Bool) (master state : List Byte) (s : State) :
    Host.Outcome State Fault Refusal := finish s (peerSeekResult s set shard found master state)

end Sys2Proof.Machine
end

