-- ==== Sys2Proof/Machine/Power.lean ====
section
/-! DEFINITION. Power: limits of the islands, input supervision, what a domain loses as it goes off, entry to and exit from
TRIM, HUSH and DORM, exit, and the start (14 R415–R439; 15 R454, R455; 17 R496, R500). -/

namespace Sys2Proof.Machine

def pwrState : Nat := aonReg 0x000
def pwrDom : Nat := aonReg 0x008
def pwrInput : Nat := aonReg 0x010
def pwrCnt : Nat := aonReg 0x040

/-! ### Limits (02 R53; 14 R436) -/

def setAllLimits (s : State) (l : List (Stall × Island)) (f : State → Stall → Island → IslLimit → IslLimit) : State :=
  settleIslands s (each l (fun t e => putLimit t e.1 e.2 (f s e.1 e.2 (limitOf t e.1 e.2))) s) l

/-- A step of an island lies from 7 to 31 (02 R52). -/
def asStep (n : Nat) : Fin 32 := ⟨max 7 (min n 31), by omega⟩

/-- The voltage-frequency loop sets the step it allows; `droop` marks a droop limit. -/
def execFrequencyChange (st : Stall) (island : Island) (vf : Fin 32) (droop : Bool) (s : State) :
    Host.Outcome State Fault Refusal :=
  finish s (setAllLimits s [(st, island)] (fun _ _ _ l => { l with vf := asStep vf.val, droop := droop }))

/-- A junction at 105 °C throttles the stall's islands to a step, until it is cooler. -/
def execThermalLimit (st : Stall) (inForce : Bool) (step : Fin 32) (s : State) : Host.Outcome State Fault Refusal :=
  finish s (setAllLimits s ((List.finRange 16).map (fun i => (st, i)))
    (fun _ _ _ l => { l with thermal := if inForce then some (asStep step.val) else none }))

/-- An interval with the input current above 160 A steps every island down, by an amount the spec does not state. -/
def overCurrent (s : State) (ma10 : Nat) : State :=
  let s := setF s pwrInput 16 16 ma10
  if ma10 ≤ 16000 then setAllLimits s allIslands (fun _ _ _ l => { l with current := 31 })
  else
    let (d, s) := unstated s 0x40
    setAllLimits (satF s pwrCnt 48 16 1) allIslands
      (fun s st i l => { l with current := asStep (islandStep s st i - 1 - d % max 1 (islandStep s st i)) })

def execOverCurrent (ma10 : BitVec 16) (s : State) : Host.Outcome State Fault Refusal := finish s (overCurrent s ma10.toNat)

/-- The power manager meets the module cap: above it every island goes down by the same amount, to step 7 at the lowest;
below it the limit may rise. The amounts are not stated. -/
def powerCapInterval (s : State) (watts : Nat) : State :=
  let s := setF s pwrInput 32 16 watts
  let (d, s) := unstated s 0x41
  if getF s (aonReg 0x18) 0 16 < watts then
    setAllLimits s allIslands (fun s st i l => { l with module := asStep (min l.module.val (islandStep s st i - 1 - d % 31)) })
  else setAllLimits s allIslands (fun _ _ _ l => { l with module := asStep (l.module.val + d % 32) })

def execPowerCapInterval (watts : BitVec 16) (s : State) : Host.Outcome State Fault Refusal :=
  finish s (powerCapInterval s watts.toNat)

/-! ### What a domain loses (14 R416, R417; 00 R9) -/

def dropRegs (s : State) (p : Nat → Bool) : State := { s with regs := s.regs.filter (fun e => !p e.1) }

def inStall (st : Stall) (lo hi a : Nat) : Bool := decide (stallReg st lo ≤ a ∧ a < stallReg st hi)
def inManger (m : Mg) (lo hi a : Nat) : Bool := decide (mangerReg m lo ≤ a ∧ a < mangerReg m hi)

/-- SRAM places of a stall. -/
def inSramOf (st : Stall) (p : Nat) : Bool := decide (sramAddr st 0 ≤ p ∧ p < sramAddr st 0 + 2 ^ 32)

/-- A stall's core loses power: SRAM, context slots, tokens and the registers of its units. -/
def coreLost (s : State) (st : Stall) : State :=
  let s := dropRegs s (fun a => inStall st 0x100000 0x1A0000 a || inStall st 0x600 0x800 a)
  let line (k : Nat) : Bool := inSramOf st (64 * k)
  { s with
    mem := s.mem.filter (fun c => !inSramOf st c.1)
    poison := s.poison.filter (fun c => !line c.1), tags := s.tags.filter (fun c => !line c.1)
    satLines := s.satLines.filter (fun c => !line c.1)
    yard := { s.yard with units := s.yard.units.filter (fun e => keyStall e.1 != st) }
    stats := s.stats.filter (fun e => e.1 / 16 != st.val), claimers := s.claimers.filter (fun e => e.1 / 32 != st.val)
    barrows := s.barrows.filter (fun e => e.1 / 32 != st.val) }

/-- Local shards with a home in a manger's share: of the master, the state or the journal. -/
def shardsAt (s : State) (m : Mg) : List (BitVec 16 × BitVec 24) :=
  (allSets s).flatMap (fun e => ((localShards s e.2).filter (fun x =>
    (srJrnl x.2 / segSize :: homeNames e.2 x.2).any (fun n => nameManger n == m))).map (fun x => (e.1, x.1)))

/-- A manger's engines lose power: their triggers go to the next manger's engines (14 R418). Where it happens during a commit,
every shard with a home there is suspect (07 R235). -/
def enginesLost (s : State) (m : Mg) : State :=
  let commits := (List.finRange 4).any (fun e => (engOf s (engAt m e)).run.any (·.begun))
  let s := if commits then suspectShards s (shardsAt s m) else s
  let s := dropRegs s (fun a => inManger m 0x400000 0x500000 a)
  let s := { s with barrows := s.barrows.filter (fun e => e.1 / 32 != 32 + m.val) }
  each (List.finRange 4) (fun s e =>
    let h := serving s (engAt m e)
    if h = engAt m e then s else passShards s (engAt m e) h) s

/-- Stalls that the map and the repairs put in service. -/
def serviceDom (s : State) : Nat :=
  ((List.finRange 32).map (fun st => if stallState s st = .inService then 2 ^ st.val else 0)).foldl (· + ·) 0 + 0xFFFFF * 2 ^ 32

/-- A stall's islands count from 0 as its core comes up (02 R54). -/
def countsUp (s : State) (st : Stall) : State :=
  each (List.finRange 16) (fun s i => putLimit s st i { limitOf s st i with cyc := 0, since := s.time }) s

/-- A stall's core comes up, empty. -/
def coreUp (s : State) (st : Stall) : State := countsUp (coreLost s st) st

/-- The 1 GHz counts of some dies begin as their domains come up (00 R17). -/
def diesUp (s : State) (dies : List Nat) : State :=
  onPower s (fun p => { p with dieUp := dies.foldl (fun m d => mset m 0 d s.time) p.dieUp })

/-- The dies whose domains HUSH takes down, and those that DORM takes down as well. -/
def hushDies : List Nat := List.range 36
def dormDies : List Nat := List.range 40

/-- Give PWR_DOM a value: domains that go off lose what they hold, stalls that come up start empty. -/
def setDomains (s : State) (dom : Nat) : State :=
  let old := (getReg s pwrDom).toNat
  let s := setF s pwrDom 0 52 dom
  let s := each (List.finRange 32) (fun s st =>
    if bitOf old st.val ∧ !bitOf dom st.val then coreLost s st
    else if !bitOf old st.val ∧ bitOf dom st.val then coreUp s st else s) s
  each ([0, 1, 2, 3] : List Mg) (fun s m =>
    if bitOf old (32 + m.val) ∧ !bitOf dom (32 + m.val) then enginesLost s m else s) s

/-- HUSH: stall relays and mangers go off as well; the sheds and the stalls' retention domains stay (14 R420, R421). The
lofts keep their mode, their protected bands and which of their interfaces are lost, as they keep their contents; the
registers that show these show them again, with their counters at 0 (00 R9; log entry 121). -/
def hushOff (s : State) : State :=
  let s := setDomains s 0
  let s := each (List.range 128) (fun s g => setReg s (ifcReg g) (BitVec.ofNat 64 (getF s (ifcReg g) 0 2))) s
  let s := setF s (mangerReg 0 0x500008) 32 16 0
  let s := dropRegs s (fun a =>
    (List.finRange 32).any (fun st => inStall st 0 0x10000 a || inStall st 0xF00000 0xF01000 a)
    || ([0, 1, 2, 3] : List Mg).any (fun m => inManger m 0 0x500000 a || inManger m 0x500010 0x500100 a
      || inManger m 0x500200 0x1000000 a))
  { s with
    seqs := [], claimers := [], stats := [], barrows := []
    yard := { s.yard with ports := s.yard.ports.filter (fun e => 4 ≤ e.1), lastFire := [], halts := [], reloaded := [] }
    upd := { suspects := s.upd.suspects }
    homes := { s.homes with caches := [], ringMet := [], windows := [], rowCorr := [], colRows := [], awake := [] }
    power := { s.power with hushRecords := 0 } }

/-- GRM_START, which the always-on island sets and shows by RETAIN when SH0 is off; and GRM_SB (15 R453, R456). -/
def grmStart : Nat := shedReg 0 0x300000
def grmSb : Nat := shedReg 0 0x300010

/-- PERST# and PWRGD_IN as GRM_SB shows them when SH0 comes up. -/
def pinsShown (s : State) : State := setF (setF s grmSb 0 1 (flag (!s.power.perst))) grmSb 1 1 (flag s.power.pwrgd)

/-- What outlives every rail: the fuses, the flash, the retention latch, the record of the last start, the memory of the host
and of the CXL devices. -/
def flashKept (s : State) : State :=
  let spareRegs (a : Nat) : Bool := (List.finRange 32).any (fun st => inStall st 0x110000 0x110080 a)
  let lost := (List.range 128).filter (ifaceLost s)
  let base : State := { State.reset with
    pending := s.pending, time := s.time, draws := s.draws, outbox := s.outbox
    regs := s.regs.filter (fun e => decide (e.1 = pwrRetain ∨ e.1 = grmStart) || spareRegs e.1)
    mem := s.mem.filter (fun c => cxlBase ≤ c.1)
    poison := s.poison.filter (fun c => cxlBase / 64 ≤ c.1 && c.1 < hostBase / 64)
    yard := { crossings := s.yard.crossings.filterMap (fun e =>
                if e.2.failed || e.2.spare.isSome then some (e.1, { e.2 with replays := 0 }) else none)
              outCol := s.yard.outCol, failed := s.yard.failed, relayed := s.yard.relayed }
    fab := { failedLanes := s.fab.failedLanes }
    svc := { repairs := s.svc.repairs, fuses := s.svc.fuses, points := s.svc.points, pointsTaken := s.svc.pointsTaken
             orderly := s.svc.orderly, untested := s.svc.untested, testedAt := s.svc.testedAt, rotationSet := s.time
             nextRow := s.svc.nextRow, contLost := s.svc.contLost, due := s.svc.due }
    sec := { slot0 := s.sec.slot0, slot1 := s.sec.slot1, pref := s.sec.pref, svn := s.sec.svn, resv := s.sec.resv
             next := s.sec.next, boot := s.sec.boot }
    host := { log := [], ready := false }
    power := { on := false, pwrgd := s.power.pwrgd, perst := s.power.perst, cause := s.power.cause, tested := s.power.tested
               strap := s.power.strap, tripped := s.power.tripped, dieUp := s.power.dieUp } }
  let base := each lost (fun t g => setF t (ifcReg g) 0 2 2) base
  let mode := getF s (mangerReg 0 0x500000) 1 1
  setF (setF base (mangerReg 0 0x500000) 0 1 mode) (mangerReg 0 0x500000) 1 1 mode

/-- DORM: the always-on island keeps its registers; the event log and Ivain's tables lie in flash; names whose frames lay in
the lofts keep their records, and their contents are lost (14 R416, R427). The map keeps its version, which changes with the
map only (02 R58), and a CXL port its lock, which clears at cold start only (00 R7). -/
def dormOff (s : State) : State :=
  let t := flashKept s
  let mode := getF s (mangerReg 0 0x500000) 0 2
  let t := setF t (mangerReg 0 0x500000) 0 2 mode
  let t := setF t (mangerReg 0 0x500008) 0 13 (protBands s)
  let t := each (List.range 8) (fun t p => setF t (cxpReg p 8) 8 1 (getF s (cxpReg p 8) 8 1)) t
  let kept := s.regs.filter (fun e => decide (aonReg 0 ≤ e.1))
  { t with
    regs := kept.foldl (fun m e => mput m e.1 e.2) t.regs
    homes := { table := s.homes.table, hostwin := s.homes.hostwin, bitmaps := s.homes.bitmaps, retired := s.homes.retired
               areas := s.homes.areas, restoreLists := s.homes.restoreLists }
    sync := { tasks := s.sync.tasks }
    yard := { t.yard with mapver := s.yard.mapver }
    fab := { t.fab with admission := s.fab.admission }
    host := { s.host with evq := [], ready := false, cfgSpace := [], msix := [], pba := 0, lastRaise := none, deferred := false
                          heldWrites := [], pendingReads := [] }
    groom := {}
    svc := { s.svc with replay := none, rotation := none, tests := [], loads := [] }
    sec := { t.sec with svn := s.sec.svn, reports := s.sec.reports }
    power := { s.power with entry := none } }

/-! ### The start (15 R454; 17 R496, R500) -/

/-- Whether a slot's image passes the checks of R495 that can change after it was staged. -/
def imageRuns (s : State) (i : Option Image) : Bool :=
  match i with
  | some v => decide (s.sec.svn ≤ v.svn.toNat)
  | none => false

def imageOfSlot (s : State) (b : Bool) : Option Image := if b then s.sec.slot1 else s.sec.slot0

/-- Groom A's boot ROM: the preferred slot, else the other with fallback set, else a boot failure. -/
def bootImage (s : State) : State :=
  let r := shedReg 0 0x400000
  let p := s.sec.pref
  let run (b : Bool) (s : State) : State :=
    setF (onHost (onSec s (fun x => { x with running := b, runSince := s.time, staged := none })) (fun h => { h with ready := true })) r 6 1 (flag b)
  let reason := if (imageOfSlot s p).isSome then 0x0702 else 0x0701
  if imageRuns s (imageOfSlot s p) then run p s
  else
    let s := emit s (srcGroom s) 0x0781 (flag p) reason
    if imageRuns s (imageOfSlot s (!p)) then setF (run (!p) s) r 5 1 1
    else
      let s := setF s grmStart 8 4 3
      onGroom (onPower s (fun w => { w with bootFail := true })) (fun g => { g with a := .out, b := .out })

/-- A cold start, from what flash, fuses and latch hold, to RUN. -/
def coldStart (s : State) (cause : Fin 6) : State :=
  let t := flashKept s
  let t := { t with regs := suppliedPrograms.foldl (fun m e => mput m e.1 e.2) t.regs }
  let st := flag (s.svc.orderly && s.power.tested)
  let retain := (getReg t pwrRetain).toNat
  let g := grmStart
  let t := onPower t (fun p => { p with on := true, cause := cause, tested := false, tripped := false })
  let t := diesUp (onYard t (fun y => { y with upAt := s.time })) dormDies
  let t := setF t pwrDom 0 52 (serviceDom t)
  let t := setF (setF (setF (setF t g 0 4 cause.val) g 4 1 st) g 8 4 10) g 12 3 s.power.strap.val
  let t := onSec t (fun x => { x with resv := min 4096 (x.resv + 1), boot := x.resv, next := 256 * x.resv + 1, signed := 1 })
  let t := onHost t (fun h => { h with
    log := [{ startRecord with arg0 := BitVec.ofNat 48 retain }], nextSeq := 1
    inReset := s.power.perst, cfgReady := !s.power.perst })
  let t := onSvc t (fun v => { v with untested := if s.svc.orderly then [] else (List.range 36).map (BitVec.ofNat 8), orderly := true })
  let t := bootImage (pinsShown t)
  onFab t (fun f => { f with bootIndex := 256 * t.sec.boot, bootMeasure := runningDigest t })

/-! ### Stops (14 R433–R435) -/

/-- A stop that was not orderly sets a flag of the retention latch, and everything volatile is lost. -/
def stopHard (s : State) (flagBit : Nat) (cause : Fin 6) : State :=
  let s := setF s pwrRetain flagBit 1 1
  let t := flashKept (onSvc s (fun v => { v with orderly := false }))
  let t := if flagBit = 0 then diesUp t [40] else t
  onPower t (fun p => { p with cause := cause, tested := false })

/-- The power-fail stop, to its end: engines commit their block, moves keep their source, and the event and the latch's
flag are written before the rails go. -/
def powerFailStop (s : State) (input : Nat) (cause : Fin 6) : State :=
  let busy := (List.finRange 16).filter (fun e => (engOf s e).run.any (·.begun))
  let moving := flag (!s.homes.moves.isEmpty)
  let s := each busy blockCommit s
  let s := satF s pwrCnt 16 16 1
  let e : Event := { source := srcAon, code := 0x0684, cycles := BitVec.ofNat 48 (refCycles s 40), severity := severityOf 0x0684
                     arg0 := BitVec.ofNat 48 input, arg1 := BitVec.ofNat 48 (min busy.length 255 + moving * 256) }
  let s := enterRecord s e
  let s := each ((List.finRange 16).filter (fun p => portState s p ≠ 0)) (fun s p => send s (.linkDown p)) s
  let cnt := getReg s pwrCnt
  setReg (stopHard s 2 cause) pwrCnt cnt

/-! ### Input supervision (14 R434) -/

def lower (s : State) (mv10 : Nat) : State :=
  onPower (setF s pwrInput 0 16 mv10) (fun p => { p with lowest := BitVec.ofNat 16 (min p.lowest.toNat mv10) })

/-- An input below 45 V, or PWRGD_IN deasserted. -/
def inputWarning (s : State) (mv10 : Nat) (pwrgd : Bool) : State :=
  if 4500 ≤ mv10 ∧ pwrgd then s else
  let s := onPower s (fun p => { p with pwrgd := pwrgd })
  let s := setF s grmSb 1 1 (flag pwrgd)
  if inputWarn s then onPower (setF (lower s mv10) pwrInput 48 3 1) (fun p => { p with recoverSince := none })
  else
    let t := setF s pwrInput 0 16 mv10
    let t := onPower (setF t pwrInput 48 3 1) (fun p => { p with
      warnSince := some s.time, lowest := BitVec.ofNat 16 mv10, recoverSince := none })
    let t := emit (satF t pwrCnt 0 16 1) srcAon 0x0682 mv10 (flag (!pwrgd))
    settleIslands s t allIslands

/-- A cold start with PWRGD_IN low goes on under an input warning (15 R455). -/
def startFrom (s : State) (cause : Fin 6) (mv10 : Nat) : State :=
  let t := coldStart s cause
  if t.power.pwrgd then t else inputWarning t mv10 false

/-- The input as it was measured last. -/
def lastInput (s : State) : Nat := getF s pwrInput 0 16

def execInputWarning (mv10 : BitVec 16) (pwrgd : Bool) (s : State) : Host.Outcome State Fault Refusal :=
  finish s (inputWarning s mv10.toNat pwrgd)

/-- During a warning: a crossing above 46 V starts the recovery's 1 ms, a fall below 46 V ends it. -/
def recoveryRestart (s : State) (mv10 : Nat) : State :=
  if !inputWarn s then s
  else if 4600 < mv10 then
    onPower (setF (setF s pwrInput 0 16 mv10) pwrInput 48 3 2) (fun p => { p with recoverSince := some s.time })
  else onPower (setF (lower s mv10) pwrInput 48 3 1) (fun p => { p with recoverSince := none })

def execRecoveryRestart (mv10 : BitVec 16) (s : State) : Host.Outcome State Fault Refusal :=
  finish s (recoveryRestart s mv10.toNat)

/-- An input above 46 V for 1 ms with PWRGD_IN asserted. -/
def inputRecovered (s : State) (mv10 : Nat) : State :=
  if !inputWarn s ∨ mv10 ≤ 4600 then s else
  let t := onPower (setF (setF s pwrInput 0 16 mv10) pwrInput 48 3 0) (fun p => { p with
    pwrgd := true, warnSince := none, recoverSince := none })
  let t := setF t grmSb 1 1 1
  let t := emit t srcAon 0x0683 s.power.lowest.toNat ((s.time - s.power.warnSince.getD s.time) / 1000)
  settleIslands s t allIslands

def execInputRecovered (mv10 : BitVec 16) (s : State) : Host.Outcome State Fault Refusal :=
  finish s (inputRecovered s mv10.toNat)

/-- An input below 41 V. -/
def execPowerFail (mv10 : BitVec 16) (s : State) : Host.Outcome State Fault Refusal :=
  finishAon s (if s.power.on ∧ mv10.toNat < 4100 then powerFailStop s mv10.toNat 1 else s)

/-- An input above 60.5 V: the first in each second is recorded. -/
def highInput (s : State) (mv10 : Nat) : State :=
  if mv10 ≤ 6050 then s else
  let s := setF s pwrInput 0 16 mv10
  let due : Bool := match s.host.highAt with
    | some t => decide (t + 1000000000 ≤ s.time)
    | none => true
  if due then emit (onHost s (fun h => { h with highAt := some s.time })) srcAon 0x0688 mv10 0 else s

def execHighInput (mv10 : BitVec 16) (s : State) : Host.Outcome State Fault Refusal := finish s (highInput s mv10.toNat)

/-- An input above 63 V: every domain but the always-on island loses power without order. -/
def execOverVoltage (mv10 : BitVec 16) (s : State) : Host.Outcome State Fault Refusal :=
  finishAon s (if s.power.on ∧ 6300 < mv10.toNat then stopHard s 1 2 else s)

/-- The input is back in range for 100 ms after a power-fail stop or an over-voltage. -/
def execInputRestart (mv10 : BitVec 16) (s : State) : Host.Outcome State Fault Refusal :=
  finishAon s (
    if !s.power.on ∧ ((s.power.cause = 1 ∧ 4600 < mv10.toNat) ∨ (s.power.cause = 2 ∧ mv10.toNat < 6000)) then
      startFrom s s.power.cause mv10.toNat
    else s)

/-- A draw above 40 mA in low-power mode resets the always-on island: the module is then off. -/
def execBrownOut (ma : Nat) (s : State) : Host.Outcome State Fault Refusal :=
  finishAon s (if s.power.on ∧ pstate s = 3 ∧ 40 < ma then stopHard s 0 3 else s)

/-- A junction at 115 °C: THERMTRIP# is asserted and the module shuts down. -/
def execThermalTrip (st : Stall) (s : State) : Host.Outcome State Fault Refusal :=
  finish s (if stallState s st = .failed then s
    else onPower (stopHard s 3 5) (fun p => { p with tripped := true }))

/-- The input first exceeds 46 V, and lies between 46 V and 60 V. -/
def execColdStart (mv10 : BitVec 16) (slotId : Fin 8) (s : State) : Host.Outcome State Fault Refusal :=
  finishAon s (
    if !s.power.on ∧ 4600 < mv10.toNat ∧ mv10.toNat ≤ 6000 then
      startFrom (onPower s (fun p => { p with strap := slotId })) s.power.cause mv10.toNat else s)

/-! ### Entry (14 R423, R427, R428, R431) -/

def seqRegions (s : State) (sts : List Stall) : List Region :=
  (liveRegions s).filter (fun r => (regionStalls s r).any (sts.contains ·))

/-- Stalls, mangers and lofts that a request takes off. -/
def offMask (s : State) (target mask : Nat) : Nat :=
  let old := (getReg s pwrDom).toNat
  if target = 1 then old &&& (mask % 2 ^ 52) else old

def offStalls (off : Nat) : List Stall := (List.finRange 32).filter (fun st => bitOf off st.val)
def offMangers (off : Nat) : List Mg := ([0, 1, 2, 3] : List Mg).filter (fun m => bitOf off (32 + m.val))

/-- Tokens that a stall holds. -/
def stallTokens (s : State) (st : Stall) : Nat :=
  sumOf ((s.yard.units.filter (fun e => keyStall e.1 == st)).map (fun e =>
    sumOf (([0, 1, 2, 3] : List Slot).map (heldTokens s st (keySite e.1)))))

/-- Step 1: the status of a refusal, or 0. -/
def entryCheck (s : State) (target mask : Nat) : Nat :=
  let off := offMask s target mask
  let sts := offStalls off
  let named := (List.finRange 32).filter (fun st => bitOf mask st.val)
  if target = 1 ∧ named.any (fun st => stallState s st != .inService) then 0x0601
  else if target = 3 ∧ !bitOf mask 63 then 0x0604
  else if (liveRegions s).any (fun r => match regionHome s r with | some st => sts.contains st | none => false) then 0x0601
  else if !bitOf mask 61 ∧ sts.any (fun st => stallTokens s st != 0) then 0x0602
  else 0

/-- Barrows of affected dies whose queues run. -/
def queuesOn (s : State) (sts : List Stall) (ms : List Mg) : List BrwId :=
  let dies : List (Fin 36 × Nat) := sts.map (fun st => (⟨st.val, by omega⟩, 32)) ++ ms.map (fun m => (⟨32 + m.val, by omega⟩, 8))
  dies.flatMap (fun d => ((List.finRange 32).filter (fun b => b.val < d.2)).filterMap (fun b =>
    let q : BrwId := ⟨d.1, b⟩
    let c := getF s (brwBase q + 0x20) 0 3
    if c = 4 ∨ c = 5 then none else some q))

def enginesOn (s : State) (ms : List Mg) : List (Fin 16) :=
  (List.finRange 16).filter (fun e => ms.any (fun m => m.val == e.val / 4) && engState s e != 4 && engState s e != 5)

/-- Whether a move reads or writes a loft that goes off. -/
def moveTouches (s : State) (off : Nat) (j : MoveJob) : Bool :=
  let hit (t f : Nat) : Bool := (List.range 16).any (fun l => bitOf off (36 + l) && (match t with
    | 1 => !mangerLocal s || f / 245760 == l / 4
    | 2 => f % 112 / 7 == l
    | _ => false))
  match nameRec s j.name with
  | some r => hit r.tier.val r.frame || hit r.dtier.val r.dframe
  | none => false

/-- A set number that has no flow of a region. -/
def emptySet (s : State) (r : Region) : Option Nat :=
  (List.range 16).find? (fun set => !(listedFlows s).any (fun k => k / 16384 == set && k % 16384 / 256 == r.val && feValid (flowEntry s k)))

def leaveFlows (s : State) : State :=
  each (List.finRange 64) (fun s r => match emptySet s r with
    | some set => (flowSelect s r set).2
    | none => s) s

/-- Steps 1 and 2: the request passes AP1, and the work on affected dies is asked to stop. -/
def beginEntry (s : State) (k : MbSlot) (target : Fin 4) (mask : Nat) : State :=
  let off := offMask s target.val mask
  let sts := offStalls off
  let ms := offMangers off
  let e : PwrEntry := { slot := k, target := target, mask := BitVec.ofNat 64 mask
                        seqs := seqRegions s sts, queues := queuesOn s sts ms, engines := enginesOn s ms
                        fsel := [0x30, 0x38, 0x40, 0x48].map (fun o => getReg s (shedReg 0 o)) }
  let s := onPower s (fun p => { p with entry := some e })
  let s := setF (setF (setF s pwrState 3 3 1) pwrState 6 1 1) pwrState 8 3 target.val
  let s := when (bitOf mask 62 && decide (2 ≤ target.val)) leaveFlows s
  let s := each e.seqs seqStopReq s
  let s := each e.queues barrowStop s
  each e.engines engineStop s

/-- Step 2 is over. -/
def quiesced (s : State) (e : PwrEntry) : Bool :=
  e.seqs.all (fun r => !seqLive (seqOf s r))
  && e.queues.all (fun b => ((brwOf s b).job.toList ++ (brwOf s b).preempted.toList).all imageOf)
  && e.engines.all (fun g => (engOf s g).run.isNone || engState s g == 4)
  && !s.homes.moves.any (moveTouches s (offMask s e.target.val e.mask.toNat))

/-- The entry is over: its fields of PWR_STATE read 0. -/
def endEntry (s : State) : State :=
  setF (setF (setF (onPower s (fun p => { p with entry := none })) pwrState 3 3 0) pwrState 6 1 0) pwrState 8 3 0

/-- The undo of an abort point, its event, and the command's end (14 R428). -/
def abandonEntry (s : State) (e : PwrEntry) (ap status source : Nat) : State :=
  let s := each e.seqs (fun s r =>
    if (seqOf s r).phase = .stopped then nextEntry (putSeq s r { back := (seqOf s r).back }) r (seqEntry s r)
    else updSeq s r (fun q => { q with stopReq := false })) s
  let s := each e.queues barrowResume (each e.queues (fun s b => updBrw s b (fun x => { x with stopReq := false })) s)
  let s := each e.engines engineResume s
  let s := each ([0x30, 0x38, 0x40, 0x48].zip e.fsel) (fun s x => setReg s (shedReg 0 x.1) x.2) s
  let s := satF (startHeld (endEntry s)) pwrCnt 32 16 1
  mbFail (emit s srcAon 0x0687 ap source) e.slot status

/-- The stall of an agent of the yard. -/
def agentStall (s : State) : Agent → Option Stall
  | .barrow b => brwStall b
  | .image b => brwStall b
  | .claimer b => brwStall b
  | .seq r _ => regionHome s r
  | .window r => regionHome s r
  | .unit st _ => some st
  | _ => none

/-- Step 6: tokens are flushed and counted, and the waits of the stalls' agents end. -/
def leaveStalls (s : State) (sts : List Stall) (flush : Bool) : State :=
  let lanes (s : State) (st : Stall) : List (Region × Slot) :=
    (List.finRange 64).flatMap (fun r => ([0, 1, 2, 3] : List Slot).filterMap (fun c => if laneSum s st r c = 0 then none else some (r, c)))
  let s := if flush then each sts (fun s st => each (lanes s st) (fun s l => flushLane s st l.1 l.2) s) s else s
  completeWaits s (fun k w => match agentStall s w.agent with
    | some st => sts.contains st && keyObjStall k != st
    | none => false) 0x040C

/-- Stalls and mangers that leave service for the first time after a stop that was not orderly are tested (16 R483). -/
def testLeaving (s : State) (off : Nat) : State :=
  let l := s.svc.untested.filter (fun d => bitOf off d.toNat)
  onSvc s (fun v => { v with
    untested := v.untested.filter (fun d => !l.contains d)
    tests := v.tests ++ l.map (fun d => { die := d, kind := 2, slot := none, inService := false }) })

def stateChange (s : State) (old new mask : Nat) : State := emit s srcAon 0x0686 (old + new * 8) mask

/-- Lofts awake in TRIM by an access count as selected for self-refresh. -/
def newDomains (s : State) (e : PwrEntry) : Nat :=
  match e.target.val with
  | 1 => serviceDom s - (serviceDom s &&& (e.mask.toNat % 2 ^ 52))
  | _ => 0

/-! ### Exit, and the end of an entry (14 R427, R430) -/

/-- WAKE# after an exit that the host did not request, until the host link is up (15 R446). -/
def wakePin (s : State) (byHost : Bool) : State :=
  when (!byHost && getF s (shedReg 0 0x200000) 9 1 == 0) (fun s => setF s grmSb 2 1 1) s

/-- Slots posted after AP5 of a DORM entry go back with the reset status (14 R431), and with them those whose commands the
entry cut short. -/
def returnSlots (s : State) : State :=
  let l := s.host.posted ++ (List.finRange 64).filter (fun k => mbOwned (mbOf s k) && !s.host.posted.contains k)
  each l (fun s k => mbFail s k 0x0906) (onHost s (fun h => { h with posted := [] }))

/-- Every domain that the map and the repairs assign comes up. A shut-down that was pending is cleared (16 R485). -/
def exitToRun (s : State) (byHost : Bool) (mask : Nat) : State :=
  let old := pstate s
  let s := if old = 3 then
      onHost (bootImage (pinsShown (setReg (returnSlots s) (aonReg 0x30) 0))) (fun h => { h with inReset := s.power.perst, cfgReady := !s.power.perst })
    else s
  let s := onPower s (fun p => { p with hushRecords := 0 })
  let s := onHomes s (fun h => { h with awake := [] })
  let s := onSvc s (fun v => { v with pending := false })
  let s := onPower s (fun p => { p with tested := if s.svc.pending then false else p.tested })
  let s := if old < 2 then s else diesUp s (if old = 3 then dormDies else hushDies)
  let s := startHeld (setDomains (setF s pwrState 0 3 0) (serviceDom s))
  wakePin (stateChange s old 0 mask) byHost

/-- Steps 6 to 8. -/
def enterState (s : State) (e : PwrEntry) : State :=
  let off := offMask s e.target.val e.mask.toNat
  let old := pstate s
  let s := leaveStalls s (offStalls off) (bitOf e.mask.toNat 61)
  let s := endEntry (setF s pwrState 0 3 e.target.val)
  let s := stateChange s old e.target.val e.mask.toNat
  match e.target.val with
  | 1 => mbOk (startHeld (setDomains (onHomes (testLeaving s off) (fun h => { h with awake := [] })) (newDomains s e))) e.slot [(1, 1)]
  | 2 => mbOk (hushOff (notePool (notePool s 0) 2)) e.slot [(1, 2)]
  | _ =>
    let s := mbOk s e.slot [(1, 3)]
    let s := setReg s (aonReg 0x30) 0xF
    setF (dormOff s) pwrDom 0 52 0

/-- The entry's end. A wake met after AP5 is served as an exit from the state that it has entered; in TRIM software powers
domains up (14 R428, R429). -/
def finishEntry (s : State) (e : PwrEntry) : State :=
  if 2 ≤ e.target.val ∧ e.wake.isSome then exitToRun (enterState s e) false 0 else enterState s e

/-- The entry goes on to its next abort point, or past the last one to its end. -/
def entryStep (s : State) (e : PwrEntry) : State :=
  let ap := getF s pwrState 3 3
  if ap = 1 ∧ !quiesced s e then s else
  match e.wake with
  | some w => if ap < 5 then abandonEntry s e (ap + 1) 0x0603 w.val else finishEntry s e
  | none => if ap < 5 then setF s pwrState 3 3 (ap + 1) else finishEntry s e

/-- Step 2 has not ended within PWR_QTO.ms. -/
def quiesceTimeout (s : State) : State :=
  match s.power.entry with
  | none => s
  | some e =>
    if getF s pwrState 3 3 = 1 ∧ !quiesced s e then
      let (v, s) := unstated s 0x42
      abandonEntry s e 2 0x0605 (match e.wake with | some w => w.val | none => v % 4)
    else s

def execQuiesceTimeout (s : State) : Host.Outcome State Fault Refusal := finish s (quiesceTimeout s)

/-! ### Wakes (14 R428, R429) -/

/-- A wake: during an entry it is kept for the next abort point, or after the last one for the entry's end; in HUSH or DORM
it begins an exit. A POWER-STATE RUN posted after the last abort point is no wake (14 R431). -/
def wakeBy (s : State) (source : Fin 4) : State :=
  match s.power.entry with
  | some e =>
    if e.wake.isNone ∧ (getF s pwrState 3 3 < 5 ∨ source ≠ 3) then onPower s (fun p => { p with entry := some { e with wake := some source } }) else s
  | none => if pstate s = 2 ∨ pstate s = 3 then exitToRun s false 0 else s

def wakeEnabled (s : State) (bit : Nat) : Bool := getF s (aonReg 0x20) bit 1 = 1

/-- The wake timer, counted from the DORM entry. -/
def execWakeTimer (s : State) : Host.Outcome State Fault Refusal :=
  finishAon s (
    let dorm : Bool := pstate s == 3 || (match s.power.entry with | some e => e.target == 3 | none => false)
    if s.power.on ∧ dorm ∧ wakeEnabled s 2 ∧ getF s (aonReg 0x28) 0 32 ≠ 0 then wakeBy s 2 else s)

/-- A write of PWR_PADLATCH releases groups of pads. -/
def execPadRelease (w : Word) (s : State) : Host.Outcome State Fault Refusal :=
  finishAon s (if s.power.on then writeReg s (aonReg 0x30) w.toNat (2 ^ 64 - 1) else s)

/-! ### POWER-STATE (13 R407; 14 R423, R431) -/

/-- The command at its beginning. -/
def powerRequest (s : State) (k : MbSlot) (m : MbSt) : State :=
  let target := mbArg m 0 1
  let mask := mbArg m 8 8
  if h : target < 4 then
    if s.power.entry.isSome then mbFail s k 0x0907
    else if target = 0 then mbOk (exitToRun s true mask) k [(1, 0)]
    else
      let c := entryCheck s target mask
      if c ≠ 0 then mbFail s k c else beginEntry s k ⟨target, h⟩ mask
  else mbIllegal s k 0

/-- POWER-STATE: begun at the head of the queue, and carried from abort point to abort point once begun. -/
def powerState (s : State) (k : MbSlot) : State :=
  match s.power.entry with
  | some e => if e.slot = k ∧ mbBegun (mbOf s k) then settlePosted (entryStep s e) else runCommand s k 0x0801 (exactly 16) powerRequest
  | none => runCommand s k 0x0801 (exactly 16) powerRequest

def execPowerState (k : MbSlot) (s : State) : Host.Outcome State Fault Refusal := finish s (powerState s k)

/-- POWER-CAP: the cap of every island of the stalls, one byte a stall. -/
def powerCap (s : State) (k : MbSlot) (m : MbSt) : State :=
  let n := mbLen m
  let t := each ((List.finRange 32).filter (fun st => st.val < n)) (fun s st => each (List.finRange 16) (fun s i =>
    setF s (stallReg st (0x100 + 8 * i.val)) 8 5 (max 7 (min 31 (mbArg m st.val 1)))) s) s
  mbOk (settleIslands s t allIslands) k []

def execPowerCap (k : MbSlot) (s : State) : Host.Outcome State Fault Refusal :=
  finish s (runCommand s k 0x0802 (fun _ l => decide (1 ≤ l ∧ l ≤ 32)) powerCap)

/-- TELEMETRY: readings of the sensors, 64 B. -/
def telemetry (s : State) (k : MbSlot) (_ : MbSt) : State :=
  let v := (List.range 8).map (fun i => (8, Config.telemetry i s.draws))
  mbOk { s with draws := s.draws + 1 } k v

def execTelemetry (k : MbSlot) (s : State) : Host.Outcome State Fault Refusal := finish s (runCommand s k 0x0803 (exactly 0) telemetry)

end Sys2Proof.Machine
end

