-- ==== Sys2Proof/Machine/HostPort.lean ====
section
/-! DEFINITION. The host port: the control window, the data window, the link, its resets and errors, and configuration
space (13 R387–R397, R399, R411; 15 R449, R450). -/

namespace Sys2Proof.Machine

/-! ### Posting (13 R399; 14 R431) -/

/-- A POWER-STATE RUN posted during an entry to HUSH or DORM is a wake at its post. -/
def postWake (s : State) (k : MbSlot) : State :=
  match s.power.entry with
  | some e => if 2 ≤ e.target.val ∧ asksRun (mbOf s k) ∧ s.host.posted.contains k then wakeBy s 3 else s
  | none => s

def ownerWrite (s : State) (k : MbSlot) (w : Nat) : State :=
  if s.host.inReset then s
  else
    let fresh := !mbOwned (mbOf s k)
    let s := mailboxPost s k w
    when fresh (fun s => postWake s k) s

def execMailboxPost (k : MbSlot) (w : Word) (s : State) : Host.Outcome State Fault Refusal := finish s (ownerWrite s k w.toNat)

/-! ### Access events (13 R393) -/

def accessDue (s : State) (last : Option Nat) : Bool :=
  match last with
  | some t => decide (t + 1000000 ≤ s.time)
  | none => true

/-- An access event of which the first in each ms is recorded, outside the slots. -/
def accessOnce (s : State) (off size : Nat) (write : Bool) : State :=
  if accessDue s s.host.accessCw then accessEvent (onHost s (fun h => { h with accessCw := some s.time })) off size write else s

/-- The same for writes to slots that the groom owns. -/
def accessOwned (s : State) (off size : Nat) : State :=
  let s := satF s (shedReg 0 0x200018) 0 16 1
  if accessDue s s.host.accessMb then accessEvent (onHost s (fun h => { h with accessMb := some s.time })) off size true else s

/-! ### The control window (13 R392, R393) -/

inductive CwPart where
  | slot (k : MbSlot) (off : Nat)
  | status (off : Nat)
  | hif (off : Nat)
  | msix (off : Nat)
  | pba
  | reserved
  deriving DecidableEq, Repr

/-- What lies at an offset of the control window. -/
def cwPart (off : Nat) : CwPart :=
  if h : off < 0x40000 then .slot ⟨off / 0x1000, by omega⟩ (off % 0x1000)
  else if off < 0x41000 then .status (off - 0x40000)
  else if off < 0x50000 then .reserved
  else if off < 0x60000 then .hif (off - 0x50000)
  else if off < 0x80000 then .reserved
  else if off < 0x80400 then .msix (off - 0x80000)
  else if 0x81000 ≤ off ∧ off < 0x81008 then .pba
  else .reserved

/-- 4 B or 8 B, aligned. -/
def wordSized (off size : Nat) : Bool := (size = 4 || size = 8) && off % size = 0

/-- Bytes of the MSI-X table. -/
def msixBytes (s : State) (off n : Nat) : List Byte :=
  (List.range n).map (fun i => BitVec.ofNat 8 (msixEntry s ((off + i) / 16) >>> (8 * ((off + i) % 16))))

/-- A write of the MSI-X table; of a vector's control word only the mask is kept. -/
def msixWrite (s : State) (off : Nat) (data : List Byte) : State :=
  let v := off / 16
  let w := setBits (msixEntry s v) (8 * (off % 16)) (8 * data.length) (ofBytes data)
  flushPending (onHost s (fun h => { h with msix := mset h.msix (BitVec.ofNat 128 (2 ^ 96)) v (BitVec.ofNat 128 (w % 2 ^ 97)) }))

/-- A write into a slot: the owner word as 8 B, or any bytes of a slot that the host owns. -/
def slotWrite (s : State) (k : MbSlot) (off at' : Nat) (data : List Byte) : State :=
  if 0x1000 < off + data.length then accessEvent s at' data.length true
  else if off < 8 then
    (if off = 0 ∧ data.length = 8 then ownerWrite s k (ofBytes data) else accessEvent s at' data.length true)
  else if mbOwned (mbOf s k) then accessOwned s at' data.length
  else updMb s k (fun m => putSlotBytes m off data)

def controlWrite (s : State) (off : Nat) (data : List Byte) : State :=
  if s.host.inReset ∨ data = [] then s else
  match cwPart off with
  | .slot k o => slotWrite s k o off data
  | .status _ => accessOnce s off data.length true
  | .hif o =>
    if wordSized off data.length ∧ regLegal (shedReg 0 (0x200000 + o)) data.length then
      registerWrite s (shedReg 0 (0x200000 + o)) data.length (ofBytes data)
    else accessEvent s off data.length true
  | .msix o => if wordSized off data.length then msixWrite s o data else accessEvent s off data.length true
  | .pba => s
  | .reserved => accessOnce s off data.length true

def execControlWindowWrite (off : BitVec 26) (data : List Byte) (s : State) : Host.Outcome State Fault Refusal :=
  finish s (controlWrite s off.toNat data)

/-- A read larger than R392 allows (13 R411). -/
def readTooLarge (s : State) (off size : Nat) : State :=
  send (accessEvent (satF s (shedReg 0 0x200008) 16 16 1) off size false) (.completion .abort false [])

/-- A read of the MSI-X table: too large, of another size or alignment, or served. -/
def wordRead (s : State) (off size : Nat) (data : List Byte) : State :=
  if 8 < size then readTooLarge s off size
  else if wordSized off size then send s (.completion .success false data)
  else send (accessEvent s off size false) (.completion .success false (List.replicate size 0))

def controlRead (s : State) (off size : Nat) : State :=
  if s.host.inReset then s else
  match cwPart off with
  | .slot k o =>
    if 4096 < size then readTooLarge s off size
    else if 0x1000 < o + size then send (accessEvent s off size false) (.completion .success false (List.replicate size 0))
    else send s (.completion .success false (slotBytes (mbOf s k) o size))
  | .status o =>
    if wordSized off size then send s (.completion .success false (statusBytes s o size))
    else send (accessEvent s off size false) (.completion .success false (List.replicate size 0))
  | .hif o =>
    if regLegal (shedReg 0 (0x200000 + o)) size then
      send s (.completion .success false (registerRead s (shedReg 0 (0x200000 + o)) size).1)
    else send (accessEvent s off size false) (.completion .success false (List.replicate size 0))
  | .msix o => wordRead s off size (msixBytes s o size)
  | .pba => wordRead s off size ((toBytes 16 s.host.pba.toNat).drop (off % 8) |>.take size)
  | .reserved => send (accessOnce s off size false) (.completion .success false (List.replicate size 0))

def execControlWindowRead (off : BitVec 26) (size : Nat) (s : State) : Host.Outcome State Fault Refusal :=
  finish s (controlRead s off.toNat size)

/-! ### The data window (13 R394, R395) -/

def dwin (s : State) (w : Nat) : Nat := (getReg s (shedReg 0 (0x200080 + 8 * (w % 16)))).toNat

/-- Local address of an offset of the data window, before any check. -/
def dwinAddr (s : State) (off : Nat) : Nat := (field (dwin s (off / 2 ^ 32)) 21 27) * segSize + off % 2 ^ 32
def dwinModule (s : State) (off : Nat) : ModuleId := BitVec.ofNat 16 (field (dwin s (off / 2 ^ 32)) 48 16)

/-- Disabled, or mapped past the end of the address space. -/
def dwinClosed (s : State) (off size : Nat) : Bool :=
  !bitOf (dwin s (off / 2 ^ 32)) 0 || decide (2 ^ 48 < dwinAddr s off + max size 1)

/-- Whether a mapped address lies in the host range. -/
def inHostRange (a : Nat) : Bool := decide (hostRange ≤ a ∧ a < 0x400000000000)

def dataRead (s : State) (off size : Nat) : State :=
  if s.host.inReset then s else
  let a := dwinAddr s off
  let m := dwinModule s off
  if dwinClosed s off size then send (accessEvent s off size false) (.completion .unsupported false [])
  else if inHostRange a then send (accessEvent s off size false) (.completion .abort false [])
  else
    let wait (s : State) : State :=
      onHost s (fun h => { h with pendingReads := h.pendingReads ++ [(BitVec.ofNat 36 off, BitVec.ofNat 48 a)] })
    if m = ownModule s then
      if regSpace ≤ a then let (d, s) := registerRead s a size; send s (.completion .success false d)
      else memoryAccess (wait s) { agent := .host, addr := BitVec.ofNat 48 a, write := false, size := size }
    else match readRemote s .host m a size with
      | (0, s) => wait s
      | (_, s) => send s (.completion .abort false [])

def execDataWindowRead (off : BitVec 36) (size : Nat) (s : State) : Host.Outcome State Fault Refusal :=
  finish s (dataRead s off.toNat size)

def dataWrite (s : State) (off : Nat) (data : List Byte) (ep : Bool) : State :=
  if s.host.inReset then s else
  let a := dwinAddr s off
  if dwinClosed s off data.length ∨ inHostRange a ∨ !bitOf (dwin s (off / 2 ^ 32)) 1 then accessEvent s off data.length true
  else
    let s := when ep (fun s => satF s (shedReg 0 0x200008) 48 16 1) s
    postHostWrite s (dwinModule s off)
      { agent := .host, addr := BitVec.ofNat 48 a, write := true, size := data.length, data := data, poison := ep }

def execDataWindowWrite (off : BitVec 36) (data : List Byte) (ep : Bool) (s : State) : Host.Outcome State Fault Refusal :=
  finish s (dataWrite s off.toNat data ep)

/-- A read not complete within 8 µs; what arrives later is discarded. -/
def dataReadTimeout (s : State) (off : BitVec 36) : State :=
  match s.host.pendingReads.find? (fun e => e.1 == off) with
  | none => s
  | some e =>
    let s := onHost s (fun h => { h with pendingReads := h.pendingReads.erase e })
    let s := onHomes s (fun h => { h with held := h.held.filter (fun x => !(x.agent == .host && !x.write && x.addr == e.2)) })
    let s := satF s (shedReg 0 0x200010) 0 32 1
    send (emit s (srcShed 0 0x30) 0x0982 off.toNat e.2.toNat) (.completion .abort false [])

def execDataWindowReadTimeout (off : BitVec 36) (s : State) : Host.Outcome State Fault Refusal := finish s (dataReadTimeout s off)

/-! ### The link (13 R389, 15 R446) -/

/-- Width in [4:0] and generation in [7:4]: the bit that both name is free where they differ. -/
def linkWord (s : State) (width gen : Nat) : Nat × State :=
  let w := width % 32
  let g := gen % 16
  let both := w % 16 + (g / 2) * 32
  if w / 16 = g % 2 then (both + g % 2 * 16, s)
  else let (v, s) := unstated s 0x43; (both + v % 2 * 16, s)

def hostLinkChange (s : State) (width gen : Nat) (flit up : Bool) : State :=
  if s.host.inReset ∧ up then s else
  let r := shedReg 0 0x200000
  let (w, s) := linkWord s width gen
  let changed : Bool := (getReg s r).toNat != w + (flag flit) <<< 8 + (flag up) <<< 9
  let s := setReg s r (BitVec.ofNat 64 (w + (flag flit) <<< 8 + (flag up) <<< 9))
  let s := when up (fun s => onHost (setF s (shedReg 0 0x300010) 2 1 0) (fun h => { h with cfgReady := true })) s
  if changed then raiseVector (emit s (srcShed 0 0x30) 0x0983 w 0) 61 else s

def execHostLinkChange (width gen : Nat) (flit up : Bool) (s : State) : Host.Outcome State Fault Refusal :=
  finish s (hostLinkChange s width gen flit up)

/-! ### Resets (13 R390; 15 R449, R450) -/

/-- Registers and tables of the host interface at their reset values. -/
def hostRegsReset (s : State) : State :=
  let s := each (List.range 16) (fun s i => setReg s (shedReg 0 (0x200080 + 8 * i)) (resetOf (shedReg 0 (0x200080 + 8 * i)))) s
  let s := each (List.range 8) (fun s i => setReg s (shedReg 0 (0x200040 + 8 * i)) (resetOf (shedReg 0 (0x200040 + 8 * i)))) s
  let s := onHost s (fun h => { h with cfgSpace := [], msix := [], pba := 0, pendingReads := [] })
  onHomes s (fun h => { h with hostwin := [], bitmaps := [] })

/-- A reset of the host interface. -/
def hostReset (s : State) (kind : Nat) : State :=
  let s := hostRegsReset s
  let l := s.host.posted
  let s := each (begunSlots s) (fun s k => updMb s k (fun m => { m with quiet := true })) s
  let s := each l (fun s k => mbFail s k 0x0906) (onHost s (fun h => { h with posted := [] }))
  emit s (srcGroom s) 0x0987 kind l.length

def execFunctionLevelReset (s : State) : Host.Outcome State Fault Refusal := finish s (if s.host.inReset then s else hostReset s 0)
def execHotReset (s : State) : Host.Outcome State Fault Refusal := finish s (if s.host.inReset then s else hostReset s 1)

/-- PERST# low: the host port in reset, its lanes in electrical idle. In DORM only the pin is seen. -/
def execPerstAssert (s : State) : Host.Outcome State Fault Refusal :=
  finishAon s (
    if s.power.perst then s else
    let s := onPower s (fun p => { p with perst := true })
    if !poweredUp s then s else
    let s := hostReset s 1
    let s := setReg (setF s (shedReg 0 0x300010) 0 1 0) (shedReg 0 0x200000) 0
    onHost s (fun h => { h with inReset := true, cfgReady := false }))

/-- PERST# high again: the link may train, and configuration requests succeed after 1.0 s. It is a wake where enabled,
and starts the module after a brown-out (14 R429, R433). -/
def execPerstRelease (s : State) : Host.Outcome State Fault Refusal :=
  finishAon s (
    if !s.power.perst then s else
    let s := onPower s (fun p => { p with perst := false })
    if !s.power.on then (if s.power.cause = 3 then startFrom s 3 (lastInput s) else s) else
    let s := when (decide (pstate s ≠ 3)) (fun s =>
      onHost (setF s (shedReg 0 0x300010) 0 1 1) (fun h => { h with inReset := false, cfgFrom := s.time + 1000000000 })) s
    when (wakeEnabled s 1) (fun s => wakeBy s 1) s)

/-! ### Errors (13 R411) -/

def protocolEvent (s : State) (tlp : Byte) (requester : BitVec 16) : State :=
  raiseVector (emit s (srcShed 0 0x30) 0x0984 tlp.toNat requester.toNat) 61

def hostTlpError (s : State) (kind : TlpError) (tlp : Byte) (requester : BitVec 16) : State :=
  if s.host.inReset then s else
  match kind with
  | .malformed => send (protocolEvent (satF s (shedReg 0 0x200008) 32 16 1) tlp requester) .aerFatal
  | .badBar => send (protocolEvent (satF s (shedReg 0 0x200008) 0 16 1) tlp requester) (.completion .unsupported false [])
  | .atomicOp | .locked => send (protocolEvent s tlp requester) (.completion .unsupported false [])
  | .tooLarge =>
    let (off, s) := unstated s 0x44
    let (size, s) := unstated s 0x45
    readTooLarge s off size
  | .strayCompletion => send (protocolEvent s tlp requester) .aerUnexpected

def execHostTlpError (kind : TlpError) (tlpType : Byte) (requester : BitVec 16) (s : State) : Host.Outcome State Fault Refusal :=
  finish s (hostTlpError s kind tlpType requester)

/-! ### Configuration space (13 R388; 15 R449) -/

/-- Whether a configuration request is answered with success: after 1.0 s always, before that as the port chooses. -/
def cfgSuccess (s : State) : Bool × State :=
  if s.host.cfgReady ∨ s.host.cfgFrom ≤ s.time then (true, s)
  else let (c, s) := pick s 2; (c = 1, s)

def configurationRequest (s : State) (write : Bool) (off : Nat) (data : BitVec 32) : State :=
  if s.host.inReset then s else
  match cfgSuccess s with
  | (false, s) => send s (.completion .retry false [])
  | (true, s) =>
    let s := onHost s (fun h => { h with cfgReady := true })
    let i := off / 4
    if write then
      send (flushPending (onHost s (fun h => { h with cfgSpace := mput h.cfgSpace i data }))) (.completion .success false [])
    else send s (.completion .success false (toBytes 4 (cfgWord s i)))

def execConfigurationRequest (write : Bool) (off : BitVec 12) (data : BitVec 32) (s : State) : Host.Outcome State Fault Refusal :=
  finish s (configurationRequest s write off.toNat data)

end Sys2Proof.Machine
end

