-- ==== Sys2Proof/Machine/Grooms.lean ====
section
/-! DEFINITION. The groom pair: heartbeat, lockstep, takeover and reload (13 R408, R409). -/

namespace Sys2Proof.Machine

/-- The state of groom A or B. -/
def groomState (s : State) (b : Bool) : GroomState := if b then s.groom.b else s.groom.a
def setGroom (s : State) (b : Bool) (x : GroomState) : State :=
  onGroom s (fun g => if b then { g with b := x } else { g with a := x })

/-- Every 1 ms the active groom sends a heartbeat; with no groom left the count stops. -/
def execGroomHeartbeat (s : State) : Host.Outcome State Fault Refusal :=
  finish s (if groomLive s then onHost s (fun h => { h with heartbeat := h.heartbeat + 1 }) else s)

/-- A standby that fails twice is declared failed; before that it is out, to be reloaded. -/
def standbyFails (s : State) (b : Bool) : State :=
  let s := onGroom s (fun g => if b then { g with failsB := g.failsB + 1 } else { g with failsA := g.failsA + 1 })
  setGroom s b (if 2 ≤ (if b then s.groom.failsB else s.groom.failsA) then .failed else .out)

/-- A lockstep mismatch takes a groom out at once. -/
def lockstepMismatch (s : State) (b : Bool) : State :=
  match groomState s b with
  | .active => onGroom (setGroom s b .out) (fun g => { g with takeover := g.a == .standby || g.b == .standby })
  | .standby => standbyFails s b
  | _ => s

def execLockstepMismatch (b : Bool) (s : State) : Host.Outcome State Fault Refusal := finish s (lockstepMismatch s b)

/-- Commands of class C resume at their last piece; the others are begun again (13 R405, R409). -/
def classC (code : Nat) : Bool :=
  ([0x0401, 0x0402, 0x0403, 0x0407, 0x040A, 0x0505, 0x0506, 0x0801, 0x0A01, 0x0A03, 0x0B01, 0x0B02, 0x0C01] : List Nat).contains code

def begunAgain (s : State) : Nat := ((begunSlots s).filter (fun k => !classC (mbCode (mbOf s k)))).length

/-- The standby becomes active: its event, vector 62, and the commands that wait go on. One that a lockstep fault caused
ends the image's run of 24 h (17 R498). -/
def takeOver (s : State) (b : Bool) : State :=
  let s := match groomState s (!b) with
    | .active => setGroom s (!b) .out
    | _ => s
  let s := when s.groom.takeover (fun s => onSec s (fun x => { x with runSince := s.time })) s
  let s := onGroom (setGroom s b .active) (fun g => { g with takeover := false })
  settlePosted (raiseVector (emit s (srcGroom s) 0x0985 (flag (!b)) (begunAgain s)) 62)

/-- After a mismatch of the active groom, or three heartbeats missed, the standby takes over. -/
def groomTakeover (s : State) : State :=
  if s.groom.b = .standby then takeOver s true
  else if s.groom.a = .standby then takeOver s false
  else s

def execGroomTakeover (s : State) : Host.Outcome State Fault Refusal := finish s (groomTakeover s)

/-- A groom that is out is reloaded by the active one and becomes standby, or fails again. -/
def standbyReload (s : State) (ok : Bool) : State :=
  if !groomLive s then s else
  let go (b : Bool) : State := if ok then setGroom s b .standby else standbyFails s b
  if s.groom.b = .out then go true else if s.groom.a = .out then go false else s

def execStandbyReload (ok : Bool) (s : State) : Host.Outcome State Fault Refusal := finish s (standbyReload s ok)

end Sys2Proof.Machine
end

