-- ==== Sys2Proof/Machine/Commands.lean ====
section
/-! DEFINITION. Commands of the DEVICE, IMAGE and EVENT families (02 R58, R59; 03 R90; 06 R204; 13 R403, R407). -/

namespace Sys2Proof.Machine

/-! ### DEVICE -/

/-- Stalls that carry a position. -/
def stallCount (s : State) : Nat := ((List.range 28).filter (fun p => (lpStall s p).isSome)).length

def identify (s : State) (k : MbSlot) (_ : MbSt) : State :=
  mbOk s k [(16, serialNumber), (1, 0xA2), (4, (runningVersion s).toNat), (4, (stagedVersion s).toNat), (1, stallCount s),
    (2, s.yard.mapver.toNat), (2, (ownModule s).toNat)]

def execIdentify (k : MbSlot) (s : State) : Host.Outcome State Fault Refusal := finish s (runCommand s k 0x0101 (exactly 0) identify)

def execStatus (k : MbSlot) (s : State) : Host.Outcome State Fault Refusal :=
  finish s (runCommand s k 0x0102 (exactly 0) (fun s k _ => mbOk s k [(64, ofBytes (statusBytes s 0 64))]))

/-! ### Distance records (02 R55, R58) -/

/-- The class toward another position. -/
def positionClass (s : State) (p q : Nat) : Nat :=
  if (lpStall s q).isNone then 0xF
  else if p = q then 2
  else if (p / 7 = q / 7 ∧ (p + 1 = q ∨ q + 1 = p)) ∨ p + 7 = q ∨ q + 7 = p then 3 else 4

/-- The physical column of a row's unused spare, or 0xFF. -/
def spareColumn (s : State) (row : Fin 4) : Nat :=
  let c := outColumn s row
  if stallState s (mkStall row c) = .relay then c.val else 0xFF

/-- The 64 B distance record of a position; what a position that no stall carries shows of a stall is free. -/
def distanceRecord (s : State) (p : Nat) : Nat :=
  let stall := match lpStall s p with | some st => st.val | none => Config.unstated 0x46 p % 256
  let dests := match lpStall s p with
    | some st => (List.range 8).foldl (fun v d => v + destEntry s st d <<< (16 * d)) 0
    | none => Config.unstated 0x47 p % 2 ^ 128
  let cls := (List.range 28).foldl (fun v q => v + positionClass s p q <<< (4 * q)) 0
  p + stall <<< 8 + s.yard.mapver.toNat <<< 16 + dests <<< 32 + cls <<< 160 + (spareColumn s ⟨p / 7 % 4, by omega⟩) <<< 272

def distance (s : State) (k : MbSlot) (m : MbSt) : State :=
  let lp := mbArg m 0 1
  if lp = 0xFF then mbOk s k ((1, 28) :: (List.range 28).map (fun p => (64, distanceRecord s p)))
  else if lp < 28 then mbOk s k [(1, 1), (64, distanceRecord s lp)]
  else mbIllegal s k 0

def execDistance (k : MbSlot) (s : State) : Host.Outcome State Fault Refusal := finish s (runCommand s k 0x0103 (exactly 1) distance)

/-! ### REG-READ and REG-WRITE (14 R421) -/

/-- Whether an address names a register whose domain is off. -/
def addrOff (s : State) (a : Nat) : Bool :=
  match regPlace (a / 8 * 8) with
  | some p => regOff s p
  | none => false

/-- Registers read one after another, with the access events of those that are not performed. -/
def readWords (s : State) (a : Nat) : Nat → List (Nat × Nat) × State
  | 0 => ([], s)
  | n + 1 =>
    let (d, s) := registerRead s a 8
    let (l, s) := readWords s (a + 8) n
    ((8, ofBytes d) :: l, s)

def regRead (s : State) (k : MbSlot) (m : MbSt) : State :=
  let a := mbArg m 0 8
  let n := mbArg m 8 4
  if n = 0 ∨ 32 < n then mbIllegal s k 8
  else if a < regSpace ∨ 2 ^ 48 < a + 8 * n then mbIllegal s k 0
  else if (List.range n).any (fun i => addrOff s (a + 8 * i)) then mbFail s k 0x0606
  else let (l, s) := readWords s a n; mbOk s k l

def execRegRead (k : MbSlot) (s : State) : Host.Outcome State Fault Refusal := finish s (runCommand s k 0x0104 (exactly 12) regRead)

def regWrite (s : State) (k : MbSlot) (m : MbSt) : State :=
  let a := mbArg m 0 8
  if a < regSpace ∨ 2 ^ 48 < a + 8 then mbIllegal s k 0
  else if addrOff s a then mbFail s k 0x0606
  else if regLegal a 8 then
    let old := readReg s a
    mbOk (writeReg (handRecord s (srcGroom s)) a (mbArg m 8 8) (mbArg m 16 8)) k [(8, old)]
  else mbOk (accessEvent (handRecord s (srcGroom s)) a 8 true) k [(8, 0)]

def execRegWrite (k : MbSlot) (s : State) : Host.Outcome State Fault Refusal := finish s (runCommand s k 0x0105 (exactly 24) regWrite)

/-! ### IMAGE (03 R90; 06 R204) -/

/-- Load one position: the status that its stall's YRD_CTX_LOAD shows. -/
def loadPosition (s : State) (r c flags src p : Nat) : Nat × State :=
  match lpStall s p with
  | none => (0x0301, s)
  | some st =>
    if !coreOn s st then (0x0606, s) else
    let s := setF s (stallReg st 0x410) 0 48 src
    let s := seqsFill (ctxLoadWrite s st (r + c <<< 8 + (flags % 8) <<< 12 + 2 ^ 16))
    (getF s (ctxReg st) 32 16, s)

/-- Load every position that a mask names: 28 statuses, 0 where it names none. -/
def loadPositions (s : State) (r c flags src mask : Nat) : List Nat → List (Nat × Nat) × State
  | [] => ([], s)
  | p :: t =>
    let (code, s) := if bitOf mask p then loadPosition s r c flags src p else (0, s)
    let (l, s) := loadPositions s r c flags src mask t
    ((2, code) :: l, s)

def imageLoad (s : State) (k : MbSlot) (m : MbSt) : State :=
  let r := mbArg m 0 1
  let c := mbArg m 1 1
  let flags := mbArg m 2 1
  let mask := mbArg m 4 4
  let src := mbArg m 8 8
  if 64 ≤ r then mbIllegal s k 0
  else if 4 ≤ c then mbIllegal s k 1
  else if 8 ≤ flags then mbIllegal s k 2
  else if 2 ^ 28 ≤ mask then mbIllegal s k 4
  else if 2 ^ 48 ≤ src then mbIllegal s k 8
  else let (l, s) := loadPositions s r c flags src mask (List.range 28); mbOk s k l

def execImageLoad (k : MbSlot) (s : State) : Host.Outcome State Fault Refusal := finish s (runCommand s k 0x0201 (exactly 16) imageLoad)

def imageOpen (s : State) (k : MbSlot) (m : MbSt) : State :=
  let c := mbArg m 1 1
  if 64 ≤ mbArg m 0 1 then mbIllegal s k 0
  else if h : c < 4 then
    let r := asRegion (mbArg m 0 1)
    mbOk (each (regionStalls s r) (fun s st => laneOpen s st r ⟨c, h⟩) s) k []
  else mbIllegal s k 1

def execImageOpen (k : MbSlot) (s : State) : Host.Outcome State Fault Refusal := finish s (runCommand s k 0x0202 (exactly 2) imageOpen)

/-- SEQ-START: the table, then an image of YRD_SEQ_CTL with start and go. -/
def seqStart (s : State) (k : MbSlot) (m : MbSt) : State :=
  if 64 ≤ mbArg m 0 1 then mbIllegal s k 0 else
  let r := asRegion (mbArg m 0 1)
  match regionHome s r with
  | none => mbIllegal s k 0
  | some st =>
    if !coreOn s st then mbFail s k 0x0606
    else if seqLive (seqOf s r) then mbFail s k 0x0214
    else
      let s := writeReg s (stallReg st (0xA00 + 8 * r.val)) (mbArg m 8 6 + mbArg m 16 2 <<< 48) (2 ^ 64 - 1)
      let ctl := (mbArg m 24 8 &&& 0x1F78) + 2 + mbArg m 18 2 <<< 16
      mbOk (seqCtlWrite s st r ctl) k []

def execSeqStart (k : MbSlot) (s : State) : Host.Outcome State Fault Refusal := finish s (runCommand s k 0x0203 (exactly 32) seqStart)

def seqStopCommand (s : State) (k : MbSlot) (m : MbSt) : State :=
  if 64 ≤ mbArg m 0 1 then mbIllegal s k 0 else
  let r := asRegion (mbArg m 0 1)
  mbOk (seqStopReq s r) k [(2, seqEntry s r)]

def execSeqStop (k : MbSlot) (s : State) : Host.Outcome State Fault Refusal := finish s (runCommand s k 0x0204 (exactly 1) seqStopCommand)

/-! ### EVENT (13 R403) -/

/-- A power of 2 from 64 to 1,048,576. -/
def ringLength (n : Nat) : Bool := (List.range 15).any (fun i => n == 2 ^ (6 + i))

def eventRing (s : State) (k : MbSlot) (m : MbSt) : State :=
  let entry := mbArg m 0 4
  let n := mbArg m 4 4
  let v := mbArg m 8 1
  if n = 0 then mbOk (onHost s (fun h => { h with ring := none, deferred := false })) k []
  else if !ringLength n then mbIllegal s k 4
  else if !ringValid s entry n then mbIllegal s k 0
  else if 63 ≤ v then mbIllegal s k 8
  else mbOk (onHost s (fun h => { h with ring := some { entry := entry, records := n, vector := v } })) k []

def execEventRing (k : MbSlot) (s : State) : Host.Outcome State Fault Refusal := finish s (runCommand s k 0x0D01 (exactly 9) eventRing)

/-- The log from a record on, or from the oldest when it does not hold that one. -/
def logFrom (s : State) (seq : Nat) : List Event :=
  match s.host.log.findIdx? (fun e => e.seq.toNat == seq) with
  | some i => s.host.log.drop i
  | none => s.host.log

def eventRead (s : State) (k : MbSlot) (m : MbSt) : State :=
  let n := mbArg m 4 1
  if n = 0 ∨ 125 < n then mbIllegal s k 4
  else mbOk s k (((logFrom s (mbArg m 0 4)).take n).map (fun e => (32, ofBytes (eventBytes e))))

def execEventRead (k : MbSlot) (s : State) : Host.Outcome State Fault Refusal := finish s (runCommand s k 0x0D02 (exactly 5) eventRead)

def execEventFilter (k : MbSlot) (s : State) : Host.Outcome State Fault Refusal :=
  finish s (runCommand s k 0x0D03 (exactly 1) (fun s k m => mbOk (onHost s (fun h => { h with filter := BitVec.ofNat 8 (mbArg m 0 1) })) k []))

end Sys2Proof.Machine
end

