-- ==== Sys2Proof/Machine/TaskSync.lean ====
section
/-! DEFINITION. Commands of the TASK and SYNC families (11 R327–R329, R345, R346; 13 R407). -/

namespace Sys2Proof.Machine

/-! ### SYNC-CONFIG, SYNC-FREE, SYNC-SET -/

/-- What a record keeps of an object as it stands. -/
def recordOf (r : Sref) (found : Bool) (o : SyncObj) : ObjRecord :=
  { sref := r, found := found, kind := o.kind, value := o.value, arrivals := o.arrivals, isOpen := o.isOpen, latch := o.latch,
    open0 := o.open0, count := o.count }

/-- Records of started tasks after an object was configured under a task, or freed (11 R345): a record made after the start
goes when the object is freed or taken by another task, and follows its latest configuration under its own. -/
def noteConfig (s : State) (r : Sref) (task : Option (BitVec 16)) (o : SyncObj) : State :=
  onSync s (fun y => { y with started := y.started.map (fun e =>
    let kept := e.2.filter (fun x => x.found || x.sref != r)
    if task = some e.1 ∧ !kept.any (fun x => x.sref == r) then (e.1, kept ++ [recordOf r false o]) else (e.1, kept)) })

/-- Run a change on the object that the first argument names, when its reference, its owner and its waiter lists admit it. -/
def onObject (s : State) (k : MbSlot) (m : MbSt) (quiet : Bool) (f : State → Sref → Nat → SyncObj → State) : State :=
  let r : Sref := BitVec.ofNat 24 (mbArg m 0 3)
  match findObj s r with
  | .error c => mbFail s k c
  | .ok key =>
    let o := objOf s key
    if o.kind ≠ .free ∧ o.task.toNat ≠ mbTask m then mbFail s k 0x0904
    else if quiet ∧ waiters o ≠ [] then mbFail s k 0x0409
    else f s r key o

def syncConfig (s : State) (k : MbSlot) (m : MbSt) : State :=
  let kind := mbArg m 3 1
  let flags := mbArg m 4 1
  let count := mbArg m 6 2
  let init : BitVec 32 := BitVec.ofNat 32 (mbArg m 8 4)
  if kind ≠ 1 ∧ kind ≠ 2 then mbIllegal s k 3
  else if 4 ≤ flags ∨ flags = 2 then mbIllegal s k 4
  else if kind = 1 ∧ count = 0 then mbFail s k 0x0406
  else onObject s k m true (fun s r key _ =>
    let task := BitVec.ofNat 16 (mbTask m)
    let o : SyncObj :=
      if kind = 1 then
        { kind := .gate, latch := bitOf flags 0, open0 := bitOf flags 1, count := BitVec.ofNat 16 count, task := task, isOpen := bitOf flags 1 }
      else { kind := .tally, task := task, value := init, init := init }
    mbOk (noteConfig (putObj s key o) r (some task) o) k [])

def execSyncConfig (k : MbSlot) (s : State) : Host.Outcome State Fault Refusal := finish s (runCommand s k 0x0601 (exactly 12) syncConfig)

def syncFree (s : State) (k : MbSlot) (m : MbSt) : State :=
  onObject s k m true (fun s r key o =>
    if o.kind = .free then mbFail s k 0x0401
    else mbOk (noteConfig (putObj s key {}) r none {}) k [])

def execSyncFree (k : MbSlot) (s : State) : Host.Outcome State Fault Refusal := finish s (runCommand s k 0x0602 (exactly 3) syncFree)

/-- An object set by hand: the object after, the waiters released, and those removed; or a status. Actions: 0 a tally's value,
1 a gate released, 2 a gate's arrivals, 3 the waiter lists emptied. -/
def setByHand (o : SyncObj) (action value : Nat) : Except Nat (SyncObj × List (Waiter × BitVec 32) × List Waiter) :=
  match o.kind, action with
  | .free, _ => .error 0x0401
  | .tally, 0 => let (p, l) := serveTally { o with value := BitVec.ofNat 32 value }; .ok (p, l, [])
  | .gate, 1 => let (p, l) := releaseGate o; .ok (p, l, [])
  | .gate, 2 =>
    if o.count.toNat ≤ value then .error 0x0903
    else .ok ({ o with arrivals := BitVec.ofNat 16 value, isOpen := if o.latch && value != 0 then false else o.isOpen }, [], [])
  | _, 3 => .ok (setWaiters o [], [], waiters o)
  | _, _ => .error 0x0402

def syncSet (s : State) (k : MbSlot) (m : MbSt) : State :=
  let action := mbArg m 3 1
  let value := mbArg m 4 4
  if 4 ≤ action then mbIllegal s k 3
  else onObject s k m false (fun s r key o =>
    match setByHand o action value with
    | .error 0x0903 => mbIllegal s k 4
    | .error c => mbFail s k c
    | .ok (p, released, removed) =>
      let s := wakeAll (putObj s key { p with manual := true }) released
      let s := each removed (fun s w => wakeAgent s { agent := w.agent, status := 0x040B }) s
      let arg := (if action = 0 ∨ action = 2 then value else 0) + (flag (action = 1)) <<< 32 + (flag (action = 3)) <<< 33
      mbOk (emitManual s (srcGroom s) 0x0485 r.toNat arg) k [(8, objStateWord o)])

def execSyncSet (k : MbSlot) (s : State) : Host.Outcome State Fault Refusal := finish s (runCommand s k 0x0603 (exactly 8) syncSet)

/-! ### TASK -/

/-- The first identifier from `t` on, cyclically, that no task has; the fuel is one more than the tasks there are. -/
def freeTask (s : State) : Nat → Nat → Option (BitVec 16)
  | 0, _ => none
  | fuel + 1, t =>
    let t := t % 0xFFFF
    if s.sync.tasks.any (fun x => x.toNat == t) then freeTask s fuel (t + 1) else some (BitVec.ofNat 16 t)

/-- TASK-CREATE: which unused identifier is taken is a free choice. -/
def taskCreate (s : State) (k : MbSlot) (_ : MbSt) : State :=
  let (c, s) := pick s 0xFFFF
  match freeTask s (s.sync.tasks.length + 1) c with
  | none => mbFail s k 0x0907
  | some t => mbOk (onSync s (fun y => { y with tasks := y.tasks ++ [t] })) k [(2, t.toNat)]

def execTaskCreate (k : MbSlot) (s : State) : Host.Outcome State Fault Refusal := finish s (runCommand s k 0x0301 (exactly 0) taskCreate)

/-- The reference that names an object now. -/
def objRef (s : State) (key : Nat) : Option Sref :=
  (stallLp s (keyObjStall key)).map (fun p => BitVec.ofNat 24 (key % 8192 + p * 8192))

/-- Objects of a task, by reference. -/
def taskObjects (s : State) (t : BitVec 16) : List (Sref × SyncObj) :=
  s.sync.objs.filterMap (fun e => if e.2.kind ≠ .free ∧ e.2.task = t then (objRef s e.1).map (fun r => (r, e.2)) else none)

def onTask (s : State) (k : MbSlot) (m : MbSt) (f : BitVec 16 → State) : State :=
  if taskExists s (mbArg m 0 2) then f (BitVec.ofNat 16 (mbArg m 0 2)) else mbFail s k 0x0904

def taskStart (s : State) (k : MbSlot) (m : MbSt) : State :=
  onTask s k m (fun t =>
    let l := (taskObjects s t).map (fun e => recordOf e.1 true e.2)
    mbOk (onSync s (fun y => { y with started := y.started.filter (fun e => e.1 != t) ++ [(t, l)] })) k [(4, l.length)])

def execTaskStart (k : MbSlot) (s : State) : Host.Outcome State Fault Refusal := finish s (runCommand s k 0x0302 (exactly 2) taskStart)

/-- Whether an object differs from its record, and the value it has. -/
def residueOf (s : State) (t : BitVec 16) (x : ObjRecord) : Option Nat :=
  let o := match lpStall s (srefLp x.sref) with
    | some st => objOf s (objKey st (srefObj x.sref))
    | none => {}
  let same := o.kind == x.kind && o.task == t && waiters o == []
    && (match x.kind with
      | .tally => o.value == x.value
      | _ => o.arrivals == x.arrivals && o.isOpen == x.isOpen)
  if same then none else some (objStateWord o % 2 ^ 32)

/-- TASK-END: each object that differs is residue; the first 64 have an event each, and a closing event the count. -/
def taskEnd (s : State) (k : MbSlot) (m : MbSt) : State :=
  onTask s k m (fun t =>
    let l := ((s.sync.started.find? (fun e => e.1 == t)).map Prod.snd).getD []
    let bad := l.filterMap (fun x => (residueOf s t x).map (fun v => (x.sref, v)))
    let s := each (bad.take 64) (fun s e => emit s (srcGroom s) 0x0483 (e.1.toNat + t.toNat <<< 24) e.2) s
    let s := emit s (srcGroom s) 0x0484 t.toNat bad.length
    mbOk (onSync s (fun y => { y with started := y.started.filter (fun e => e.1 != t) })) k [(4, bad.length)])

def execTaskEnd (k : MbSlot) (s : State) : Host.Outcome State Fault Refusal := finish s (runCommand s k 0x0303 (exactly 2) taskEnd)

def taskDestroy (s : State) (k : MbSlot) (m : MbSt) : State :=
  onTask s k m (fun t =>
    mbOk (onSync s (fun y => { y with tasks := y.tasks.filter (fun x => x != t), started := y.started.filter (fun e => e.1 != t) })) k [])

def execTaskDestroy (k : MbSlot) (s : State) : Host.Outcome State Fault Refusal := finish s (runCommand s k 0x0304 (exactly 2) taskDestroy)

end Sys2Proof.Machine
end

