-- ==== Sys2Proof/Machine/MemoryCommands.lean ====
section
/-! DEFINITION. Commands of the MEMORY family, and the end of a move (10 R291, R295, R298, R300, R305, R308–R310, R315, R510; 13 R396). -/

namespace Sys2Proof.Machine

/-! ### NAME-CREATE and NAME-DELETE (10 R510) -/

/-- Whether a name's range is populated (01 R26, R27). -/
def namePopulated (s : State) (n : Nat) : Bool :=
  let a := n * segSize
  decide (a < 0x01E000000000)
  || (decide (0x020000000000 ≤ a ∧ a < 0x220000000000)
      && cxlState s ((a - 0x020000000000) / 0x040000000000) == 2
      && decide ((a - 0x020000000000) % 0x040000000000 / segSize < cxlFrames s ((a - 0x020000000000) / 0x040000000000)))

/-- A record for one name: the state with it, or the status of a refusal. -/
def createName (s : State) (task : BitVec 16) (tier prot : Nat) (pin policy : Bool) (n : Nat) : Except Nat State :=
  if 2 ≤ prot ∨ !namePopulated s n ∨ (nameRec s n).isSome then .error 0x0903
  else if pin ∧ pinRefused s task.toNat tier 1 then .error 0x0305
  else
    let only := nameOnly s n tier
    match allocIn s task.toNat policy only 6 tier with
    | .error c => .error (if c = 0x0304 ∧ only.isSome ∧ 0 < tierFree s tier then 0x0308 else c)
    | .ok (t, f, s) =>
      .ok (keepQuota (putRec s n
        { tier := asTier t, pin := pin, prot := ⟨prot % 4, by omega⟩, policy := policy, task := task, frame := f
          age := BitVec.ofNat 16 (homEpoch s (nameManger n)) }) task.toNat)

/-- Names one after another until one cannot be taken: how many were, the status, and the state. -/
def takeNames (one : State → Nat → Except Nat State) : Nat → State → Nat → Nat → Nat × Nat × State
  | 0, s, _, c => (c, 0, s)
  | n + 1, s, name, c =>
    match one s name with
    | .error e => (c, e, s)
    | .ok s => takeNames one n s (name + 1) (c + 1)

/-- The end of a command that takes names in order. -/
def namesDone (k : MbSlot) (x : Nat × Nat × State) : State :=
  mbComplete x.2.2 k x.2.1 [(4, x.1)] (if x.2.1 = 0 then 0xFFFF else 0)

def nameCreate (s : State) (k : MbSlot) (m : MbSt) : State :=
  let tier := mbArg m 8 1
  if tier = 0 ∨ 5 < tier then mbIllegal s k 8
  else if 1 < mbArg m 10 1 then mbIllegal s k 10
  else if 1 < mbArg m 11 1 then mbIllegal s k 11
  else namesDone k (takeNames
    (fun s n => createName s (BitVec.ofNat 16 (mbTask m)) tier (mbArg m 9 1) (mbArg m 10 1 = 1) (mbArg m 11 1 = 1) n)
    (mbArg m 4 4) s (mbArg m 0 4) 0)

def execNameCreate (k : MbSlot) (s : State) : Host.Outcome State Fault Refusal := finish s (runCommand s k 0x0401 (exactly 12) nameCreate)

/-- A record goes, and with it its frame and any move of the name. -/
def deleteName (s : State) (task n : Nat) : Except Nat State :=
  match nameRec s n with
  | none => .error 0x0903
  | some r =>
    if r.task.toNat ≠ task then .error 0x0904
    else
      let held := (s.homes.moves.filter (fun j => j.name == n)).flatMap (·.held)
      let s := onHomes s (fun h => { h with
        moves := h.moves.filter (fun j => j.name != n), moveQueue := h.moveQueue.filter (fun e => e.1.name != n) })
      .ok (each held landWrite (keepQuota (invalidate (delRec s n) n) task))

def nameDelete (s : State) (k : MbSlot) (m : MbSt) : State :=
  namesDone k (takeNames (fun s n => deleteName s (mbTask m) n) (mbArg m 4 4) s (mbArg m 0 4) 0)

def execNameDelete (k : MbSlot) (s : State) : Host.Outcome State Fault Refusal := finish s (runCommand s k 0x0402 (exactly 8) nameDelete)

/-! ### MOVE (10 R305, R307) -/

/-- Moves that a MOVE command waits for. -/
def movesOf (s : State) (k : MbSlot) : Bool :=
  s.homes.moves.any (fun j => j.slot == some k) || s.homes.moveQueue.any (fun e => e.1.slot == some k)

/-- MOVE commands whose names have all cut over, or stopped at a refusal, complete. -/
def settleMoves (s : State) : State :=
  let l := (begunSlots s).filter (fun k => mbCode (mbOf s k) == 0x0403 && !movesOf s k)
  if l = [] then s else
  settlePosted (each l (fun s k =>
    let m := mbOf s k
    mbComplete s k m.stat [(4, m.count)] (if m.stat = 0 then 0xFFFF else 0)) s)

/-- Request the moves of a command, in ascending order, up to the first refusal. -/
def requestMoves (k : MbSlot) (task tier : Nat) (pin : Option Bool) : Nat → State → Nat → State
  | 0, s, _ => s
  | n + 1, s, name =>
    let (code, s) : Nat × State := match nameRec s name with
      | none => (0x0301, s)
      | some r =>
        if r.task.toNat ≠ task then (0x0904, s)
        else requestMove s { moveOf name with pinAfter := pin, slot := some k } tier
    if code = 0 then requestMoves k task tier pin n s (name + 1)
    else updMb s k (fun m => { m with stat := code })

def moveCommand (s : State) (k : MbSlot) (m : MbSt) : State :=
  let tier := mbArg m 8 1
  if tier = 0 ∨ 5 < tier then mbIllegal s k 8
  else if 1 < mbArg m 9 1 then mbIllegal s k 9
  else if 1 < mbArg m 10 1 then mbIllegal s k 10
  else
    let pin := if mbArg m 9 1 = 1 then some true else if mbArg m 10 1 = 1 then some false else none
    settleMoves (requestMoves k (mbTask m) tier pin (mbArg m 4 4) s (mbArg m 0 4))

def execMove (k : MbSlot) (s : State) : Host.Outcome State Fault Refusal := finish s (runCommand s k 0x0403 (exactly 11) moveCommand)

/-- A move reaches its cut-over: writes held by it proceed, those of the host in their order. -/
def execMoveCutOver (m : Mg) (i : Fin 4) (s : State) : Host.Outcome State Fault Refusal :=
  finish s (settleMoves (releaseHostWrites (cutOver s m i.val)))

/-! ### The host-window table (10 R298; 13 R396) -/

def hostWinOf (w : Nat) : HostWin :=
  { pool := bitOf w 1, ro := bitOf w 2, ns := bitOf w 3, haddr := BitVec.ofNat 43 (field w 21 43), task := BitVec.ofNat 16 (field w 64 16) }

/-- A valid entry with its reserved bits 0. -/
def hostWinLegal (w : Nat) : Bool := bitOf w 0 && field w 4 17 = 0 && field w 80 48 = 0

/-- Tier-1 frames for the poison bitmaps of groups that get their first valid entry; none when one is lacking. -/
def takeBitmaps : List Nat → State → Option State
  | [], s => some s
  | g :: t, s =>
    if (mfind s.homes.bitmaps g).isSome then takeBitmaps t s
    else match takeFrame s 1 none with
      | none => none
      | some (f, s) => takeBitmaps t (onHomes s (fun h => { h with bitmaps := mput h.bitmaps g f }))

/-- Clear the poison marks of an entry. -/
def clearBitmap (s : State) (i : Nat) : State :=
  let lo := (hostMarks + i * segSize) / 64
  { s with poison := s.poison.filter (fun e => !(decide (lo ≤ e.1 ∧ e.1 < lo + segSize / 64))) }

def setHostWin (s : State) (i w : Nat) : State :=
  onHomes (clearBitmap s i) (fun h => { h with hostwin := mput h.hostwin i (hostWinOf w) })

def hostwinSet (s : State) (k : MbSlot) (m : MbSt) : State :=
  let i := mbArg m 0 4
  let n := mbArg m 4 4
  let ws := (List.range n).map (fun j => mbArg m (8 + 16 * j) 16)
  if 1048576 ≤ i then mbIllegal s k 0
  else if n = 0 ∨ 1048576 < i + n then mbIllegal s k 4
  else match ws.findIdx? (fun w => !hostWinLegal w) with
    | some j => mbIllegal s k (8 + 16 * j)
    | none =>
      match takeBitmaps ((List.range (ceilDiv (i % 512 + n) 512)).map (fun j => i / 512 + j)) s with
      | none => mbFail s k 0x0304
      | some s => mbOk (each ws.zipIdx (fun s e => setHostWin s (i + e.2) e.1) s) k [(4, n)]

def execHostwinSet (k : MbSlot) (s : State) : Host.Outcome State Fault Refusal :=
  finish s (runCommand s k 0x0404 (fun m l => decide (mbArg m 4 4 ≤ 248) && l == 8 + 16 * mbArg m 4 4) hostwinSet)

def hostwinClear (s : State) (k : MbSlot) (m : MbSt) : State :=
  let i := mbArg m 0 4
  let n := mbArg m 4 4
  let hit (j : Nat) : Bool := decide (i ≤ j ∧ j < i + n)
  if 1048576 ≤ i then mbIllegal s k 0
  else if 1048576 < i + n then mbIllegal s k 4
  else
    let c := (s.homes.hostwin.filter (fun e => hit e.1)).length
    mbOk (onHomes s (fun h =>
      let left := h.hostwin.filter (fun e => !hit e.1)
      { h with hostwin := left, bitmaps := h.bitmaps.filter (fun b => left.any (fun e => e.1 / 512 == b.1)) })) k [(4, c)]

def execHostwinClear (k : MbSlot) (s : State) : Host.Outcome State Fault Refusal := finish s (runCommand s k 0x0405 (exactly 8) hostwinClear)

/-! ### LOFT-MODE and BANDS (10 R295, R299, R300) -/

def loftMode (s : State) (k : MbSlot) (m : MbSt) : State :=
  let v := mbArg m 0 1
  if 1 < v then mbIllegal s k 0 else mbOk (setF s (mangerReg 0 0x500000) 1 1 v) k []

def execLoftMode (k : MbSlot) (s : State) : Host.Outcome State Fault Refusal := finish s (runCommand s k 0x0406 (exactly 1) loftMode)

/-- Tier-1 frames that the next band takes. -/
def bandFrames (s : State) : List Nat :=
  let b := protBands s + 1
  if mangerLocal s then (List.range 4).flatMap (fun m => (List.range 32).map (fun i => m * 245760 + 245760 - 32 * b + i))
  else (List.range 128).map (fun i => 983040 - 128 * b + i)

def bandsStatus (s : State) (code : Nat) : State := setF s (mangerReg 0 0x500008) 32 16 code

/-- Change the number of bands, where the frames that change hands are free. -/
def bandsTo (s : State) (k : MbSlot) (free : Bool) (b : Nat) : State :=
  if free then mbOk (bandsStatus (setF s (mangerReg 0 0x500008) 0 13 b) 0) k [(2, b)]
  else mbFail (bandsStatus s 0x0307) k 0x0307

def bands (s : State) (k : MbSlot) (m : MbSt) : State :=
  let b := protBands s
  match mbArg m 0 1 with
  | 1 => bandsTo s k (decide (b < 7680) && (bandFrames s).all (fun f => !(usedFrames s 1).contains f)) (b + 1)
  | 0xFF => bandsTo s k (decide (3 < b) && (List.range 112).all (fun i => !(usedFrames s 2).contains ((b - 1) * 112 + i))) (b - 1)
  | _ => mbIllegal s k 0

def execBands (k : MbSlot) (s : State) : Host.Outcome State Fault Refusal := finish s (runCommand s k 0x0407 (exactly 1) bands)

/-! ### TIER-MODE and QUOTA (10 R308–R310) -/

def tierMode (s : State) (k : MbSlot) (m : MbSt) : State :=
  let t := mbArg m 0 1
  let mode := mbArg m 1 1
  if t = 0 ∨ 5 < t then mbIllegal s k 0
  else if 1 < mode then mbIllegal s k 1
  else if mode ≠ getF s (homTier t) 0 1 ∧ tierInUse s t then mbFail (tierRefusal s t 0x0307) k 0x0307
  else mbOk (writeReg s (homTier t) (mode + mbArg m 2 1 <<< 8 + mbArg m 3 1 <<< 16) 0xFFFF01) k []

def execTierMode (k : MbSlot) (s : State) : Host.Outcome State Fault Refusal := finish s (runCommand s k 0x0408 (exactly 4) tierMode)

/-- QUOTA: a task's entry of the quota table. -/
def quota (s : State) (k : MbSlot) (m : MbSt) : State :=
  let t := mbArg m 0 2
  if !taskExists s t then mbFail s k 0x0904
  else if 1 < mbArg m 24 1 then mbIllegal s k 24
  else match quotaPlace s t with
    | none => mbIllegal s k 0
    | some p => mbOk (putBytes s p (mbBytes m 4 20 ++ toBytes 4 (mbArg m 24 1))) k []

def execQuota (k : MbSlot) (s : State) : Host.Outcome State Fault Refusal := finish s (runCommand s k 0x0409 (exactly 25) quota)

/-! ### SPILL-AREAS (10 R315; 12 R378) -/

/-- An area asked for: kind 0 staging, 1 CXL spill, 2 a region's spill area, 3 KV; region; segments (the model's layout). -/
structure AreaAsk where
  kind : Nat
  region : Nat
  segs : Nat
  deriving DecidableEq, Repr

def areaAsks (m : MbSt) : List AreaAsk :=
  (List.range ((mbLen m - 8) / 8)).map (fun i =>
    { kind := mbArg m (8 + 8 * i) 1, region := mbArg m (9 + 8 * i) 1, segs := mbArg m (12 + 8 * i) 4 })

/-- A run of `n` free names of the loft range from index `a` on, cyclically; a name in the way moves the search behind it.
The fuel is two more than the names there are. -/
def freeRun (s : State) (n : Nat) : Nat → Nat → Option Nat
  | 0, _ => none
  | fuel + 1, a =>
    let a := if 983040 < a + n then 0 else a
    match (s.homes.table.filter (fun e => decide (a ≤ e.1 ∧ e.1 < a + n))).getLast? with
    | some e => freeRun s n fuel (e.1 + 1)
    | none => some a

/-- Pinned plain segments for one area, names from `a` on. -/
def createArea (s : State) (task : BitVec 16) (tier a n : Nat) : Except Nat State :=
  match takeNames (fun s n => createName s task tier 0 true false n) n s a 0 with
  | (_, 0, s) => .ok (onHomes s (fun h => { h with areas := h.areas ++ [(task, a, n, tier)] }))
  | (_, c, _) => .error c

/-- A region's area is named in YRD_RGN_SPL of every stall. -/
def nameArea (s : State) (q : AreaAsk) (a : Nat) : State :=
  if q.kind ≠ 2 then s else
  each (List.finRange 32) (fun s st => setF (setF s (splReg st (asRegion q.region)) 0 27 a) (splReg st (asRegion q.region)) 32 11 q.segs) s

/-- The areas one behind another. -/
def createAreas (task : BitVec 16) : List AreaAsk → State → Nat → Except Nat State
  | [], s, _ => .ok s
  | q :: t, s, a =>
    match createArea s task (if q.kind = 1 then 3 else 1) a q.segs with
    | .error c => .error c
    | .ok s => createAreas task t (nameArea s q a) (a + q.segs)

/-- The sheds' areas, of one size each. -/
def createShedAreas (task : BitVec 16) (n : Nat) : List Shed → State → Nat → Except Nat State
  | [], s, _ => .ok s
  | x :: t, s, a =>
    match createArea s task 1 a n with
    | .error c => .error c
    | .ok s => createShedAreas task n t (setF (setF s (shedSpl x) 0 27 a) (shedSpl x) 32 11 n) (a + n)

def areaLegal (q : AreaAsk) : Bool := decide (q.kind ≤ 3) && decide (q.region < 64) && decide (q.segs < 2048)

/-- SPILL-AREAS: one run of names, the sheds' first, then the areas in their order; its first name is the result. -/
def spillAreas (s : State) (k : MbSlot) (m : MbSt) : State :=
  let shed := mbArg m 0 4
  let qs := areaAsks m
  let task := BitVec.ofNat 16 (mbTask m)
  let total := 4 * shed + (qs.map (·.segs)).foldl (· + ·) 0
  if 2048 ≤ shed then mbIllegal s k 0
  else match qs.findIdx? (fun q => !areaLegal q) with
    | some i => mbIllegal s k (8 + 8 * i)
    | none =>
      let (c, s1) := pick s 983040
      match freeRun s1 total (s.homes.table.length + 2) c with
      | none => mbFail s k 0x0304
      | some a =>
        let made : Except Nat State := match (if shed = 0 then .ok s1 else createShedAreas task shed [0, 1, 2, 3] s1 a) with
          | .error c => .error c
          | .ok s2 => createAreas task qs s2 (a + 4 * shed)
        match made with
        | .error c => mbFail s k c
        | .ok s2 => mbOk s2 k [(4, a)]

def execSpillAreas (k : MbSlot) (s : State) : Host.Outcome State Fault Refusal :=
  finish s (runCommand s k 0x040A (fun _ l => l == 4 || (decide (8 ≤ l) && l % 8 == 0)) spillAreas)

end Sys2Proof.Machine
end

