-- ==== Sys2Proof/Machine/ParamCommands.lean ====
section
/-! DEFINITION. Commands of the PARAM family but for the secure points (07 R206, R213, R226, R236; 10 R320; 13 R407). -/

namespace Sys2Proof.Machine

def allMangers : List Mg := [0, 1, 2, 3]

/-- SET-TABLE: the set descriptor table, the two pools, and every manger's rounding key. -/
def setTable (s : State) (k : MbSlot) (m : MbSt) : State :=
  let tbl := mbArg m 0 8
  let pool (o : Nat) : Bool := field (mbArg m o 8) 27 5 = 0 && field (mbArg m o 8) 43 21 = 0
  if 2 ^ 48 ≤ tbl ∨ tbl % 256 ≠ 0 then mbIllegal s k 0
  else if !pool 16 then mbIllegal s k 16
  else if !pool 24 then mbIllegal s k 24
  else
    let s := setReg s (mangerReg 0 0x300000) (BitVec.ofNat 64 (tbl + mbArg m 8 2 <<< 48))
    let s := setReg s (poolReg false) (BitVec.ofNat 64 (mbArg m 16 8))
    let s := setReg s (poolReg true) (BitVec.ofNat 64 (mbArg m 24 8))
    mbOk (each allMangers (fun s g => setReg s (mangerReg g 0x300018) (BitVec.ofNat 64 (mbArg m 32 8))) s) k []

def execSetTable (k : MbSlot) (s : State) : Host.Outcome State Fault Refusal := finish s (runCommand s k 0x0501 (exactly 40) setTable)

/-- RESTORE-LIST: the modules from which a set's shards may be copied. -/
def restoreList (s : State) (k : MbSlot) (m : MbSt) : State :=
  let l := (List.range ((mbLen m - 2) / 2)).map (fun i => BitVec.ofNat 16 (mbArg m (2 + 2 * i) 2))
  mbOk (onHomes s (fun h => { h with restoreLists := mset h.restoreLists [] (mbArg m 0 2) l })) k []

def execRestoreList (k : MbSlot) (s : State) : Host.Outcome State Fault Refusal :=
  finish s (runCommand s k 0x0502 (fun _ l => decide (2 ≤ l ∧ l ≤ 10) && l % 2 == 0) restoreList)

/-- Regenerate triggers for shards one after another: how many were pushed, and the status of the one that could not be. -/
def pushRegenerates (set : BitVec 16) (d announce : Nat) : Nat → State → Nat → Nat → Nat × Nat × State
  | 0, s, _, c => (c, 0, s)
  | n + 1, s, i, c =>
    if sdShards d ≤ i then (c, 0x0803, s) else
    let shard := BitVec.ofNat 24 i
    match shardRec s d shard with
    | none => (c, 0x0801, s)
    | some r =>
      match pushTrigger s (srEng r) (triggerWord set shard announce 1) with
      | none => (c, 0x0804, s)
      | some s => pushRegenerates set d announce n s (i + 1) (c + 1)

/-- REGENERATE; whether its triggers announce is a free choice. -/
def regenerateCommand (s : State) (k : MbSlot) (m : MbSt) : State :=
  let set := BitVec.ofNat 16 (mbArg m 0 2)
  match setDesc s set with
  | none => mbFail s k 0x0801
  | some d =>
    if !sdLegal d then mbFail s k 0x0801 else
    let (announce, s) := pick s 2
    let x := pushRegenerates set d announce (mbArg m 8 4) s (mbArg m 4 4) 0
    mbComplete x.2.2 k x.2.1 [(4, x.1)] 0xFFFF

def execRegenerate (k : MbSlot) (s : State) : Host.Outcome State Fault Refusal := finish s (runCommand s k 0x0503 (exactly 12) regenerateCommand)

/-- PROGRAM: the words of a slot, in all four mangers alike. -/
def program (s : State) (k : MbSlot) (m : MbSt) : State :=
  let p := mbArg m 0 1
  let n := (mbLen m - 8) / 8
  if p < 5 ∨ 7 < p then mbIllegal s k 0
  else if allMangers.any (fun g => progInUse s g p) then mbFail s k 0x0805
  else mbOk (each allMangers (fun s g => each (List.range n) (fun s i =>
    setReg s (progReg g p i) (BitVec.ofNat 64 (mbArg m (8 + 8 * i) 8))) s) s) k []

def execProgram (k : MbSlot) (s : State) : Host.Outcome State Fault Refusal :=
  finish s (runCommand s k 0x0504 (fun _ l => decide (16 ≤ l ∧ l ≤ 520) && l % 8 == 0) program)

end Sys2Proof.Machine
end

