-- ==== Sys2Proof/Machine/FabricCommands.lean ====
section
/-! DEFINITION. Commands of the FABRIC family (12 R365, R366, R368–R374, R379–R382; 13 R407). -/

namespace Sys2Proof.Machine

/-! ### FAB-ID and ADMIT (12 R368, R381) -/

/-- What waited for an identifier goes: ports come up, and packets leave. -/
def pumpAll (s : State) : State := sendWaiting (each (List.finRange 16) (fun s p => pumpPort (admitUp s p) p) s)

def setFabId (s : State) (module standby role : Nat) : State :=
  setReg s (shedReg 0 0) (BitVec.ofNat 64 (module + standby <<< 16 + role <<< 32))

def fabId (s : State) (k : MbSlot) (m : MbSt) : State :=
  let id := mbArg m 0 2
  let role := mbArg m 4 1
  if id = 0xFFFF then mbIllegal s k 0
  else if role = 2 ∧ mbArg m 2 2 = 0xFFFF then mbIllegal s k 2
  else if 2 < role then mbIllegal s k 4
  else mbOk (pumpAll (setFabId s id (mbArg m 2 2) role)) k []

def execFabId (k : MbSlot) (s : State) : Host.Outcome State Fault Refusal := finish s (runCommand s k 0x0701 (exactly 5) fabId)

/-- ADMIT: an entry of the admission list is added, replaced or removed. -/
def admitPeer (s : State) (k : MbSlot) (m : MbSt) : State :=
  let hash := BitVec.ofNat 256 (mbArg m 0 32)
  let id : ModuleId := BitVec.ofNat 16 (mbArg m 32 2)
  let others := s.fab.admission.filter (fun e => e.1 != hash)
  if 1 < mbArg m 34 1 then mbIllegal s k 34
  else if mbArg m 34 1 = 1 then mbOk (onFab s (fun f => { f with admission := others })) k []
  else if id = 0xFFFF then mbIllegal s k 32
  else if 65535 ≤ others.length then mbFail s k 0x0907
  else mbOk (onFab s (fun f => { f with admission := others ++ [(hash, id)] })) k []

def execAdmitPeer (k : MbSlot) (s : State) : Host.Outcome State Fault Refusal := finish s (runCommand s k 0x0702 (exactly 35) admitPeer)

/-! ### ROUTE, FLOW, FLOW-SELECT (12 R365, R369, R373, R374) -/

def routeLegal (e : Nat) : Bool := field e 20 44 = 0

def route (s : State) (k : MbSlot) (m : MbSt) : State :=
  let first := mbArg m 0 2
  let n := mbArg m 2 2
  let es := (List.range n).map (fun i => mbArg m (8 + 8 * i) 8)
  if 65536 < first + n then mbIllegal s k 2
  else match es.findIdx? (fun e => !routeLegal e) with
    | some i => mbIllegal s k (8 + 8 * i)
    | none => mbOk (sendWaiting (each es.zipIdx (fun s e => setSheds s (0x1000000 + 8 * (first + e.2)) (BitVec.ofNat 64 e.1)) s)) k []

def execRoute (k : MbSlot) (s : State) : Host.Outcome State Fault Refusal :=
  finish s (runCommand s k 0x0703 (fun m l => decide (mbArg m 2 2 ≤ 496) && l == 8 + 8 * mbArg m 2 2) route)

def flow (s : State) (k : MbSlot) (m : MbSt) : State :=
  let set := mbArg m 0 1
  let r := mbArg m 1 1
  let first := mbArg m 2 1
  let n := mbArg m 3 1
  let es := (List.range n).map (fun i => mbArg m (8 + 32 * i) 32)
  if 16 ≤ set then mbIllegal s k 0
  else if 64 ≤ r then mbIllegal s k 1
  else if 256 < first + n then mbIllegal s k 3
  else if es.any (fun e => feValid e && !feLegal e) then mbFail s k 0x0505
  else mbOk (each es.zipIdx (fun s e => putFlowEntry s (16384 * set + 256 * r + first + e.2) e.1) s) k []

def execFlow (k : MbSlot) (s : State) : Host.Outcome State Fault Refusal :=
  finish s (runCommand s k 0x0704 (fun m l => decide (mbArg m 3 1 ≤ 124) && l == 8 + 32 * mbArg m 3 1) flow)

def flowSelectCommand (s : State) (k : MbSlot) (m : MbSt) : State :=
  if 64 ≤ mbArg m 0 1 then mbIllegal s k 0
  else if 16 ≤ mbArg m 1 1 then mbIllegal s k 1
  else
    let (c, t) := flowSelect s (asRegion (mbArg m 0 1)) (mbArg m 1 1)
    if c = 0 then mbOk t k [] else mbFail s k c

def execFlowSelect (k : MbSlot) (s : State) : Host.Outcome State Fault Refusal :=
  finish s (runCommand s k 0x0705 (exactly 2) flowSelectCommand)

/-! ### FLOW-FLUSH (12 R379) -/

/-- Flits of a flow that queues and extension hold. -/
def flowFlits (s : State) (k : Nat) : Nat :=
  let flow : BitVec 16 := BitVec.ofNat 16 (k % 16384)
  let mine (l : List RedPkt) : Nat := sumOf ((l.filter (fun r => r.flow == flow)).map (·.blocks))
  sumOf (s.fab.ports.map (fun p => mine p.2.red)) + sumOf ((elOf s k).ext.map (fun e => e.2.blocks))

def flowFlush (s : State) (k : MbSlot) (m : MbSt) : State :=
  let f := mbArg m 0 2
  if 16384 ≤ f then mbIllegal s k 0
  else
    let i := flowIndex s (BitVec.ofNat 16 f)
    let n := flowFlits s i
    mbOk (replayStep (pumpReduction (discardFlow s i)) 3) k [(4, n)]

def execFlowFlush (k : MbSlot) (s : State) : Host.Outcome State Fault Refusal := finish s (runCommand s k 0x0706 (exactly 2) flowFlush)

/-! ### PORT (12 R366, R380) -/

/-- A disabled, failed or idle port begins its training. -/
def enablePort (s : State) (p : Port) : State :=
  let st := portState s p
  if st = 0 ∨ st = 5 ∨ st = 6 then updPort (setPortState s p 1) p (fun x => { x with was := 0 }) else s

/-- A port with a link goes down first. -/
def disablePort (s : State) (p : Port) : State :=
  let st := portState s p
  let s := if st = 2 ∨ st = 3 ∨ st = 4 ∨ (st = 1 ∧ (portOf s p).was ≠ 0) then portDown s p else s
  setPortState s p 6

/-- The end of a quarantine, by hand. -/
def endQuarantine (s : State) (p : Port) : State :=
  if portState s p ≠ 4 then s else
  let s := updPort s p (fun x => { x with violations := [] })
  sendWaiting (pumpPort (admitUp (handRecord (setPortState s p 2) (srcPort p)) p) p)

def port (s : State) (k : MbSlot) (m : MbSt) : State :=
  let a := mbArg m 1 1
  if h : mbArg m 0 1 < 16 then
    let p : Port := ⟨mbArg m 0 1, h⟩
    let done (t : State) : State := mbOk t k [(1, portState t p)]
    if a = 0 then done (enablePort s p)
    else if a = 1 then done (disablePort s p)
    else if a = 2 then done (endQuarantine s p)
    else mbIllegal s k 1
  else mbIllegal s k 0

def execPort (k : MbSlot) (s : State) : Host.Outcome State Fault Refusal := finish s (runCommand s k 0x0707 (exactly 2) port)

/-! ### TAKEOVER (12 R382) -/

/-- Whether a module's identifier is in use by a neighbour whose port is up. -/
def liveModule (s : State) (x : Nat) : Bool := (List.finRange 16).any (fun p => portState s p == 3 && portPeer s p == x)

/-- The bale-record arrays of a spare that takes a position stand cold until copies of the others' arrive, by the writes of
other modules or a restore: the block has no row in which Ivain asks for them (05 R167; log entry 127). -/
def arraysCold (s : State) : State :=
  each (List.range (field (getReg s (mangerReg 0 0x300000)).toNat 48 16 + 1)) (fun s i =>
    match setDesc s (BitVec.ofNat 16 i) with
    | some d => if sdBrec d = 0 then s else coldArray s (sdBrec d)
    | none => s) s

def takeover (s : State) (k : MbSlot) (m : MbSt) : State :=
  let x := mbArg m 0 2
  if x = 0xFFFF then mbIllegal s k 0
  else if fabRole s ≠ 2 ∨ liveModule s x ∨ ownModule s = BitVec.ofNat 16 x then mbFail s k 0x050A
  else
    let sp := getF s (shedReg 0 0) 16 16
    let s := arraysCold s
    let s := onFab (setFabId s x sp 1) (fun f => { f with takeoverSeq := f.takeoverSeq + 1 })
    let s := emit s (srcShed 0 0x3F) 0x0589 x sp
    mbOk (pumpAll (floodTakeover s (BitVec.ofNat 16 x) (BitVec.ofNat 16 sp) s.fab.takeoverSeq none)) k []

def execTakeover (k : MbSlot) (s : State) : Host.Outcome State Fault Refusal := finish s (runCommand s k 0x0708 (exactly 2) takeover)

end Sys2Proof.Machine
end

