-- ==== Sys2Proof/Machine/Startup.lean ====
section
/-! DEFINITION. The management bus and the TAP (15 R448, R451–R453; 17 R504). -/

namespace Sys2Proof.Machine

/-! ### The bus (15 R451, R452) -/

/-- Whether the always-on island serves the bus: in every state but OFF. An over-voltage and a thermal trip leave the
island powered (14 R434, R436). -/
def busUp (s : State) : Bool := s.power.on || s.power.cause == 2 || s.power.tripped

/-- What a request does where the bus is served. -/
def onBus (s : State) (f : State → State) : State := if busUp s then f s else s

/-- A reply: its completion byte and its body. -/
def busAnswer (s : State) (completion : Nat) (body : List Byte) : State := send s (.busReply (toBytes 1 completion ++ body))

def execDynamicAddressAssignment (a : BitVec 7) (s : State) : Host.Outcome State Fault Refusal :=
  finishAon s (onBus s (fun s => onPower s (fun p => { p with dynAddr := some a })))

/-- Requests of MCTP control; what the spec does not give of a reply is free. -/
def mctpControl (s : State) (q : MctpRequest) : State :=
  match q with
  | .setEid e => busAnswer (onPower s (fun p => { p with eid := e })) 0 []
  | .getEid => busAnswer s 0 [s.power.eid]
  | .getUuid => busAnswer s 0 (toBytes 16 (Config.factory 5 0))
  | .getVersion => busAnswer s 0 (toBytes 4 (Config.factory 5 1))
  | .getTypes => busAnswer s 0 [3, 0x00, 0x01, 0x7F]
  | .getVendor => busAnswer s 0 (toBytes 4 (Config.factory 5 2))

def execMctpControl (q : MctpRequest) (s : State) : Host.Outcome State Fault Refusal := finishAon s (onBus s (fun s => mctpControl s q))

/-- The ordering code (15 R460). -/
def orderingCode : List Byte := [0x57, 0x44, 0x47, 0x2D, 0x45, 0x5A, 0x54, 0x34, 0x30, 0x2D, 0x41, 0x32]

/-- A numeric sensor: 0 to 2 the input's voltage, current and power, the others free. -/
def sensorReading (s : State) (id : Nat) : Nat := if id < 3 then getF s pwrInput (16 * id) 16 else Config.telemetry (8 + id) s.draws % 2 ^ 16

/-- PLDM requests; in DORM only the input sensors are served, every other is not ready. -/
def pldmRequest (s : State) (q : PldmRequest) : State :=
  let awake := s.power.on && pstate s != 3
  match q with
  | .sensor id =>
    if id < 3 ∨ awake then busAnswer { s with draws := s.draws + 1 } 0 (toBytes 2 (sensorReading s id)) else busAnswer s 4 []
  | .base => busAnswer s (if awake then 0 else 4) []
  | .fru => if awake then busAnswer s 0 (toBytes 16 serialNumber ++ orderingCode ++ [0xA2]) else busAnswer s 4 []
  | .other => busAnswer s (if awake then 5 else 4) []

def execPldmRequest (q : PldmRequest) (s : State) : Host.Outcome State Fault Refusal := finishAon s (onBus s (fun s => pldmRequest s q))

/-! ### Vendor messages (15 R453) -/

/-- WAKE: refused when not enabled; after a brown-out it starts the module (14 R433). -/
def wakeMessage (s : State) : State :=
  if !s.power.on ∧ s.power.cause = 3 then busAnswer (startFrom s 3 (lastInput s)) 0 []
  else onBus s (fun s => if wakeEnabled s 0 then busAnswer (if s.power.on then wakeBy s 0 else s) 0 [] else busAnswer s 1 [])

def execWake (s : State) : Host.Outcome State Fault Refusal := finishAon s (wakeMessage s)

/-- RETAIN. -/
def retain (s : State) : State :=
  busAnswer s 0 (toBytes 8 (readReg s pwrRetain) ++ toBytes 8 (readReg s pwrState) ++ toBytes 8 (readReg s (shedReg 0 0x300000)))

def execRetain (s : State) : Host.Outcome State Fault Refusal := finishAon s (onBus s retain)

/-- MODULE-RESET: a power-fail stop and a cold start, when the serial number matches. -/
def moduleReset (s : State) (serial : BitVec 32) : State :=
  if serial.toNat ≠ serialNumber % 2 ^ 32 then busAnswer s 1 []
  else
    let input := lastInput s
    let s := if s.power.on then powerFailStop s input 4 else s
    busAnswer (startFrom s 4 input) 0 []

def execModuleReset (serial : BitVec 32) (s : State) : Host.Outcome State Fault Refusal := finishAon s (onBus s (fun s => moduleReset s serial))

/-- IDENTIFY-LED. -/
def execIdentifyLed (on : Bool) (s : State) : Host.Outcome State Fault Refusal :=
  finishAon s (onBus s (fun s => busAnswer (setF s (shedReg 0 0x300010) 6 1 (flag on)) 0 []))

/-! ### The TAP (15 R448; 17 R504) -/

/-- SEC_STAT.tap: 0 locked, 1 board, 2 scan. -/
def tapState (s : State) : Nat := getF s (shedReg 0 0x400000) 0 2

/-- Whether a die's core domain is out of service, by its die code. -/
def dieOut (s : State) (die : Nat) : Bool :=
  if h : die < 32 then !coreOn s ⟨die, h⟩
  else if 0x20 ≤ die ∧ die < 0x24 then !bitOf (getReg s pwrDom).toNat die
  else if 0x30 ≤ die ∧ die < 0x40 then !bitOf (getReg s pwrDom).toNat (36 + (die - 0x30))
  else false

/-- The instruction that an instruction shifted in selects. -/
def tapSelect (s : State) (i : TapInstr) : TapInstr :=
  let t := tapState s
  match i with
  | .idcode => .idcode
  | .bypass => .bypass
  | .samplePreload => if 1 ≤ t then i else .bypass
  | .extest => if 1 ≤ t then i else .bypass
  | .clamp => if 1 ≤ t then i else .bypass
  | .highz => if 1 ≤ t then i else .bypass
  | .internalScan d => if t = 2 ∧ dieOut s d.toNat then i else .bypass
  | .selfTest d => if t = 2 ∧ dieOut s d.toNat then i else .bypass
  | .other => .bypass
  | .trst => .idcode

/-- The IDCODE: version, part, Windoger's JEDEC code, which the spec does not give, and 1. -/
def idcode : BitVec 32 := BitVec.ofNat 32 (2 <<< 28 + 0x0E40 <<< 12 + (Config.factory 7 0 % 2 ^ 11) <<< 1 + 1)

def tapInstruction (s : State) (i : TapInstr) : State :=
  let x := tapSelect s i
  let s := send (onPower s (fun p => { p with tapInstr := x })) (.tap x)
  when (decide (x = .idcode)) (fun s => send s (.tapIdcode idcode)) s

def execTapInstruction (i : TapInstr) (s : State) : Host.Outcome State Fault Refusal := finish s (tapInstruction s i)

end Sys2Proof.Machine
end

