-- ==== Sys2Proof/Machine/Continuity.lean ====
section
/-! DEFINITION. Staying in service: spare crossings and MATs, the loss of a stall, row shifts, and rotation (02 R67; 04 R133–R136;
11 R347; 16 R463–R469). -/

namespace Sys2Proof.Machine

/-! ### What a shifting row carries from stall to stall (16 R464) -/

/-- List the entries of a map again under other keys. -/
def remap {α : Type} (f : Nat → Nat) (m : Map α) : Map α := m.foldl (fun a e => mput a (f e.1) e.2) []

/-- A key whose quotient by `k` is a stall. -/
def moveKey (f : Stall → Stall) (k n : Nat) : Nat := if h : n / k < 32 then (f ⟨n / k, h⟩).val * k + n % k else n

def moveBrw (f : Stall → Stall) (b : BrwId) : BrwId :=
  if h : b.die.val < 32 then { b with die := ⟨(f ⟨b.die.val, h⟩).val, by omega⟩ } else b

def moveAgent (f : Stall → Stall) : Agent → Agent
  | .barrow b => .barrow (moveBrw f b)
  | .image b => .image (moveBrw f b)
  | .claimer b => .claimer (moveBrw f b)
  | .unit st site => .unit (f st) site
  | a => a

/-- The place of an SRAM byte. -/
def movePlace (f : Stall → Stall) (p : Nat) : Nat :=
  if 0xF00000000000 ≤ p then 0xF00000000000 + moveKey f (2 ^ 32) (p - 0xF00000000000) else p

/-- Registers that belong to a position: those of its slots, regions, sequencers and units. Clocks, edges, spare MATs, the
MATs' error counts and self-test stay with the die. -/
def carried (o : Nat) : Bool :=
  decide (0x400 ≤ o ∧ o < 0x10000)
  || (decide (0x100000 ≤ o ∧ o < 0x1B0000) && !decide (0x110000 ≤ o ∧ o < 0x110100) && !(decide (o < 0x104000) && o % 0x40 == 8))

def moveRegKey (f : Stall → Stall) (a : Nat) : Nat :=
  if regSpace ≤ a ∧ carried ((a - regSpace) % 2 ^ 32) then regSpace + moveKey f (2 ^ 32) (a - regSpace) else a

/-- MATs that are retiring, served by a spare or lost, of some stalls (04 R138). -/
def matMarks (s : State) (sts : List Stall) : List (Stall × Nat × Nat) :=
  sts.flatMap (fun st => (List.range 256).filterMap (fun k =>
    let v := getF s (matReg st k 0) 0 3
    if 3 ≤ v then some (st, k, v) else none))

def moveWaiters (f : Stall → Stall) (o : SyncObj) : SyncObj :=
  let go (l : List Waiter) : List Waiter := l.map (fun w => { w with agent := moveAgent f w.agent })
  { o with own := go o.own, ovf := go o.ovf }

/-- Everything that the stalls of a row hold for their positions goes to the stalls that `f` names. -/
def moveStalls (s : State) (sts : List Stall) (f : Stall → Stall) : State :=
  let marks := matMarks s sts
  let s := each marks (fun s m => setF s (matReg m.1 m.2.1 0) 0 3 0) s
  let held (a : Access) : Access := { a with agent := moveAgent f a.agent }
  let s := { s with
    regs := remap (moveRegKey f) s.regs
    mem := remap (movePlace f) s.mem
    poison := remap (fun k => movePlace f (64 * k) / 64) s.poison
    tags := remap (fun k => movePlace f (64 * k) / 64) s.tags
    satLines := remap (fun k => movePlace f (64 * k) / 64) s.satLines
    yard := { s.yard with
      units := remap (moveKey f 576) s.yard.units
      reloaded := s.yard.reloaded.map (moveKey f 64) }
    seqs := s.seqs.map (fun e => (e.1, { e.2 with mapLeft := e.2.mapLeft.map f }))
    claimers := remap (moveKey f 32) s.claimers
    stats := remap (moveKey f 16) s.stats
    barrows := remap (moveKey f 32) s.barrows
    homes := { s.homes with
      caches := s.homes.caches.map (fun e => (moveAgent f e.1, e.2))
      held := s.homes.held.map held
      moves := s.homes.moves.map (fun j => { j with held := j.held.map held }) }
    sync := { s.sync with
      objs := (remap (moveKey f 8192) s.sync.objs).map (fun e => (e.1, moveWaiters f e.2))
      wakes := s.sync.wakes.map (fun w => { w with agent := moveAgent f w.agent })
      retries := s.sync.retries.map (fun w => { w with agent := moveAgent f w.agent })
      refusedAt := remap (moveKey f 1) s.sync.refusedAt }
    fab := { s.fab with outstanding := s.fab.outstanding.map (fun o => { o with agent := moveAgent f o.agent }) } }
  each marks (fun s m => setF s (matReg m.1 m.2.1 0) 0 3 m.2.2) s

def rowStalls (row : Fin 4) : List Stall := (List.finRange 8).map (mkStall row)

/-- Where the positions of a row go when a stall leaves it: each at or beyond the stall moves one stall toward the spare. -/
def shiftOf (s : State) (left : Stall) (st : Stall) : Stall :=
  let row := stallRow left
  let o := (outColumn s row).val
  let c := stallCol left
  let k := stallCol st
  if stallRow st ≠ row then st
  else if c ≤ k ∧ k < o then mkStall row ⟨(k + 1) % 8, by omega⟩
  else if o < k ∧ k ≤ c then mkStall row ⟨(k + 7) % 8, by omega⟩
  else st

def distinctCol (st : Stall) : Fin 8 := ⟨stallCol st % 8, by omega⟩

/-- The core domains of a row follow their positions, and a core that comes up counts its islands' cycles from 0
(02 R54); the stall that left has none. -/
def shiftDomains (s : State) (left : Stall) (f : Stall → Stall) : State :=
  let old := (getReg s pwrDom).toNat
  let moved := (rowStalls (stallRow left)).filter (fun st => f st != st)
  let s := setF s pwrDom left.val 1 0
  each moved (fun s st =>
    let s := setF s pwrDom (f st).val 1 (flag (bitOf old st.val))
    when (bitOf old st.val && !bitOf old (f st).val) (countsUp · (f st)) s) s

/-- The map changes: its version rises, and one remap event names the row and the stall that left (01 R35). -/
def newMap (s : State) (left : Stall) : State :=
  let row := stallRow left
  let s := onYard s (fun y => { y with outCol := y.outCol.set row.val (distinctCol left), mapver := y.mapver + 1 })
  emit s (srcGroom s) 0x0B82 (row.val + left.val <<< 8) s.yard.mapver.toNat

/-! ### Losing a stall (11 R347; 16 R463–R467) -/

/-- Agents that a stall carries. -/
def onStall (s : State) (st : Stall) (a : Agent) : Bool := agentStall s a == some st

/-- Waiter entries of a stall's agents leave every list, counted at the stall whose list it was; no TAKE is performed. -/
def purgeWaiters (s : State) (st : Stall) : State :=
  let gone (w : Waiter) : Bool := onStall s st w.agent
  let hits := s.sync.objs.map (fun e => (keyObjStall e.1, ((waiters e.2).filter gone).length))
  let t := onSync s (fun y => { y with
    objs := y.objs.map (fun e => (e.1, setWaiters e.2 ((waiters e.2).filter (fun w => !gone w))))
    wakes := y.wakes.filter (fun w => !onStall s st w.agent), retries := y.retries.filter (fun w => !onStall s st w.agent) })
  each hits (fun t e => if e.2 = 0 then t else satF t (stallReg e.1 0x1A0028) 0 32 e.2) t

/-- An object as it is rebuilt: from the record of its task's start, or from its configuration. -/
def rebuilt (s : State) (r : Sref) (o : SyncObj) : SyncObj :=
  let found := (s.sync.started.find? (fun e => e.1 == o.task)).bind (fun e => e.2.find? (fun x => x.sref == r))
  match found with
  | some x => { kind := x.kind, latch := x.latch, open0 := x.open0, count := x.count, task := o.task, value := x.value
                init := o.init, arrivals := x.arrivals, isOpen := x.isOpen, lost := true }
  | none => { kind := o.kind, latch := o.latch, open0 := o.open0, count := o.count, task := o.task, value := o.init
              init := o.init, isOpen := o.open0, lost := true }

/-- Keys of a stall's objects that are configured. -/
def stallObjects (s : State) (st : Stall) : List Nat :=
  (s.sync.objs.filter (fun e => keyObjStall e.1 == st && e.2.kind != .free)).map Prod.fst

/-- The objects of a lost position: rebuilt, their waits completed, one event for the position; `st` carries it now. -/
def rebuildObjects (s : State) (st : Stall) (pos : Nat) : State :=
  let keys := stallObjects s st
  if keys = [] then s else
  let s := completeWaits s (fun k _ => keys.contains k) 0x0407
  let s := each keys (fun s k => putObj s k (rebuilt s (BitVec.ofNat 24 (k % 8192 + pos * 8192)) (objOf s k))) s
  emit s (srcStall st 0x3F) 0x0486 pos keys.length

/-- Load records of a position: region, slot, source. -/
def loadsOf (s : State) (pos : Nat) : List (Region × Slot × Nat) :=
  s.svc.loads.filterMap (fun e => if e.1 / 256 = pos then
    some (⟨e.1 / 4 % 64, by omega⟩, ⟨e.1 % 4, by omega⟩, e.2.toNat) else none)

/-- The slots of a position are loaded again where `st` carries it, each region's active slot as it was. -/
def reloadSlots (s : State) (st : Stall) (pos : Nat) (act : List (Region × Nat)) : State :=
  let s := each (loadsOf s pos) (fun s e => contextLoad s st e.1 e.2.1 false false e.2.2) s
  each act (fun s e => setF s (rgnReg st e.1) 0 2 e.2) s

/-- Drop a failed stall's core; its sequencers' registers are Ivain's to carry. -/
def dropStall (s : State) (st : Stall) : State :=
  let s := coreLost s st
  dropRegs s (fun a => inStall st 0x400 0xA00 a || inStall st 0x1A0000 0x1B0000 a)

/-- The active slots of a stall's regions. -/
def activeSlots (s : State) (st : Stall) : List (Region × Nat) :=
  (List.finRange 64).filterMap (fun r => if rgnActive s st r = 0 then none else some (r, rgnActive s st r))

/-- The sequences in flight of rollouts with units in a stall: the feed unit's stall and site, its region, the sequence, and the
tag fed last. -/
def sequencesOn (s : State) (st : Stall) : List (Stall × Site × Region × Nat × BitVec 16) :=
  s.yard.units.flatMap (fun k => match unitRegion k.2 k.2.active with
    | some r => if (regionStalls s r).contains st then k.2.fed.map (fun e => (keyStall k.1, keySite k.1, r, e.1, e.2)) else []
    | none => [])

/-- They end with the output written so far, each with its event (08 R253). The feed units stand where a shift has put them. -/
def endSequences (s : State) (f : Stall → Stall) (l : List (Stall × Site × Region × Nat × BitVec 16)) : State :=
  each l (fun s x =>
    let (st, site, r, q, tag) := x
    let s := updUnit s (f st) site (fun u => { u with fed := mdel u.fed q, lost := mput u.lost q tag })
    emit s (srcIsland (f st) site) 0x0291 tag.toNat (r.val + q * 2 ^ 16)) s

/-- A row shifts onto its spare, and the running regions replay their step. The pinned share of the failed stall is refilled
where its position lies now, and the sequences in flight of its rollouts end (08 R253). -/
def shiftLost (s : State) (st : Stall) (pos : Nat) : State :=
  let f := shiftOf s st
  let seqs := sequencesOn s st
  let act := activeSlots s st
  let s := dropStall (purgeWaiters s st) st
  let s := moveStalls s (rowStalls (stallRow st)) f
  let s := newMap (shiftDomains s st f) st
  let s := reloadSlots s (f st) pos act
  endSequences (pinShares (replayStep (rebuildObjects s (f st) pos) 0) (f st)) f seqs

/-- A row without a spare: every sequencer stops, the stall is off, and its row forwards (R467). -/
def loseContinuity (s : State) (st : Stall) : State :=
  let row := stallRow st
  let s := each (liveRegions s) (fun s r => seqSet (updSeq (seqCount s r) r (fun q => { q with phase := .stopped, stopReq := false, mapLeft := [] })) r 0xE00 32 16 0x0B01) s
  let s := purgeWaiters s st
  let off := (rowStalls row).filter (fun t => coreOn s t)
  let s := setDomains s ((getReg s pwrDom).toNat - (off.map (fun t => 2 ^ t.val)).foldl (· + ·) 0)
  let s := onYard s (fun y => { y with relayed := y.relayed ++ (rowStalls row).filter (fun t => !y.relayed.contains t) })
  emit (onSvc s (fun v => { v with contLost := true })) (srcGroom s) 0x0B8A row.val st.val

/-- A stall is declared failed. Causes: 0 crossing, 1 MAT without spare, 2 site fault, 3 barrow, 4 power-up, 5 self-test,
6 mismatch, 7 RETIRE. -/
def stallLoss (s : State) (st : Stall) (cause : Nat) : State :=
  if st ∈ s.yard.failed then s else
  let was := stallState s st
  let pos := stallLp s st
  let spare := mkStall (stallRow st) (outColumn s (stallRow st))
  let hasSpare := stallState s spare == .relay && !s.yard.relayed.contains spare
  let s := emit s (srcStall st 0x3F) 0x0B81 (st.val + (pos.getD 0xFF) <<< 8) cause
  let s := addRepair s 9 st.val 0
  let drop (s : State) : State := onYard s (fun y => { y with failed := y.failed ++ [st] })
  let s := onSvc s (fun v => { v with rotation := match v.rotation with
    | some r => if r.row = stallRow st then none else some r
    | none => none })
  match was, pos with
  | .inService, some p => drop (if hasSpare then shiftLost s st p else loseContinuity s st)
  | _, _ => drop (setF s pwrDom st.val 1 0)

def execStallLoss (st : Stall) (cause : Fin 8) (s : State) : Host.Outcome State Fault Refusal := finish s (stallLoss s st cause.val)

/-! ### Spare crossings (02 R67; 16 R469) -/

/-- A failed crossing is served by a free spare of its edge, or its stall is declared failed. -/
def spareCrossing (s : State) (st : Stall) (e : Fin 4) (i : Fin 24) : State :=
  let c := crossOf s st e i
  if !c.failed then s else
  let used := getF s (edgeReg st e) 24 2
  if h : used < 2 then
    let s := setF (putCross s st e i { c with failed := false, replays := 0, spare := some ⟨used, h⟩ }) (edgeReg st e) 24 2 (used + 1)
    let s := setF s (edgeReg st e) i.val 1 1
    addRepair (emit s (srcGroom s) 0x0B83 (st.val <<< 8) (e.val * 24 + i.val)) 4 st.val (e.val * 24 + i.val)
  else stallLoss s st 0

def execSpareCrossingTakeover (st : Stall) (edge : Fin 4) (i : Fin 24) (s : State) : Host.Outcome State Fault Refusal :=
  finish s (spareCrossing s st edge i)

/-! ### Spare MATs (04 R133–R135) -/

def spareReg (st : Stall) (i : Nat) : Nat := stallReg st (0x110000 + 8 * i)
def spareFree (s : State) (st : Stall) (i : Nat) : Bool := getF s (spareReg st i) 8 2 = 0

/-- The site of an island's spare MAT. -/
def spareSite (i : Nat) : Site := siteAt (6 * (i % 4) + 2) (6 * (i / 4) + 2)

def siteDist (a b : Site) : Nat :=
  let d (x y : Nat) : Nat := max x y - min x y
  d (a.val % 24) (b.val % 24) + d (a.val / 24) (b.val / 24)

/-- Islands that share an edge with an island. -/
def nextIslands (i : Nat) : List Nat :=
  (if i / 4 = 0 then [] else [i - 4]) ++ (if i / 4 = 3 then [] else [i + 4]) ++ (if i % 4 = 0 then [] else [i - 1]) ++ (if i % 4 = 3 then [] else [i + 1])

/-- The island whose spare takes over: the MAT's own, else a free one next to it; which of those is a free choice. -/
def chooseSpare (s : State) (st : Stall) (own : Nat) : Option Nat × State :=
  if spareFree s st own then (some own, s)
  else
    let l := (nextIslands own).filter (spareFree s st)
    let (c, s) := pick s (max 1 l.length)
    (l[c]?, s)

/-- Whether the MAT's current tile is complete. -/
def tileDone (s : State) (st : Stall) (site : Site) : Bool := (unitOf s st site).mat.all (fun e => e.2.step == 0 || e.2.issue.isNone)

/-- A retired MAT is taken over by a spare, or its stall is declared failed. -/
def matTakeover (s : State) (st : Stall) (k : Fin 256) : State :=
  let site := matSite k
  if getF s (matReg st k.val 0) 0 3 ≠ 3 ∨ !tileDone s st site then s else
  let own := (islandOf site).val
  match chooseSpare s st own with
  | (some i, s) =>
    let hops := min 15 (siteDist site (spareSite i))
    let s := setReg s (spareReg st i) (BitVec.ofNat 64 (k.val + 2 ^ 8 + (flag (i ≠ own)) <<< 10 + hops <<< 12))
    let s := setF s (matReg st k.val 0) 0 3 4
    addRepair (emit s (srcIsland st site) 0x0288 k.val (i + hops <<< 4)) 1 st.val (site.val + i <<< 10)
  | (none, s) =>
    let s := emit (setF s (matReg st k.val 0) 0 3 5) (srcIsland st site) 0x0289 k.val 0
    stallLoss s st 1

def execMatTakeover (st : Stall) (mat : Fin 256) (s : State) : Host.Outcome State Fault Refusal := finish s (matTakeover s st mat)

/-! ### Rotation (16 R468) -/

def bstCfg : Nat := shedReg 0 0xF00100
def bstRot : Nat := shedReg 0 0xF00108

/-- Hours since a stall's last complete test. -/
def testAge (s : State) (die : Nat) : Nat := (s.time - mget s.svc.testedAt 0 die) / 3600000000000

/-- Whether every running sequencer with units in a row has completed an entry with step_end and stands before the next. -/
def rowAtMark (s : State) (row : Fin 4) : Bool :=
  (liveRegions s).all (fun r =>
    let q := seqOf s r
    !(regionStalls s r).any (fun st => stallRow st == row)
    || (q.phase == .waiting && q.entry.isNone && seqEntry s r == seqGet s r 0x1400 0 16 && seqGet s r 0x1400 16 1 == 0))

/-- Whether a row's spare is in relay. -/
def spareReady (s : State) (row : Fin 4) : Bool :=
  let sp := mkStall row (outColumn s row)
  stallState s sp == .relay && !s.yard.relayed.contains sp
  && !(match s.svc.rotation with | some r => r.row == row | none => false)
  && !s.svc.tests.any (fun t => t.die.toNat == sp.val)

/-- A stall leaves service and the spare enters, without loss. -/
def rotateOut (s : State) (st : Stall) : State :=
  let f := shiftOf s st
  let s := moveStalls s (rowStalls (stallRow st)) f
  let s := addRepair (newMap (shiftDomains s st f) st) 8 st.val 0
  setF s pwrDom st.val 1 0

/-- The stall of a row that leaves: the one tested longest ago, a free choice among equals. -/
def leastTested (s : State) (row : Fin 4) : Stall × State :=
  let l := (rowStalls row).filter (fun st => stallState s st != .failed)
  let a := (l.map (fun st => testAge s st.val)).foldl max 0
  let c := l.filter (fun st => testAge s st.val == a)
  let (i, s) := pick s (max 1 c.length)
  (c.getD i (mkStall row (outColumn s row)), s)

def rotationDue (s : State) (hours : Nat) : State := onSvc s (fun v => { v with rotationDue := hours, rotationSet := s.time })

/-- The row whose turn it is: rows without a spare in relay are skipped. -/
def nextRotation (s : State) : Option (Fin 4) :=
  ([0, 1, 2, 3] : List (Fin 4)).findSome? (fun i => if spareReady s (s.svc.nextRow + i) then some (s.svc.nextRow + i) else none)

/-- A rotation is due. -/
def rotation (s : State) : State :=
  if getF s bstCfg 0 1 = 0 then s
  else match nextRotation s with
    | none => rotationDue s (max 1 (getF s bstRot 0 16))
    | some row =>
      if !rowAtMark s row ∨ s.power.entry.isSome ∨ pstate s ≠ 0 ∨ s.svc.contLost then rotationDue s 1
      else
        let (st, s) := leastTested s row
        let s := if stallState s st = .relay then s else rotateOut s st
        let s := onSvc s (fun v => { v with rotation := some { row := row, leaving := st }, nextRow := row + 1 })
        rotationDue s (max 1 (getF s bstRot 0 16))

def execRotation (s : State) : Host.Outcome State Fault Refusal := finish s (rotation s)

end Sys2Proof.Machine
end

