-- ==== Sys2Proof/Machine/SelfTest.lean ====
section
/-! DEFINITION. Audits, self-test, repairs and fuses (16 R478–R490). -/

namespace Sys2Proof.Machine

/-! ### When the two paths disagree (16 R478, R479) -/

/-- The 8-bit digest of a slot's configuration. -/
def slotDigest (u : UnitSt) (c : Slot) : Nat :=
  match cfgOf u c with
  | some w => (Config.digest 2 (toBytes 512 w.toNat)).toNat % 256
  | none => 0

/-- The slots that hold a configuration whose digest a status word contradicts. -/
def wrongDigests (u : UnitSt) (w : Nat) : List Slot :=
  ([0, 1, 2, 3] : List Slot).filter (fun c => (cfgOf u c).isSome && field w (32 + 8 * c.val) 8 != slotDigest u c)

/-- What an audit settles. -/
inductive AuditCase where
  | agree | work | inactive (l : List Slot) | active | reset | noPower | failed
  deriving DecidableEq, Repr

def auditCase (s : State) (st : Stall) (u : UnitSt) (word : StatusWord) : AuditCase :=
  match word with
  | none => .failed
  | some b =>
    let w := b.toNat
    let on := unitsOn s st
    let bad := wrongDigests u w
    if !on then (if bitOf w 5 ∨ field w 0 3 = 1 then .failed else .agree)
    else if !bitOf w 5 then .noPower
    else if field w 0 3 = 4 ∧ !u.cfg.isEmpty then .reset
    else if bad.contains u.active then .active
    else if bad ≠ [] then .inactive bad
    else if u.cfg.isEmpty ∧ (field w 0 3 = 1 ∨ field w 16 16 ≠ 0) then .work
    else .agree

/-- A unit's slot is loaded again from its load record, where no token of the slot is left. -/
def reloadUnit (s : State) (st : Stall) (site : Site) (only : Slot → Bool) : State :=
  match stallLp s st with
  | none => s
  | some p => each (loadsOf s p) (fun s e =>
      if !only e.2.1 then s else
      match checkImage s st e.1 e.2.1 e.2.2 with
      | .error _ => s
      | .ok es => match es.find? (fun x => x.site == site.val) with
        | some x => updUnit s st site (fun u => { u with cfg := mput u.cfg e.2.1.val x.img })
        | none => s) s

/-- A unit is declared failed: a MAT is left to a spare, any other unit is a stall loss. -/
def failUnit (s : State) (st : Stall) (site : Site) (cause : Nat) : State :=
  match siteType site with
  | .mat => if getF s (matReg st (siteIndex site) 0) 0 3 < 3 then setF s (matReg st (siteIndex site) 0) 0 3 3 else s
  | .spare => setF s (spareReg st (islandOf site).val) 9 1 1
  | _ => stallLoss s st cause

/-- What the audit does about a case. -/
def settleAudit (s : State) (st : Stall) (site : Site) (c : AuditCase) : State :=
  let u := unitOf s st site
  match c with
  | .agree => s
  | .work => s
  | .inactive l => reloadUnit s st site (fun k => l.contains k && heldTokens s st site k == 0)
  | .active => match cfgOf u u.active with
    | some w => haltRegion s (asRegion (hdrRegion w)) 0x0B06
    | none => s
  | .reset => replayStep (reloadUnit (putUnit s st site { active := u.active, cfg := u.cfg }) st site (fun _ => true)) 1
  | .noPower =>
    let act := activeSlots s st
    let s := coreLost s st
    replayStep (match stallLp s st with | some p => reloadSlots s st p act | none => s) 1
  | .failed => failUnit s st site 6

/-- An audit of one unit: the status word, and the word as it is read again. -/
def unitAudit (s : State) (st : Stall) (site : Site) (seen again : StatusWord) : State :=
  let u := unitOf s st site
  if auditCase s st u seen = .agree then s
  else
    let (table, s) := unstated s 0x51
    let low := match again with | some w => w.toNat % 2 ^ 32 | none => 0
    let s := emit s (srcGroom s) 0x0B87 (site.val + st.val <<< 10) (low + (table % 2 ^ 16) <<< 32)
    settleAudit s st site (auditCase s st u again)

def execUnitAudit (st : Stall) (site : Site) (seen again : StatusWord) (s : State) : Host.Outcome State Fault Refusal :=
  finish s (unitAudit s st site seen again)

/-! ### Dies, fuses and repair records (16 R483, R487, R488) -/

/-- The register space of a die with a BST block. -/
def dieReg (die o : Nat) : Option Nat :=
  if h : die < 32 then some (stallReg ⟨die, h⟩ (0xF00000 + o))
  else if 0x20 ≤ die ∧ die < 0x24 then some (mangerReg (asMg (die - 0x20)) (0xF00000 + o))
  else if 0x28 ≤ die ∧ die < 0x2C then some (shedReg (asShed (die - 0x28)) (0xF00000 + o))
  else none

def dieF (s : State) (die o lo len v : Nat) : State :=
  match dieReg die o with
  | some a => setF s a lo len v
  | none => s

def isDie (die : Nat) : Bool :=
  decide (die < 0x24 ∨ (0x28 ≤ die ∧ die < 0x2C) ∨ (0x30 ≤ die ∧ die < 0x40))

/-- Whether a die stays in service. -/
def inService (s : State) (die : Nat) : Bool :=
  if h : die < 32 then stallState s ⟨die, h⟩ == .inService && coreOn s ⟨die, h⟩
  else if 0x20 ≤ die ∧ die < 0x24 then engineDomOn s (asMg (die - 0x20))
  else true

/-- Burn soft repairs of a die, oldest first, while fuse entries are free: how many, and whether some found none. -/
def burn (s : State) (die : Nat) (p : Repair → Bool) : Nat × Bool × State :=
  let want (r : Repair) : Bool := r.die.toNat == die && !r.fused && decide (1 ≤ r.kind.val ∧ r.kind.val ≤ 5) && p r
  let room := fuseEntries die - mget s.svc.fuses 0 die
  let n := (s.svc.repairs.filter want).length
  let go := s.svc.repairs.foldl (fun (a : Nat × List Repair) r =>
    if want r && decide (a.1 < room) then (a.1 + 1, a.2 ++ [{ r with fused := true }]) else (a.1, a.2 ++ [r])) (0, [])
  let s := onSvc s (fun v => { v with repairs := go.2, fuses := mset v.fuses 0 die (mget v.fuses 0 die + go.1) })
  (go.1, decide (room < n), s)

/-- The fuse event. -/
def fuseEvent (s : State) (die burned : Nat) (exhausted : Bool) : State :=
  emit s (srcGroom s) 0x0A83 die (burned + (if exhausted then 0x0A04 else 0) <<< 16)

/-- Burn and record, when there is something to burn. -/
def burnDie (s : State) (die : Nat) (p : Repair → Bool) : Nat × State :=
  let x := burn s die p
  if x.1 = 0 ∧ !x.2.1 then (0, x.2.2) else (x.1, fuseEvent x.2.2 die x.1 x.2.1)

/-! ### The outcome of a test (16 R481, R482, R486) -/

/-- Findings of one memory beyond 64 make it not repairable. -/
def sameMemory (f g : Finding) : Bool := f.site == g.site && f.mem == g.mem && f.kind != 2 && g.kind != 2
def overfull (l : List Finding) (f : Finding) : Bool := decide (64 < (l.filter (sameMemory f)).length)

/-- Whether a finding is a memory failure within the spares. -/
def mends (l : List Finding) (f : Finding) : Bool := f.kind != 2 && f.repairable && !overfull l f

/-- The findings that are recorded: the first 64 of each memory. -/
def kept (l : List Finding) : List Finding :=
  l.foldl (fun a f => if f.kind != 2 ∧ 64 ≤ (a.filter (sameMemory f)).length then a else a ++ [f]) []

/-- A repair of an SRAM by one of its spare word lines or columns, which is a free choice, or of a loft by a spare row. -/
def mend (s : State) (die : Nat) (f : Finding) : State :=
  if 0x30 ≤ die ∧ die < 0x40 then loftRepair s ((die - 0x30) * 8 + f.site.toNat % 8) (f.addr.toNat * 64 % 2 ^ 34) 6
  else
    let (c, s) := pick s 2
    repairRecord s (if c = 0 then 2 else 3) die (f.site.toNat + f.mem.toNat <<< 10 + f.addr.toNat <<< 16)

/-- A port whose block failed. -/
def portFail (s : State) (p : Port) : State :=
  let st := portState s p
  setPortState (if st = 1 ∨ st = 2 ∨ st = 3 ∨ st = 4 then portDown s p else s) p 5

/-- A unit or block of a die that failed beyond repair; the state, and whether a self-test event records it. Blocks of
mangers and sheds carry their sub-source (00 R16). -/
def blockFailed (s : State) (die unit cause : Nat) : State × Bool :=
  if h : die < 32 then
    if h' : unit < 576 then
      let t := siteType ⟨unit, h'⟩
      (failUnit s ⟨die, h⟩ ⟨unit, h'⟩ cause, t == .mat || t == .spare)
    else (stallLoss s ⟨die, h⟩ cause, false)
  else if 0x20 ≤ die ∧ die < 0x24 then
    let m := asMg (die - 0x20)
    if 0x20 ≤ unit ∧ unit < 0x24 then (engineFault s (engAt m ⟨unit % 4, by omega⟩), true)
    else if 0x28 ≤ unit ∧ unit < 0x30 then (barrowFault s m ⟨unit % 8, by omega⟩, true)
    else (onSvc s (fun v => { v with due := true }), true)
  else if 0x28 ≤ die ∧ die < 0x2C then
    if unit < 4 then (portFail s ⟨((die - 0x28) * 4 + unit) % 16, by omega⟩, false)
    else (onSvc s (fun v => { v with due := true }), true)
  else if 0x30 ≤ die ∧ die < 0x40 then (interfaceLost s ((die - 0x30) * 8 + unit % 8), false)
  else (s, false)

/-- The code of a finding's repair field (16 R486). -/
def repairCode (l : List Finding) (f : Finding) : Nat := if f.kind = 2 then 0 else if mends l f then 1 else 3

/-- Keep findings as result entries, and settle each. -/
def settleFindings (s : State) (die : Nat) (l : List Finding) (stay : Bool) : State :=
  let ks := kept l
  let parts := ((l.filter (fun f => f.kind == 2)).map (·.site)).eraseDups
  let full := ((l.filter (overfull l)).map (fun f => (f.site, f.mem))).eraseDups
  let found := mget s.svc.results [] die ++ ks.map (fun f => { f with repairable := mends l f })
  let s := onSvc s (fun v => { v with results := mput v.results die found })
  let s := dieF (dieF (dieF s die 8 0 16 (min 0xFFFF ks.length)) die 8 16 16 full.length) die 0 32 16 parts.length
  let s := each (ks.filter (mends l)) (fun s f => mend s die f) s
  let bad := if stay then [] else ((l.filter (fun f => !mends l f)).map (fun f => f.site.toNat)).eraseDups
  let x := bad.foldl (fun (x : State × Bool) u => let y := blockFailed x.1 die u 5; (y.1, x.2 || y.2)) (s, false)
  if x.2 then emit x.1 (srcGroom x.1) 0x0A81 die (ks.length + parts.length <<< 16) else x.1

/-- Whether a finding is of the element that a repair has replaced (16 R487). -/
def ofRepair (die : Nat) (r : Repair) (f : Finding) : Bool :=
  let loc := r.loc.toNat
  if 6 ≤ r.kind.val then f.kind != 2 && loc == (f.addr.toNat * 64 % 2 ^ 34 + ((die - 0x30) * 8 + f.site.toNat % 8) * 2 ^ 34) % 2 ^ 48
  else decide (r.kind.val ≤ 3) && loc % 2 ^ 10 == f.site.toNat && (r.kind == 1 || f.kind == 2 || loc / 2 ^ 10 % 2 ^ 6 == f.mem.toNat)

/-- The repairs of a die whose elements the test did not find at fault have passed one more; those held long enough are burned
when the die is out of service. -/
def heldRepairs (s : State) (die : Nat) (out : Bool) : State :=
  let found := mget s.svc.results [] die
  let s := onSvc s (fun v => { v with repairs := v.repairs.map (fun r =>
    if r.die.toNat = die ∧ !found.any (ofRepair die r) then { r with held := BitVec.ofNat 8 (min 255 (r.held.toNat + 1)) } else r) })
  let h := getF s bstCfg 4 4
  if h = 0 ∨ !out then s else (burnDie s die (fun r => decide (h ≤ r.held.toNat))).2

def tested (s : State) (die : Nat) : State := onSvc s (fun v => { v with testedAt := mput v.testedAt die s.time })

/-- Whether the running image lacks a partition's expected signature. -/
def signatureMissing (s : State) : Bool := Config.factory 6 (runningVersion s).toNat % 2 = 1

/-- Contents of every SRAM, the sync memories among them, and of every loft go with the shut-down test: every name record and
host-window entry, and what Ivain's bands held, as at a cold start (R485). -/
def wipeMemories (s : State) : State :=
  let s := each (List.finRange 32) coreLost s
  { s with
    mem := s.mem.filter (fun c => decide (cxlBase ≤ c.1)), poison := s.poison.filter (fun c => decide (cxlBase / 64 ≤ c.1 ∧ c.1 < hostBase / 64))
    homes := { s.homes with table := [], hostwin := [], bitmaps := [], areas := [], lostClean := [], restoreLists := [] }
    sync := {}, svc := { s.svc with loads := [] }, host := { s.host with log := [] } }

/-- The last part of a test: its status, its counts and the end of its command. -/
def endTest (s : State) (t : TestRun) : State :=
  let die := t.die.toNat
  let s := onSvc s (fun v => { v with tests := v.tests.filter (fun x => x != t) })
  let logic := decide (t.kind ≠ 1)
  let status := if logic && signatureMissing s then 0x0A03 else 0
  let s := dieF s die 0 16 16 status
  let out := !inService s die
  let s := when (decide (2 ≤ t.kind.val) || t.rotated) (fun s => tested s die) (heldRepairs s die (out || t.kind = 3))
  let s := when t.rotated (fun s => emit s (srcGroom s) 0x0B86 (die / 8 % 4 + die <<< 8) status) s
  match t.slot with
  | some k =>
    let n := (mget s.svc.results [] die).length
    if status = 0 then mbOk s k [(2, n)] else mbComplete s k status [(2, n)] 0xFFFF
  | none => s

/-- The shut-down test ends: every die's repairs that are held are burned, and the tested flag is set. -/
def endShutdown (s : State) (t : TestRun) : State :=
  let dies := (List.range 0x40).filter isDie
  let s := each dies (fun s d => tested (heldRepairs s d true) d) (wipeMemories s)
  endTest (onPower s (fun p => { p with tested := true })) t

/-- A test of a die ends with its findings. While the shut-down test runs, its dies' findings come one by one, and die 0xFF
ends it. -/
def selfTestDone (s : State) (die : Nat) (l : List Finding) : State :=
  match s.svc.tests.find? (fun t => t.die.toNat == die) with
  | some t =>
    if t.kind = 3 then endShutdown s t else endTest (settleFindings s die l false) t
  | none =>
    if isDie die ∧ s.svc.tests.any (fun t => t.kind == 3) then settleFindings s die l false else s

def execSelfTestDone (die : Byte) (findings : List Finding) (s : State) : Host.Outcome State Fault Refusal :=
  finish s (settlePosted (selfTestDone s die.toNat findings))

/-- The next block of each interface of a loft under test; after 262,144 blocks the test ends. -/
def loftBlockTest (s : State) (l : Nat) (fs : List Finding) : State :=
  match s.svc.tests.find? (fun t => t.die.toNat == 0x30 + l) with
  | some t =>
    let s := settleFindings s (0x30 + l) fs false
    let u : TestRun := { t with blocks := t.blocks + 1 }
    let s := onSvc s (fun v => { v with tests := v.tests.map (fun x => if x = t then u else x) })
    if 262144 ≤ u.blocks then endTest s u else s
  | none => s

def execLoftBlockTest (l : Fin 16) (findings : List Finding) (s : State) : Host.Outcome State Fault Refusal :=
  finish s (settlePosted (loftBlockTest s l.val findings))

/-- The test of a rotation ends: the stall is the row's spare, in relay, or it is declared failed. -/
def rotationTestDone (s : State) (pass : Bool) (l : List Finding) : State :=
  match s.svc.rotation with
  | none => s
  | some r =>
    let die := r.leaving.val
    let s := onSvc s (fun v => { v with rotation := none, results := mdel v.results die })
    let s := heldRepairs (settleFindings s die l true) die true
    let where' := r.row.val + die <<< 8
    if pass then emit (tested (setF s pwrDom die 1 0) die) (srcGroom s) 0x0B86 where' 0
    else
      let s := stallLoss s r.leaving 5
      let (c, s) := unstated s 0x50
      emit s (srcGroom s) 0x0B86 where' (c % 2 ^ 16)

def execRotationTestDone (pass : Bool) (findings : List Finding) (s : State) : Host.Outcome State Fault Refusal :=
  finish s (rotationTestDone s pass findings)

/-! ### BIST (16 R483–R485) -/

/-- A test of a die begins. -/
def beginTest (s : State) (die kind : Nat) (k : MbSlot) (serving rotated : Bool) : State :=
  onSvc s (fun v => { v with
    results := if die = 0xFF then [] else mdel v.results die
    tests := v.tests ++ [{ die := BitVec.ofNat 8 die, kind := ⟨kind % 4, by omega⟩, slot := some k, inService := serving, rotated := rotated }] })

/-- A test of a die that runs. -/
def testing (s : State) (die : Nat) : Bool :=
  s.svc.tests.any (fun t => t.die.toNat == die || t.die == 0xFF || die == 0xFF)
  || (match s.svc.rotation with | some r => r.leaving.val == die | none => false)

/-- Work that the shut-down test would destroy. -/
def workPresent (s : State) : Bool :=
  liveRegions s != [] || s.barrows.any (fun e => e.2.job.isSome || e.2.preempted.isSome || firingOn e.2 || !e.2.fetched.isEmpty)
  || s.upd.engines.any (fun e => !e.2.ring.isEmpty || e.2.run.isSome) || !s.homes.moves.isEmpty

/-- The shut-down test. -/
def shutdownTest (s : State) (k : MbSlot) : State :=
  if workPresent s then mbFail s k 0x0A05
  else beginTest (onSvc s (fun v => { v with pending := true })) 0xFF 3 k false false

/-- A logic test of a stall in service runs as a rotation of that stall: it waits for the row's sequencers. -/
def testByRotation (s : State) (k : MbSlot) (st : Stall) (kind : Nat) : State :=
  if !spareReady s (stallRow st) then mbFail s k 0x0A07
  else if !rowAtMark s (stallRow st) then s
  else beginTest (rotateOut s st) st.val kind k false true

def startTest (s : State) (k : MbSlot) (die kind : Nat) : State :=
  if testing s die then mbFail s k 0x0A02
  else if die = 0xFF then shutdownTest s k
  else if 0x30 ≤ die then beginTest s die 1 k true false
  else if !inService s die then beginTest s die kind k false false
  else if h : die < 32 then (if kind = 1 then beginTest s die 1 k true false else testByRotation s k ⟨die, h⟩ kind)
  else if die < 0x24 ∧ kind = 1 then beginTest s die 1 k true false
  else mbFail s k 0x0A01

def bist (s : State) (k : MbSlot) (m : MbSt) : State :=
  let die := mbArg m 0 1
  let kind := mbArg m 1 1
  if !isDie die ∧ die ≠ 0xFF then mbIllegal s k 0
  else if 3 < kind ∨ (kind = 3 ∧ die ≠ 0xFF) ∨ (kind ≠ 3 ∧ die = 0xFF) ∨ (0x30 ≤ die ∧ kind = 0) then mbIllegal s k 1
  else startTest s k die kind

/-- BIST: begun at the head of the queue; one that waits for a rotation goes on when its sequencers stand at their marks. -/
def bistStep (s : State) (k : MbSlot) : State :=
  let m := mbOf s k
  if mbBegun m ∧ mbCode m = 0x0A01 ∧ !s.svc.tests.any (fun t => t.slot == some k) then settlePosted (bist s k m)
  else runCommand s k 0x0A01 (exactly 2) bist

def execBist (k : MbSlot) (s : State) : Host.Outcome State Fault Refusal := finish s (bistStep s k)

/-! ### BIST-RESULTS, FUSE-REPAIR and RETIRE -/

def resultEntry (f : Finding) : Nat :=
  f.site.toNat + f.mem.toNat <<< 10 + f.addr.toNat <<< 16 + f.bit.toNat <<< 52 + f.kind.toNat <<< 60
  + (if f.kind = 2 then 0 else if f.repairable then 1 else 3) <<< 62 + (if f.kind = 2 then f.sig.toNat else 0) <<< 64

def bistResults (s : State) (k : MbSlot) (m : MbSt) : State :=
  let die := mbArg m 0 1
  if !isDie die ∧ die ≠ 0xFF then mbIllegal s k 0
  else mbOk s k ((((mget s.svc.results [] die).drop (mbArg m 2 2)).take 64).map (fun f => (16, resultEntry f)))

def execBistResults (k : MbSlot) (s : State) : Host.Outcome State Fault Refusal := finish s (runCommand s k 0x0A02 (exactly 4) bistResults)

def fuseRepair (s : State) (k : MbSlot) (m : MbSt) : State :=
  let die := mbArg m 0 1
  if !isDie die then mbIllegal s k 0
  else if inService s die ∧ !s.svc.tests.any (fun t => t.kind == 3) then mbFail s k 0x0A01
  else
    let x := burnDie s die (fun _ => true)
    mbOk x.2 k [(2, x.1)]

def execFuseRepair (k : MbSlot) (s : State) : Host.Outcome State Fault Refusal := finish s (runCommand s k 0x0A03 (exactly 1) fuseRepair)

/-- Whether a die has a unit of a number. -/
def hasUnit (die unit : Nat) : Bool :=
  if die < 32 then decide (unit < 576)
  else if die < 0x24 then decide (unit < 0x24 ∨ (0x28 ≤ unit ∧ unit < 0x30))
  else if die < 0x30 then decide (unit < 4)
  else decide (unit < 8)

/-- RETIRE: a loft interface is given by its manger's or its loft's number. -/
def retire (s : State) (k : MbSlot) (m : MbSt) : State :=
  let die := mbArg m 0 1
  let unit := mbArg m 2 2
  if !isDie die then mbIllegal s k 0
  else if !hasUnit die unit then mbIllegal s k 2
  else if 0x20 ≤ die ∧ die < 0x24 ∧ unit < 0x20 then mbOk (interfaceLost s ((die - 0x20) * 32 + unit)) k []
  else mbOk (blockFailed s die unit 7).1 k []

def execRetire (k : MbSlot) (s : State) : Host.Outcome State Fault Refusal := finish s (runCommand s k 0x0A04 (exactly 4) retire)

end Sys2Proof.Machine
end

