-- ==== Sys2Proof/Machine/Points.lean ====
section
/-! DEFINITION. Secure points and their restore (16 R471–R476), and the responses of the fabric on which they wait (12 R358, R372).
The order of the data within a section is the model's: shards, positions, units and regions in ascending order. -/

namespace Sys2Proof.Machine

/-! ### What a point holds (16 R471) -/

/-- Bytes of a shard's master and of its state. -/
def masterSize (d r : Nat) : Nat := mBytes d * srLen r
def stateSize (d r : Nat) : Nat := if sdNstate d = 0 then 0 else stateAt d r (sdNstate d - 1) (srLen r) - srState r

def shardData (s : State) (d : Nat) : List Byte :=
  (localShards s d).flatMap (fun e => readRange s (srMaster e.2) (masterSize d e.2) ++ readRange s (srState e.2) (stateSize d e.2))

def bankSize (a : BaleArray) : Nat := ceilDiv (2 * a.bales) 64 * 64

def baleData (s : State) (d st : Nat) : List Byte :=
  match baleArray s (sdBrec d) with
  | some a => readRange s a.addr 64 ++ readRange s (bankAddr a (st + 1)) (bankSize a)
  | none => []

def journalData (s : State) (d : Nat) : List Byte := (localShards s d).flatMap (fun e => readRange s (srJrnl e.2) 64)

def ldgTable : Nat := mangerReg 0 0x200000
def layerBytes (s : State) : Nat := 256 * (getF s ldgTable 48 12 + 1)
def layerData (s : State) : List Byte := readRange s (getF s ldgTable 0 48) (layerBytes s)

/-- Generator registers of the SFNs of every position in service. -/
def rngRegs (s : State) : List Nat :=
  ((List.range 28).filterMap (lpStall s)).flatMap (fun st => (List.range 64).flatMap (fun j =>
    [stallReg st (0x120000 + 0x40 * j), stallReg st (0x120008 + 0x40 * j)]))

/-- Registers saved whole. -/
def savedRegs (s : State) : List Nat :=
  [mangerReg 0 0x200008, mangerReg 0 0x300020] ++ allMangers.map (fun m => mangerReg m 0x300018) ++ rngRegs s

def stepData (s : State) : List Byte :=
  (savedRegs s).flatMap (fun a => toBytes 8 (getReg s a).toNat)
  ++ (List.finRange 64).flatMap (fun r => toBytes 8 (seqGet s r 0xE00 48 16) ++ toBytes 8 (seqGet s r 0x1400 0 17))

/-! ### Writing an image (16 R473, R474) -/

/-- Where a partner's Ivain puts the image of a point: the spec gives no address. -/
def partnerPlace (id : Nat) : Nat := Config.unstated 0x52 id % 2 ^ 47

def onPoint (s : State) (f : Point → Point) : State := onSvc s (fun v => { v with point := v.point.map f })

/-- Whether every byte of a range of the host range has a valid entry with ro = 0. -/
def hostWritable (s : State) (a n : Nat) : Bool :=
  decide (hostRange ≤ a ∧ a + n ≤ hostRange + 2 ^ 41) && (pieces a n).all (fun q => (busAddr s q.1).isSome && !hostReadOnly s (q.1 / segSize))

def writeHostPieces (s : State) : List (Nat × Nat) → List Byte → State
  | [], _ => s
  | (a, k) :: t, d => writeHostPieces (writeHost s a (d.take k)) t (d.drop k)

/-- A write toward the partner, in packets. -/
def writePartner (m : ModuleId) (s : State) : List (List Byte) → Nat → State
  | [], _ => s
  | d :: t, a =>
    match writeRemote s .groom m a d false none with
    | (0, s) => writePartner m s t (a + 4096)
    | (c, s) => onPoint s (fun p => { p with failed := if p.failed = 0 then BitVec.ofNat 16 c else p.failed })

/-- Write bytes of the image, from an offset. -/
def writeImageAt (s : State) (p : Point) (off : Nat) (d : List Byte) : State :=
  let a := p.target + off
  if p.module = ownModule s then
    if hostWritable s a d.length then writeHostPieces s (pieces a d.length) d
    else onPoint s (fun x => { x with failed := 0x0302 })
  else writePartner p.module s (chunk 4096 d) a

def entryBytes (e : Section) : List Byte :=
  toBytes 64 (e.kind + e.set.toNat <<< 16 + e.off <<< 32 + e.len <<< 80 + e.dig.toNat <<< 256)

def tableBytes (p : Point) : List Byte := p.sections.flatMap entryBytes

def headerBytes (p : Point) (complete : Bool) : List Byte :=
  toBytes 128 (p.id.toNat + (p.step % 2 ^ 48) <<< 64 + (flag complete) <<< 112 + (p.nsec % 2 ^ 16) <<< 128
    + (Config.digest 0 (tableBytes p)).toNat <<< 160)

/-- Write one section and its entry. -/
def writeSection (s : State) (kind : Nat) (set : BitVec 16) (d : List Byte) : State :=
  match s.svc.point with
  | none => s
  | some p =>
    let e : Section := { kind := kind, set := set, off := p.next, len := d.length, dig := Config.digest 0 d }
    let s := onPoint s (fun x => { x with sections := x.sections ++ [e], next := x.next + ceilDiv d.length 64 * 64 })
    let s := writeImageAt s p p.next d
    writeImageAt s p (128 + 64 * p.sections.length) (entryBytes e)

/-! ### Taking a point (16 R472, R476) -/

/-- The step at which every owned shard of a set stands, phase 3. -/
def setStands (s : State) (d : Nat) : Option Nat :=
  match (localShards s d).map (fun e => journal s e.2) with
  | [] => none
  | none :: _ => none
  | some j :: t => if (some j :: t).all (fun x => match x with | some y => jPhase y == 3 && jStep y == jStep j | none => false)
      then some (jStep j) else none

/-- Sets with shards that the module owns. -/
def ownedSets (s : State) : List (BitVec 16 × Nat) := (allSets s).filter (fun e => localShards s e.2 != [])

/-- Read a set into the image; its parked updates go on. -/
def readSet (s : State) (set : BitVec 16) (d st : Nat) : State :=
  let s := writeSection s 1 set (shardData s d)
  let s := if sdBrec d = 0 then s else writeSection s 2 set (baleData s d st)
  let s := writeSection s 3 set (journalData s d)
  let s := onPoint s (fun p => { p with setsLeft := p.setsLeft.filter (fun x => x != set) })
  unpark s (fun p => if p.reason = .point ∧ p.run.set = set then some p.run else none)

def pointEvent (s : State) (p : Point) (status : Nat) : State :=
  emit s (srcGroom s) 0x0B88 (p.id.toNat % 2 ^ 48) (status + (p.step % 2 ^ 32) <<< 16)

/-- A point that stays incomplete. -/
def interruptPoint (s : State) (p : Point) : State :=
  let s := onSvc s (fun v => { v with point := none })
  let s := unpark s (fun q => if q.reason = .point then some q.run else none)
  let code := if p.sections = [] then 0x0B05 else 0x0B03
  let s := if code = 0x0B03 then pointEvent s p 0x0B03 else s
  match p.slot with
  | some k => mbFail s k code
  | none => s

/-- Keep a complete point, the two latest of its target; the oldest is released, and in host memory reported as free. -/
def keepPoint (s : State) (p : Point) : State :=
  let same := s.svc.points.filter (fun q => q.module == p.module)
  let old := same.take (same.length - 1)
  let s := onSvc s (fun v => { v with point := none, points := v.points.filter (fun q => !old.contains q) ++ [{ p with slot := none }] })
  if p.module = ownModule s then each old (fun s q => pointEvent s q 0) s else s

/-- The point goes on where it can: it is interrupted, closed by its header, or complete. -/
def settlePoint (s : State) : State :=
  match s.svc.point with
  | none => s
  | some p =>
    let idle := (waitingOf s .groom 2).isEmpty
    if p.failed ≠ 0 then interruptPoint s p
    else if !p.fixed ∨ p.setsLeft ≠ [] ∨ !idle then s
    else if !p.closed then
      let s := onPoint (writeImageAt (writeImageAt s p 0 (headerBytes p false)) p 0 (headerBytes p true)) (fun x => { x with closed := true })
      match s.svc.point with
      | some q =>
        if q.failed ≠ 0 then interruptPoint s q
        else if (waitingOf s .groom 2).isEmpty then
          let s := pointEvent (keepPoint s q) q 0
          (match q.slot with | some k => mbOk s k [(8, q.id.toNat)] | none => s)
        else s
      | none => s
    else
      let s := pointEvent (keepPoint s p) p 0
      match p.slot with
      | some k => mbOk s k [(8, p.id.toNat)]
      | none => s

/-- A set that reaches phase 3: the first fixes the point's step, and the sets that stand there already are read with it. -/
def setRead (s : State) (set : BitVec 16) : State :=
  match s.svc.point with
  | none => s
  | some p =>
    match (ownedSets s).find? (fun e => e.1 == set) with
    | none => s
    | some e =>
      if !p.setsLeft.contains set then s
      else match setStands s e.2 with
        | none => s
        | some st =>
          if p.fixed then (if st = p.step then settlePoint (readSet s set e.2 st) else s)
          else if p.stood.contains (set, st) then s
          else
            let s := onPoint s (fun x => { x with fixed := true, step := st })
            let s := writeSection (writeSection (readSet s set e.2 st) 4 0 (layerData s)) 5 0 (stepData s)
            let ready := (ownedSets s).filter (fun x => x.1 != set && setStands s x.2 == some st)
            settlePoint (each ready (fun s x => readSet s x.1 x.2 st) s)

def execSecurePointSetRead (set : BitVec 16) (s : State) : Host.Outcome State Fault Refusal := finish s (settlePosted (setRead s set))

/-- SECURE-POINT: the point begins. -/
def securePoint (s : State) (k : MbSlot) (m : MbSt) : State :=
  let target := mbArg m 0 8
  let md : ModuleId := BitVec.ofNat 16 (mbArg m 8 2)
  let own := decide (md = ownModule s)
  if s.svc.point.isSome then mbFail s k 0x0B02
  else if !own ∧ target ≠ 0 then mbIllegal s k 0
  else if own ∧ !hostWritable s target 128 then mbFail s k 0x0B05
  else
    let n := s.svc.pointsTaken + 1
    let id := n % 2 ^ 48 + (ownModule s).toNat <<< 48
    let sets := ownedSets s
    let nsec := sumOf (sets.map (fun e => if sdBrec e.2 = 0 then 2 else 3)) + 2
    let p : Point :=
      { id := BitVec.ofNat 64 id, module := md, target := if own then target else partnerPlace id, slot := some k
        setsLeft := sets.map Prod.fst, stood := sets.filterMap (fun e => (setStands s e.2).map (fun st => (e.1, st)))
        nsec := nsec, next := 128 + 64 * nsec }
    let s := onSvc s (fun v => { v with pointsTaken := n, point := some p })
    settlePoint (writeImageAt s p 0 (headerBytes p false))

def execSecurePoint (k : MbSlot) (s : State) : Host.Outcome State Fault Refusal := finish s (runCommand s k 0x0505 (exactly 10) securePoint)

/-! ### RESTORE (16 R475) -/

/-- An image, read back. -/
def imgField (img : List Byte) (off lo len : Nat) : Nat := field (ofBytes ((img.drop off).take 64)) lo len
def imgNsec (img : List Byte) : Nat := field (ofBytes ((img.drop 16).take 2)) 0 16
def imgStep (img : List Byte) : Nat := ofBytes ((img.drop 8).take 6)
def imgSections (img : List Byte) : List Section :=
  (List.range (imgNsec img)).map (fun i =>
    let f (lo len : Nat) : Nat := imgField img (128 + 64 * i) lo len
    { kind := f 0 4, set := BitVec.ofNat 16 (f 16 16), off := f 32 48, len := f 80 48, dig := BitVec.ofNat 256 (f 256 256) })
def imgBody (img : List Byte) (e : Section) : List Byte := (img.drop e.off).take e.len

/-- Bytes of an image that are known to be needed. -/
def imgNeed (img : List Byte) : Nat :=
  if img.length < 128 then 128
  else if img.length < 128 + 64 * imgNsec img then 128 + 64 * imgNsec img
  else (imgSections img).foldl (fun n e => max n (e.off + e.len)) (128 + 64 * imgNsec img)

/-- Whether an image is a complete point of an identifier, of this module, whose digests check. -/
def imgSound (s : State) (id : Word) (img : List Byte) : Bool :=
  ofBytes (img.take 8) == id.toNat && id.toNat / 2 ^ 48 == (ownModule s).toNat && bitOf (ofBytes ((img.drop 14).take 1)) 0
  && Config.digest 0 ((img.drop 128).take (64 * imgNsec img)) == BitVec.ofNat 256 (ofBytes ((img.drop 20).take 32))
  && (imgSections img).all (fun e => (imgBody img e).length == e.len && Config.digest 0 (imgBody img e) == e.dig)

/-- Write bytes one region after another. -/
def spread (s : State) : List (Nat × Nat) → List Byte → State
  | [], _ => s
  | (a, n) :: t, d => spread (writeRange s a (d.take n) false) t (d.drop n)

def restoreShards (s : State) (d : Nat) (b : List Byte) : State :=
  spread s ((localShards s d).flatMap (fun e => [(srMaster e.2, masterSize d e.2), (srState e.2, stateSize d e.2)])) b

def restoreBales (s : State) (d st : Nat) (b : List Byte) : State :=
  let s := writeRange s (sdBrec d) (b.take 64) false
  match baleArray s (sdBrec d) with
  | some a => writeRange s (bankAddr a (st + 1)) ((b.drop 64).take (bankSize a)) false
  | none => s

/-- Journals stand at the point's step, phase 3, with sig = 1. -/
def restoreJournals (s : State) (d st : Nat) (b : List Byte) : State :=
  each ((localShards s d).zipIdx) (fun s e =>
    let j := ofBytes ((b.drop (64 * e.2)).take 64)
    putJournal s e.1.2 (setBits (setBits (setBits j 0 48 st) 48 2 3) 52 1 1)) s

def restoreSteps (s : State) (b : List Byte) : State :=
  let regs := savedRegs s
  let word (i : Nat) : Nat := ofBytes ((b.drop (8 * i)).take 8)
  let s := each regs.zipIdx (fun s e => setReg s e.1 (BitVec.ofNat 64 (word e.2))) s
  each (List.finRange 64) (fun s r =>
    seqSet (seqSet s r 0xE00 48 16 (word (regs.length + 2 * r.val))) r 0x1400 0 17 (word (regs.length + 2 * r.val + 1))) s

/-- One section goes to its home. -/
def restoreSection (st : Nat) (img : List Byte) (s : State) (e : Section) : State :=
  let b := imgBody img e
  match e.kind, setDesc s e.set with
  | 1, some d => restoreShards s d b
  | 2, some d => restoreBales s d st b
  | 3, some d => restoreJournals s d st b
  | 4, _ => writeRange s (getF s ldgTable 0 48) (b.take (layerBytes s)) false
  | 5, _ => restoreSteps s b
  | _, _ => s

/-- Restored shards are sound again. -/
def clearSuspect (s : State) (set : BitVec 16) (shard : BitVec 24) (d r : Nat) : State :=
  let s := onUpd s (fun u => { u with
    suspects := u.suspects.filter (fun x => x != (set, shard))
    engines := u.engines.map (fun e => (e.1, { e.2 with
      parked := e.2.parked.filter (fun p => !(p.reason == .suspect && p.run.set == set && p.run.shard == shard)) })) })
  each (homeNames d r) (fun s n => match nameRec s n with
    | some h => putRec s n { h with suspect := false }
    | none => s) s

/-- A regenerate trigger with announce = 1 for an owned shard. -/
def announceShard (s : State) (set : BitVec 16) (shard : BitVec 24) (d r : Nat) : State :=
  let s := clearSuspect s set shard d r
  pushLater s (srEng r) (triggerWord set shard 1 1)

/-- The updated gate of a set is configured open. -/
def openGate (s : State) (d : Nat) : State :=
  match findObj s (sdUgate d) with
  | .error _ => s
  | .ok key =>
    let (p, l) := releaseGate (objOf s key)
    wakeAll (putObj s key { p with isOpen := true, arrivals := 0 }) l

/-- Fetch barrows await a step. -/
def awaitStep (s : State) (st : Nat) : State :=
  onUpd s (fun u => { u with
    fetched := u.fetched.map (fun e => (e.1, st - 1))
    fetches := u.fetches.map (fun e => (e.1, e.2.map (fun f => if f.refresh then f else { f with step := some st, journal := none, asked := 0, data := [] }))) })

/-- Steps 3 to 5 of a restore, from its image. -/
def applyImage (s : State) (k : MbSlot) (id : Word) (img : List Byte) : State :=
  if !imgSound s id img then mbFail s k 0x0B04
  else
    let st := imgStep img
    let s := each (imgSections img) (restoreSection st img) s
    let sets := ownedSets s
    let s := each sets (fun s e => each (localShards s e.2) (fun s x => announceShard s e.1 x.1 e.2 x.2) s) s
    let s := each sets (fun s e => openGate s e.2) (awaitStep s st)
    mbOk (emit s (srcGroom s) 0x0B89 (id.toNat % 2 ^ 48) st) k [(8, st)]

/-- The bytes that came of an image, in order. -/
def gathered (x : RestoreRun) : List Byte :=
  (List.range (ceilDiv x.asked 4096)).flatMap (fun i =>
    ((x.got.filter (fun e => e.1 / 4096 == (x.base + 4096 * i) / 4096 && e.1 ≥ x.base + 4096 * i)).flatMap Prod.snd))

/-- Ask another module for more bytes of an image, in packets from the first not yet asked. -/
def askImage (s : State) (x : RestoreRun) (need : Nat) : State :=
  (chunksOf ((need - x.asked) / 4096 + 1) (x.base + x.asked) (need - x.asked)).foldl (fun s c =>
    match readRemote s .groom x.module c.1 c.2 with
    | (0, s) => s
    | (_, s) => onSvc s (fun v => { v with restore := v.restore.map (fun y => { y with failed := true }) }))
    (onSvc s (fun v => { v with restore := some { x with asked := need } }))

/-- A restore from another module goes on when everything asked for has come. -/
def settleRestore (s : State) : State :=
  match s.svc.restore with
  | none => s
  | some x =>
    if x.failed then mbFail (onSvc s (fun v => { v with restore := none })) x.slot 0x0B04
    else if !(waitingOf s .groom 1).isEmpty then s
    else
      let img := gathered x
      let need := imgNeed img
      if img.length < x.asked then mbFail (onSvc s (fun v => { v with restore := none })) x.slot 0x0B04
      else if x.asked < need then
        let s := askImage s x need
        (match s.svc.restore with
        | some y => if y.failed then mbFail (onSvc s (fun v => { v with restore := none })) y.slot 0x0B04 else s
        | none => s)
      else applyImage (onSvc s (fun v => { v with restore := none })) x.slot x.id img

/-- The image of a point in host memory; its size is read off it. -/
def hostImage (s : State) (a : Nat) : Option (List Byte) :=
  let grow (n : Nat) : Option (List Byte) := (readMem s a n).bind (fun b => if b.2 then none else some b.1)
  ((grow 128).bind (fun h => grow (imgNeed h))).bind (fun t => grow (imgNeed t))

/-- RESTORE. -/
def restore (s : State) (k : MbSlot) (m : MbSt) : State :=
  let id : Word := BitVec.ofNat 64 (mbArg m 0 8)
  let md : ModuleId := BitVec.ofNat 16 (mbArg m 8 2)
  if liveRegions s ≠ [] ∨ s.upd.engines.any (fun e => !e.2.ring.isEmpty) then mbFail s k 0x0A05
  else if s.svc.restore.isSome then mbFail s k 0x0907
  else if md = ownModule s then
    match s.svc.points.find? (fun p => p.id == id && p.module == md) with
    | none => mbFail s k 0x0B04
    | some p => match hostImage s p.target with
      | none => mbFail s k 0x0B04
      | some img => applyImage s k id img
  else settleRestore (onSvc s (fun v => { v with restore := some { slot := k, id := id, module := md, base := partnerPlace id.toNat, asked := 0 } }))

def execRestore (k : MbSlot) (s : State) : Host.Outcome State Fault Refusal := finish s (runCommand s k 0x0506 (exactly 10) restore)

/-! ### Responses of the fabric (12 R358, R370, R372) -/

/-- What waits for a response goes on. -/
def settleResponses (s : State) : State := settlePosted (settleRestore (settlePoint s))

def execReadData (pkt : Packet) (s : State) : Host.Outcome State Fault Refusal := finish s (settleResponses (readData s pkt))

def execWriteAck (pkt : Packet) (s : State) : Host.Outcome State Fault Refusal := finish s (settleResponses (writeAck s pkt))

def execFabricTimeout (tag : BitVec 16) (s : State) : Host.Outcome State Fault Refusal := finish s (settleResponses (fabricTimeout s tag))

def execRouteWaitTimeout (dmod : ModuleId) (s : State) : Host.Outcome State Fault Refusal :=
  finish s (settleResponses (routeWaitTimeout s dmod))

end Sys2Proof.Machine
end

