-- ==== Sys2Proof/Machine/Security.lean ====
section
/-! DEFINITION. Firmware images, the device identity key, unlock tokens and the clearing of secrets (17 R492–R507; 13 R410).
The hash, the signatures and what the fuses hold are external (`Config`). -/

namespace Sys2Proof.Machine

def secStat : Nat := shedReg 0 0x400000

/-- SEC_STAT.status: the last refusal. -/
def refused (s : State) (k : MbSlot) (code : Nat) : State := mbFail (setF s secStat 32 16 code) k code

/-! ### What the fuses and the mask hold (17 R493, R503) -/

def fuseRoot : Nat := Config.factory 4 1 % 2 ^ 256
def fuseDbg : Nat := Config.factory 4 2 % 2 ^ 256
def fuseRevoke : Nat := Config.factory 4 0 % 2 ^ 32
def bootRomDigest : BitVec 256 := BitVec.ofNat 256 (Config.factory 4 4)

/-! ### Firmware images (17 R494, R495) -/

def cut (d : List Byte) (o n : Nat) : List Byte := (d.drop o).take n

/-- The checks of R495, in order: the first that fails gives the reason, 0 when all pass. -/
def imageCheck (s : State) (img : List Byte) : Nat :=
  let header := img.take 256
  let h (lo len : Nat) : Nat := field (ofBytes header) lo len
  let len := h 80 32
  let trailer := img.drop (256 + len)
  let rootKey := cut trailer 0 68
  let cert := cut trailer 68 128
  let certKey := cut cert 8 68
  if img.length < 256 + len + 5836 ∨ (Config.digest 0 rootKey).toNat ≠ fuseRoot then 0x0701
  else if !Config.verifies rootKey cert (cut trailer 196 2820) then 0x0701
  else if bitOf fuseRevoke (h 112 5) ∨ field (ofBytes cert) 0 5 ≠ h 112 5 then 0x0703
  else if !Config.verifies certKey header (cut trailer 3016 2820) then 0x0701
  else if h 72 8 ≠ 0xA2 ∨ h 0 32 ≠ 0x49564E31 then 0x0704
  else if h 64 8 < s.sec.svn then 0x0702
  else if (Config.digest 0 (cut img 256 len)).toNat ≠ h 120 256 then 0x0701
  else 0

/-- What of an image the module reports; its measurement is the digest of its header. -/
def imageHeader (img : List Byte) : Image :=
  let h (lo len : Nat) : Nat := field (ofBytes (img.take 256)) lo len
  { version := BitVec.ofNat 32 (h 32 32), svn := BitVec.ofNat 8 (h 64 8), digest := Config.digest 0 (img.take 256) }

def putSlot (s : State) (b : Bool) (i : Option Image) : State :=
  onSec s (fun x => if b then { x with slot1 := i } else { x with slot0 := i })

/-- FW-STAGE: the slot that is not running takes the image and is verified; a failure leaves it empty (17 R497). -/
def fwStage (s : State) (k : MbSlot) (m : MbSt) : State :=
  let a := mbArg m 0 8
  let n := mbArg m 8 4
  let b := !s.sec.running
  if 2 ^ 48 ≤ a then mbIllegal s k 0
  else if 16777216 + 256 + 5836 < n then mbIllegal s k 8
  else if rangeCode s a n ≠ 0 then mbFail (noteRead s .groom a n) k (rangeCode s a n)
  else
    let s := noteRead s .groom a n
    let img := readRange s a n
    let reason := if poisonRange s a n then 0x0701 else imageCheck s img
    let s := touchRange s a n
    if reason = 0 then mbOk (onSec (putSlot s b (some (imageHeader img))) (fun x => { x with staged := some b })) k [(1, flag b)]
    else
      let s := onSec (putSlot s b none) (fun x => { x with staged := none })
      mbFail (emit s (srcGroom s) 0x0781 (flag b) reason) k 0x0908

def execFwStage (k : MbSlot) (s : State) : Host.Outcome State Fault Refusal := finish s (runCommand s k 0x0B01 (exactly 12) fwStage)

/-- The end of an FW-ACTIVATE that fails, with its event (13 R414). -/
def activateFails (s : State) (k : MbSlot) : State :=
  mbFail (emit s (srcGroom s) 0x0986 (stagedVersion s).toNat 0x0908) k 0x0908

/-- The standby, on the staged image, takes over; the former active groom reloads with it and becomes standby
(13 R410; 17 R496, R497). -/
def activateStaged (s : State) (k : MbSlot) (b standby : Bool) : State :=
  let s := onSec s (fun x => { x with running := b, pref := b, staged := none, runSince := s.time })
  let s := setF s secStat 6 1 (flag b)
  let s := onGroom (setGroom (setGroom s standby .active) (!standby) .standby) (fun g => { g with takeover := false })
  let v := (runningVersion s).toNat
  mbOk (emit (raiseVector s 62) (srcGroom s) 0x0986 v 0) k [(4, v)]

/-- FW-ACTIVATE. Without a standby it is busy; without a staged image there is none to verify. -/
def fwActivate (s : State) (k : MbSlot) (_ : MbSt) : State :=
  if s.groom.a ≠ .standby ∧ s.groom.b ≠ .standby then mbFail s k 0x0907
  else match s.sec.staged with
    | none => activateFails s k
    | some b =>
      if imageRuns s (imageOfSlot s b) then activateStaged s k b (decide (s.groom.b = .standby))
      else activateFails (emit s (srcGroom s) 0x0781 (flag b) (if (imageOfSlot s b).isSome then 0x0702 else 0x0701)) k

def execFwActivate (k : MbSlot) (s : State) : Host.Outcome State Fault Refusal := finish s (runCommand s k 0x0B02 (exactly 0) fwActivate)

/-- The fuse counter advances to the svn of an image that has run for 24 h (17 R498). -/
def svnAdvance (s : State) : State :=
  match imageOfSlot s s.sec.running with
  | none => s
  | some v =>
    let n := min 64 v.svn.toNat
    if s.sec.svn < n ∧ s.sec.runSince + 86400000000000 ≤ s.time then
      emit (onSec s (fun x => { x with svn := n })) (srcGroom s) 0x0782 n v.version.toNat
    else s

def execSvnAdvance (s : State) : Host.Outcome State Fault Refusal := finish s (svnAdvance s)

/-! ### The identity key and attestation (17 R499–R503) -/

/-- The traversal state is rebuilt: ports whose peers are admitted come up (15 R454). Cleared secrets stay cleared. -/
def identityRebuilt (s : State) : State :=
  if secretsCleared s then s else pumpAll (setF s secStat 4 1 1)

def execIdentityRebuilt (s : State) : Host.Outcome State Fault Refusal := finish s (identityRebuilt s)

/-- The digest that measures a slot's image, zeros for none. -/
def imageDigest (s : State) (b : Option Bool) : BitVec 256 :=
  match b with
  | some b => (match imageOfSlot s b with | some i => i.digest | none => 0)
  | none => 0

def fuseBytes (s : State) : List Byte :=
  toBytes 32 fuseRoot ++ toBytes 32 fuseDbg ++ toBytes 4 fuseRevoke ++ toBytes 8 (2 ^ s.sec.svn - 1)
  ++ toBytes 32 (Config.digest 0 identityKey).toNat

/-- Program slots 5 to 7 of MG0. -/
def programBytes (s : State) : List Byte :=
  ([5, 6, 7] : List Nat).flatMap (fun p => (List.range 64).flatMap (fun i => toBytes 8 (getReg s (progReg 0 p i)).toNat))

def measurements (s : State) : List (BitVec 256) :=
  [bootRomDigest, imageDigest s (some s.sec.running), imageDigest s s.sec.staged, Config.digest 0 (fuseBytes s),
   Config.digest 0 (toBytes 2 (getReg s secStat).toNat ++ s.sec.tokens.flatten), Config.digest 0 (programBytes s)]

/-- A report before its signature: nonce, header, measurements, public key. -/
def reportBody (s : State) (nonce : List Byte) (index : Nat) : List Byte :=
  let ms := measurements s
  nonce ++ toBytes 16 serialNumber ++ [0xA2, 0, 0, 0] ++ toBytes 4 s.sec.boot ++ toBytes 4 index
  ++ toBytes 4 (getReg s secStat).toNat ++ [BitVec.ofNat 8 ms.length] ++ List.replicate 63 0
  ++ ms.zipIdx.flatMap (fun e => BitVec.ofNat 8 e.2 :: List.replicate 7 0 ++ toBytes 32 e.1.toNat) ++ identityKey

/-- The name whose frame holds the reports: a name of the loft range that Ivain's task takes with the first one. -/
def reportName (s : State) : Option (Nat × State) :=
  match s.sec.reports with
  | a :: _ => some (a.toNat / segSize, s)
  | [] =>
    let (c, s) := pick s 983040
    match freeRun s 1 (s.homes.table.length + 2) c with
    | none => none
    | some n =>
      match takeFrame s 1 (nameOnly s n 1) with
      | none => none
      | some (f, s) =>
        some (n, putRec s n { tier := 1, pin := true, prot := 2, policy := false, task := 0xFFFF, frame := f
                              age := BitVec.ofNat 16 (homEpoch s (nameManger n)) })

/-- The place of the next report: the first four lie one behind another, then each takes that of the oldest. -/
def reportPlace (s : State) (n : Nat) : Addr :=
  if s.sec.reports.length < 4 then BitVec.ofNat 48 (n * segSize + 4096 * s.sec.reports.length)
  else s.sec.reports.headD 0

/-- ATTEST: an index is used, the report signed and written, and its place returned. -/
def attest (s : State) (k : MbSlot) (m : MbSt) : State :=
  let nonce := mbBytes m 0 32
  if secretsCleared s then refused s k 0x0708
  else if !idReady s then refused s k 0x0706
  else if 2 ^ 20 < s.sec.next + 512 then refused s k 0x0707
  else match reportName s with
    | none => mbFail s k 0x0304
    | some (n, s) =>
      let (i, s) := useIndex s
      let body := reportBody s nonce i
      let a := reportPlace s n
      let d := body ++ signed i body
      let s := onSec s (fun x => { x with reports := (x.reports ++ [a]).drop (x.reports.length - 3) })
      let s := emit (writeMem s .groom a.toNat d false) (srcGroom s) 0x0786 i (ofBytes (nonce.take 6))
      mbOk s k [(8, a.toNat), (4, d.length)]

def execAttest (k : MbSlot) (s : State) : Host.Outcome State Fault Refusal := finish s (runCommand s k 0x0C01 (exactly 32) attest)

/-! ### Test access (17 R504, R505) -/

/-- The unlock event: the state of the TAP, the token's sequence number and the status. -/
def unlockEvent (s : State) (seq status : Nat) : State :=
  emit s (srcGroom s) 0x0783 (tapState s) (seq + status <<< 32)

/-- What a token must satisfy (R505). -/
def tokenValid (s : State) (t : List Byte) : Bool :=
  let num (o n : Nat) : Nat := ofBytes (cut t o n)
  (Config.digest 0 (cut t 64 68)).toNat == fuseDbg && Config.verifies (cut t 64 68) (t.take 132) (cut t 132 2820)
  && num 0 16 == serialNumber && num 16 4 == s.sec.boot
  && (match s.sec.tokenSeq with | none => true | some q => decide (q.toNat < num 20 4)) && decide (num 24 1 ≤ 1)

/-- DEBUG-UNLOCK: scope 0 opens the board state, scope 1 admits SCAN-PREPARE. -/
def debugUnlock (s : State) (k : MbSlot) (m : MbSt) : State :=
  let t := mbBytes m 0 2952
  let seq := ofBytes (cut t 20 4)
  if !tokenValid s t then refused (unlockEvent s seq 0x0705) k 0x0705
  else
    let scope1 := ofBytes (cut t 24 1) == 1
    let s := onSec s (fun x => { x with tokenSeq := some (BitVec.ofNat 32 seq), tokens := x.tokens ++ [t], scope1 := x.scope1 || scope1 })
    let s := satF s secStat 8 8 1
    let s := if scope1 then s else setF s secStat 0 2 1
    mbOk (unlockEvent s seq 0) k []

def execDebugUnlock (k : MbSlot) (s : State) : Host.Outcome State Fault Refusal :=
  finish s (runCommand s k 0x0901 (exactly 2952) debugUnlock)

/-- DEBUG-LOCK. Secrets that were cleared stay so until a cold start. -/
def debugLock (s : State) (k : MbSlot) (_ : MbSt) : State :=
  let s := onSec (setF s secStat 0 2 0) (fun x => { x with scope1 := false })
  mbOk (unlockEvent s 0 0) k []

def execDebugLock (k : MbSlot) (s : State) : Host.Outcome State Fault Refusal := finish s (runCommand s k 0x0903 (exactly 0) debugLock)

/-- SCAN-PREPARE: the key store is zeroised and the seed's path closed, then internal scan opens (17 R506). Repeated
after clearing it clears nothing further. -/
def scanPrepare (s : State) (k : MbSlot) (_ : MbSt) : State :=
  if !s.sec.scope1 then refused s k 0x0709
  else if secretsCleared s then mbOk (setF s secStat 0 2 2) k []
  else
    let s := setF (setF (setF s secStat 2 1 1) secStat 3 1 1) secStat 0 2 2
    let s := onSec s (fun x => { x with tokens := [] })
    mbOk (emit s (srcGroom s) 0x0784 s.sec.boot 0) k []

def execScanPrepare (k : MbSlot) (s : State) : Host.Outcome State Fault Refusal := finish s (runCommand s k 0x0902 (exactly 0) scanPrepare)

end Sys2Proof.Machine
end

