-- ==== Sys2Proof/Machine/Steer.lean ====
section
/-! DEFINITION. Steering units (03 R81–R86): settling the data tokens of an iteration one by one, and closing it. -/

namespace Sys2Proof.Machine

def emittedAt (x : SteerIter) (o : Nat) : Nat := x.emitted.getD o 0

/-- One more token emitted on an output. -/
def bumpAt (x : SteerIter) (o : Nat) : SteerIter :=
  { x with emitted := (List.range 8).map (fun i => emittedAt x i + flag (i = o)) }

def storeRoom (u : UnitSt) (c : Slot) (o n : Nat) : Bool := decide ((outStore u c o).length + n ≤ outCap (if (cfgOf u c).any (fun w => hdrType w == 2) then .sfn else .mem))

/-- What becomes of a data token (03 R81, R83, R85). -/
inductive Steered where
  | wait
  | consume
  | drop (fault : Bool)
  | forward (o : Nat)
  deriving DecidableEq, Repr

/-- The settling of the next data token of an iteration. -/
def steerOf (u : UnitSt) (w : BitVec 4096) (c : Slot) (x : SteerIter) (t : Token) : Steered :=
  if t.void then .consume else
  match x.sels[x.settled]? with
  | none => .wait
  | some b =>
    let o := field b.toNat 0 3
    if field b.toNat 3 4 ≠ 0 then .drop true
    else if bitOf b.toNat 7 then .drop false
    else if !outEn w o then .drop true
    else if emittedAt x o < outGive w o then (if storeRoom u c o 1 then .forward o else .wait)
    else if hdrOvf w && outEn w 7 && decide (emittedAt x 7 < outGive w 7) then
      (if storeRoom u c 7 1 then .forward 7 else .wait)
    else .drop false

/-- The data token of an iteration is settled: it leaves the input store. -/
def settleHead (u : UnitSt) (c : Slot) (x : SteerIter) : UnitSt :=
  let e := (entryOf u c 0 x.tag).getD { tag := x.tag, toks := [] }
  let u := setEntries u c 0 (putEntry (entriesOf u c 0) { e with toks := e.toks.tail })
  { u with steer := putIter u.steer { x with settled := x.settled + 1 } }

/-- Close an iteration whose data and control tokens have all come: outputs are padded with voids (03 R86). -/
def closeIter (s : State) (st : Stall) (site : Site) (w : BitVec 4096) (c : Slot) (x : SteerIter) : State :=
  let u := unitOf s st site
  let short (o : Nat) : Nat := outGive w o - emittedAt x o
  if !((enabledOut w).all (fun o => storeRoom u c o (short o))) then s
  else
    let u := (enabledOut w).foldl (fun u o => pushOut u c o (List.replicate (short o) (voidToken w c x.tag o))) u
    let n := ((enabledOut w).map short).foldl (· + ·) 0
    let u := { u with voids := mupd u.voids 0 c.val (fun k => min (k + n) (2 ^ 32 - 1))
                      steer := u.steer.filter (fun y => !(y.slot == c && y.tag == x.tag)) }
    countFiring (putUnit s st site (releaseTag u c [0] x.tag)) st site c

/-- Settle the next data token of a tag, or close its iteration. -/
def steerForward (s : State) (st : Stall) (site : Site) (tag : BitVec 16) : State :=
  let u := unitOf s st site
  let c := u.active
  if !unitGo s st u c then s else
  match cfgOf u c, iterOf u c tag with
  | some w, some x =>
    if !hdrSteer w then s else
    match (entryOf u c 0 tag).bind (fun e => e.toks.head?) with
    | none => if x.settled = inTake w 0 ∧ ctlNeed w ≤ x.ctl then closeIter s st site w c x else s
    | some t =>
      let done (s : State) : State := if t.sig then applySignal s (.unit st site) t.sref else s
      let drops (u : UnitSt) : UnitSt := { u with drops := mupd u.drops 0 c.val (fun k => min (k + 1) (2 ^ 32 - 1)) }
      match steerOf u w c x t with
      | .wait => s
      | .consume => done (countFiring (putUnit s st site (settleHead u c x)) st site c)
      | .drop fault =>
        let s := countFiring (putUnit s st site (drops (settleHead u c x))) st site c
        let s := if fault then emit s (srcIsland st site) 0x0282 tag.toNat site.val else s
        done s
      | .forward o =>
        let bad := x.bad.getD (x.settled / 64) false
        let t' := { outToken w c tag o with
          payload := t.payload, poison := t.poison || bad, last := t.last, sig := t.sig, sref := t.sref }
        countFiring (putUnit s st site (pushOut (settleHead u c (bumpAt x o)) c o [t'])) st site c
  | _, _ => s

def execSteerForward (st : Stall) (site : Site) (tag : BitVec 16) (s : State) : Host.Outcome State Fault Refusal :=
  finish s (steerForward s st site tag)

end Sys2Proof.Machine
end

