-- ==== Sys2Proof/Machine/Dispatch.lean ====
section
/-! DEFINITION. One arm per command, each one direct call of its meaning. -/

namespace Sys2Proof.Machine

def exec (i : Instr) (s : State) : Host.Outcome State Fault Refusal :=
  match i with
  | .registerWrite x0 x1 x2 => Sys2Proof.Machine.execRegisterWrite x0 x1 x2 s
  | .linkServe x0 x1 x2 x3 => Sys2Proof.Machine.execLinkServe x0 x1 x2 x3 s
  | .tokenArrival x0 x1 x2 x3 x4 => Sys2Proof.Machine.execTokenArrival x0 x1 x2 x3 x4 s
  | .memEntry x0 x1 x2 x3 => Sys2Proof.Machine.execMemEntry x0 x1 x2 x3 s
  | .crossingCrcError x0 x1 x2 => Sys2Proof.Machine.execCrossingCrcError x0 x1 x2 s
  | .spareCrossingTakeover x0 x1 x2 => Sys2Proof.Machine.execSpareCrossingTakeover x0 x1 x2 s
  | .frequencyChange x0 x1 x2 x3 => Sys2Proof.Machine.execFrequencyChange x0 x1 x2 x3 s
  | .unitFire x0 x1 x2 x3 => Sys2Proof.Machine.execUnitFire x0 x1 x2 x3 s
  | .steerForward x0 x1 x2 => Sys2Proof.Machine.execSteerForward x0 x1 x2 s
  | .contextSwitchRequest x0 x1 x2 => Sys2Proof.Machine.execContextSwitchRequest x0 x1 x2 s
  | .unitSwitch x0 x1 => Sys2Proof.Machine.execUnitSwitch x0 x1 s
  | .contextLoad x0 x1 => Sys2Proof.Machine.execContextLoad x0 x1 s
  | .flushOnly x0 x1 => Sys2Proof.Machine.execFlushOnly x0 x1 s
  | .laneOpen x0 x1 x2 => Sys2Proof.Machine.execLaneOpen x0 x1 x2 s
  | .progressWatchExpiry x0 => Sys2Proof.Machine.execProgressWatchExpiry x0 s
  | .extensionRefill x0 x1 x2 x3 x4 => Sys2Proof.Machine.execExtensionRefill x0 x1 x2 x3 x4 s
  | .matIssue x0 x1 x2 => Sys2Proof.Machine.execMatIssue x0 x1 x2 s
  | .tileEnd x0 x1 x2 => Sys2Proof.Machine.execTileEnd x0 x1 x2 s
  | .matRetire x0 x1 => Sys2Proof.Machine.execMatRetire x0 x1 s
  | .matTakeover x0 x1 => Sys2Proof.Machine.execMatTakeover x0 x1 s
  | .statisticsFold x0 x1 => Sys2Proof.Machine.execStatisticsFold x0 x1 s
  | .ldgFold x0 => Sys2Proof.Machine.execLdgFold x0 s
  | .ledgerAdvance => Sys2Proof.Machine.execLedgerAdvance s
  | .prePassReturn x0 x1 => Sys2Proof.Machine.execPrePassReturn x0 x1 s
  | .seqNop x0 => Sys2Proof.Machine.execSeqNop x0 s
  | .seqRun x0 => Sys2Proof.Machine.execSeqRun x0 s
  | .seqWaitsMet x0 => Sys2Proof.Machine.execSeqWaitsMet x0 s
  | .seqDoneMet x0 => Sys2Proof.Machine.execSeqDoneMet x0 s
  | .seqDrain x0 => Sys2Proof.Machine.execSeqDrain x0 s
  | .seqMap x0 => Sys2Proof.Machine.execSeqMap x0 s
  | .mapLoadRetry x0 x1 => Sys2Proof.Machine.execMapLoadRetry x0 x1 s
  | .mapStalled x0 => Sys2Proof.Machine.execMapStalled x0 s
  | .seqAdvance x0 => Sys2Proof.Machine.execSeqAdvance x0 s
  | .seqJump x0 => Sys2Proof.Machine.execSeqJump x0 s
  | .seqEnd x0 => Sys2Proof.Machine.execSeqEnd x0 s
  | .seqCtlGo x0 x1 x2 => Sys2Proof.Machine.execSeqCtlGo x0 x1 x2 s
  | .seqCtlStop x0 x1 x2 => Sys2Proof.Machine.execSeqCtlStop x0 x1 x2 s
  | .sequencerWaitLimit x0 => Sys2Proof.Machine.execSequencerWaitLimit x0 s
  | .claim x0 x1 => Sys2Proof.Machine.execClaim x0 x1 s
  | .claimComplete x0 x1 => Sys2Proof.Machine.execClaimComplete x0 x1 s
  | .triggerPush x0 x1 x2 => Sys2Proof.Machine.execTriggerPush x0 x1 x2 s
  | .updateTrigger x0 x1 => Sys2Proof.Machine.execUpdateTrigger x0 x1 s
  | .blockCommit x0 x1 => Sys2Proof.Machine.execBlockCommit x0 x1 s
  | .normExchange x0 => Sys2Proof.Machine.execNormExchange x0 s
  | .updGnClose => Sys2Proof.Machine.execUpdGnClose s
  | .normWaitTimeout x0 => Sys2Proof.Machine.execNormWaitTimeout x0 s
  | .shardFetch x0 x1 => Sys2Proof.Machine.execShardFetch x0 x1 s
  | .regenerateTrigger x0 x1 => Sys2Proof.Machine.execRegenerateTrigger x0 x1 s
  | .resumeTrigger x0 x1 => Sys2Proof.Machine.execResumeTrigger x0 x1 s
  | .engineStop x0 x1 => Sys2Proof.Machine.execEngineStop x0 x1 s
  | .engineResume x0 x1 => Sys2Proof.Machine.execEngineResume x0 x1 s
  | .engineFault x0 x1 => Sys2Proof.Machine.execEngineFault x0 x1 s
  | .moveUpRetry x0 x1 => Sys2Proof.Machine.execMoveUpRetry x0 x1 s
  | .pinRefill x0 x1 => Sys2Proof.Machine.execPinRefill x0 x1 s
  | .barrowNop x0 => Sys2Proof.Machine.execBarrowNop x0 s
  | .barrowCopy x0 => Sys2Proof.Machine.execBarrowCopy x0 s
  | .barrowGather x0 => Sys2Proof.Machine.execBarrowGather x0 s
  | .barrowScatter x0 => Sys2Proof.Machine.execBarrowScatter x0 s
  | .barrowScatterAdd x0 => Sys2Proof.Machine.execBarrowScatterAdd x0 s
  | .barrowClose x0 => Sys2Proof.Machine.execBarrowClose x0 s
  | .queueTailWrite x0 x1 => Sys2Proof.Machine.execQueueTailWrite x0 x1 s
  | .descriptorFetch x0 => Sys2Proof.Machine.execDescriptorFetch x0 s
  | .tileAccepted x0 => Sys2Proof.Machine.execTileAccepted x0 s
  | .writesLanded x0 => Sys2Proof.Machine.execWritesLanded x0 s
  | .barrowStop x0 => Sys2Proof.Machine.execBarrowStop x0 s
  | .barrowResume x0 => Sys2Proof.Machine.execBarrowResume x0 s
  | .barrowSkip x0 => Sys2Proof.Machine.execBarrowSkip x0 s
  | .barrowFault x0 x1 => Sys2Proof.Machine.execBarrowFault x0 x1 s
  | .memoryAccess x0 => Sys2Proof.Machine.execMemoryAccess x0 s
  | .peerSeekResult x0 x1 x2 x3 x4 => Sys2Proof.Machine.execPeerSeekResult x0 x1 x2 x3 x4 s
  | .segmentCacheMiss x0 x1 => Sys2Proof.Machine.execSegmentCacheMiss x0 x1 s
  | .moveRingRequest x0 => Sys2Proof.Machine.execMoveRingRequest x0 s
  | .moveCutOver x0 x1 => Sys2Proof.Machine.execMoveCutOver x0 x1 s
  | .epochTick x0 => Sys2Proof.Machine.execEpochTick x0 s
  | .ageSweep x0 => Sys2Proof.Machine.execAgeSweep x0 s
  | .patrolScrub x0 x1 x2 => Sys2Proof.Machine.execPatrolScrub x0 x1 x2 s
  | .interfaceLost x0 => Sys2Proof.Machine.execInterfaceLost x0 s
  | .cxlPortFailed x0 => Sys2Proof.Machine.execCxlPortFailed x0 s
  | .slowAccess x0 => Sys2Proof.Machine.execSlowAccess x0 s
  | .windowFill x0 => Sys2Proof.Machine.execWindowFill x0 s
  | .loftWake x0 => Sys2Proof.Machine.execLoftWake x0 s
  | .loftSelfRefresh x0 => Sys2Proof.Machine.execLoftSelfRefresh x0 s
  | .signal x0 x1 => Sys2Proof.Machine.execSignal x0 x1 s
  | .arrive x0 x1 => Sys2Proof.Machine.execArrive x0 x1 s
  | .arriveWait x0 x1 => Sys2Proof.Machine.execArriveWait x0 x1 s
  | .add x0 x1 x2 => Sys2Proof.Machine.execAdd x0 x1 x2 s
  | .sub x0 x1 x2 => Sys2Proof.Machine.execSub x0 x1 x2 s
  | .fetchAdd x0 x1 x2 => Sys2Proof.Machine.execFetchAdd x0 x1 x2 s
  | .waitGe x0 x1 x2 => Sys2Proof.Machine.execWaitGe x0 x1 x2 s
  | .take x0 x1 x2 => Sys2Proof.Machine.execTake x0 x1 x2 s
  | .read x0 x1 => Sys2Proof.Machine.execRead x0 x1 s
  | .waiterWake => Sys2Proof.Machine.execWaiterWake s
  | .waitRetry => Sys2Proof.Machine.execWaitRetry s
  | .flitReceive x0 x1 => Sys2Proof.Machine.execFlitReceive x0 x1 s
  | .ackTimeout x0 => Sys2Proof.Machine.execAckTimeout x0 s
  | .retrainComplete x0 x1 x2 x3 => Sys2Proof.Machine.execRetrainComplete x0 x1 x2 x3 s
  | .portTrainingTimeout x0 => Sys2Proof.Machine.execPortTrainingTimeout x0 s
  | .laneFailure x0 x1 => Sys2Proof.Machine.execLaneFailure x0 x1 s
  | .bootRecordReceive x0 x1 => Sys2Proof.Machine.execBootRecordReceive x0 x1 s
  | .fabricRead x0 => Sys2Proof.Machine.execFabricRead x0 s
  | .fabricWrite x0 => Sys2Proof.Machine.execFabricWrite x0 s
  | .fabricSyncOp x0 => Sys2Proof.Machine.execFabricSyncOp x0 s
  | .readData x0 => Sys2Proof.Machine.execReadData x0 s
  | .writeAck x0 => Sys2Proof.Machine.execWriteAck x0 s
  | .syncReply x0 => Sys2Proof.Machine.execSyncReply x0 s
  | .reductionUp x0 x1 x2 x3 x4 => Sys2Proof.Machine.execReductionUp x0 x1 x2 x3 x4 s
  | .reductionDown x0 x1 x2 x3 => Sys2Proof.Machine.execReductionDown x0 x1 x2 x3 s
  | .linkManagement x0 x1 => Sys2Proof.Machine.execLinkManagement x0 x1 s
  | .takeoverRecord x0 x1 x2 x3 => Sys2Proof.Machine.execTakeoverRecord x0 x1 x2 x3 s
  | .packetForward x0 x1 => Sys2Proof.Machine.execPacketForward x0 x1 s
  | .routeWaitTimeout x0 => Sys2Proof.Machine.execRouteWaitTimeout x0 s
  | .fabricTimeout x0 => Sys2Proof.Machine.execFabricTimeout x0 s
  | .shedWatchExpiry x0 => Sys2Proof.Machine.execShedWatchExpiry x0 s
  | .mailboxPost x0 x1 => Sys2Proof.Machine.execMailboxPost x0 x1 s
  | .controlWindowWrite x0 x1 => Sys2Proof.Machine.execControlWindowWrite x0 x1 s
  | .dataWindowRead x0 x1 => Sys2Proof.Machine.execDataWindowRead x0 x1 s
  | .dataWindowWrite x0 x1 x2 => Sys2Proof.Machine.execDataWindowWrite x0 x1 x2 s
  | .dataWindowReadTimeout x0 => Sys2Proof.Machine.execDataWindowReadTimeout x0 s
  | .hostLinkChange x0 x1 x2 x3 => Sys2Proof.Machine.execHostLinkChange x0 x1 x2 x3 s
  | .functionLevelReset => Sys2Proof.Machine.execFunctionLevelReset s
  | .hotReset => Sys2Proof.Machine.execHotReset s
  | .perstAssert => Sys2Proof.Machine.execPerstAssert s
  | .perstRelease => Sys2Proof.Machine.execPerstRelease s
  | .hostTlpError x0 x1 x2 => Sys2Proof.Machine.execHostTlpError x0 x1 x2 s
  | .groomHeartbeat => Sys2Proof.Machine.execGroomHeartbeat s
  | .lockstepMismatch x0 => Sys2Proof.Machine.execLockstepMismatch x0 s
  | .groomTakeover => Sys2Proof.Machine.execGroomTakeover s
  | .standbyReload x0 => Sys2Proof.Machine.execStandbyReload x0 s
  | .eventRecordEntry => Sys2Proof.Machine.execEventRecordEntry s
  | .eventVectorDelay => Sys2Proof.Machine.execEventVectorDelay s
  | .identify x0 => Sys2Proof.Machine.execIdentify x0 s
  | .status x0 => Sys2Proof.Machine.execStatus x0 s
  | .distance x0 => Sys2Proof.Machine.execDistance x0 s
  | .regRead x0 => Sys2Proof.Machine.execRegRead x0 s
  | .regWrite x0 => Sys2Proof.Machine.execRegWrite x0 s
  | .imageLoad x0 => Sys2Proof.Machine.execImageLoad x0 s
  | .imageOpen x0 => Sys2Proof.Machine.execImageOpen x0 s
  | .seqStart x0 => Sys2Proof.Machine.execSeqStart x0 s
  | .seqStop x0 => Sys2Proof.Machine.execSeqStop x0 s
  | .taskCreate x0 => Sys2Proof.Machine.execTaskCreate x0 s
  | .taskStart x0 => Sys2Proof.Machine.execTaskStart x0 s
  | .taskEnd x0 => Sys2Proof.Machine.execTaskEnd x0 s
  | .taskDestroy x0 => Sys2Proof.Machine.execTaskDestroy x0 s
  | .nameCreate x0 => Sys2Proof.Machine.execNameCreate x0 s
  | .nameDelete x0 => Sys2Proof.Machine.execNameDelete x0 s
  | .move x0 => Sys2Proof.Machine.execMove x0 s
  | .hostwinSet x0 => Sys2Proof.Machine.execHostwinSet x0 s
  | .hostwinClear x0 => Sys2Proof.Machine.execHostwinClear x0 s
  | .loftMode x0 => Sys2Proof.Machine.execLoftMode x0 s
  | .bands x0 => Sys2Proof.Machine.execBands x0 s
  | .tierMode x0 => Sys2Proof.Machine.execTierMode x0 s
  | .quota x0 => Sys2Proof.Machine.execQuota x0 s
  | .spillAreas x0 => Sys2Proof.Machine.execSpillAreas x0 s
  | .setTable x0 => Sys2Proof.Machine.execSetTable x0 s
  | .restoreList x0 => Sys2Proof.Machine.execRestoreList x0 s
  | .regenerate x0 => Sys2Proof.Machine.execRegenerate x0 s
  | .program x0 => Sys2Proof.Machine.execProgram x0 s
  | .securePoint x0 => Sys2Proof.Machine.execSecurePoint x0 s
  | .securePointSetRead x0 => Sys2Proof.Machine.execSecurePointSetRead x0 s
  | .restore x0 => Sys2Proof.Machine.execRestore x0 s
  | .syncConfig x0 => Sys2Proof.Machine.execSyncConfig x0 s
  | .syncFree x0 => Sys2Proof.Machine.execSyncFree x0 s
  | .syncSet x0 => Sys2Proof.Machine.execSyncSet x0 s
  | .fabId x0 => Sys2Proof.Machine.execFabId x0 s
  | .admitPeer x0 => Sys2Proof.Machine.execAdmitPeer x0 s
  | .route x0 => Sys2Proof.Machine.execRoute x0 s
  | .flow x0 => Sys2Proof.Machine.execFlow x0 s
  | .flowSelect x0 => Sys2Proof.Machine.execFlowSelect x0 s
  | .flowFlush x0 => Sys2Proof.Machine.execFlowFlush x0 s
  | .port x0 => Sys2Proof.Machine.execPort x0 s
  | .takeover x0 => Sys2Proof.Machine.execTakeover x0 s
  | .powerState x0 => Sys2Proof.Machine.execPowerState x0 s
  | .powerCap x0 => Sys2Proof.Machine.execPowerCap x0 s
  | .telemetry x0 => Sys2Proof.Machine.execTelemetry x0 s
  | .debugUnlock x0 => Sys2Proof.Machine.execDebugUnlock x0 s
  | .scanPrepare x0 => Sys2Proof.Machine.execScanPrepare x0 s
  | .debugLock x0 => Sys2Proof.Machine.execDebugLock x0 s
  | .bist x0 => Sys2Proof.Machine.execBist x0 s
  | .bistResults x0 => Sys2Proof.Machine.execBistResults x0 s
  | .fuseRepair x0 => Sys2Proof.Machine.execFuseRepair x0 s
  | .retire x0 => Sys2Proof.Machine.execRetire x0 s
  | .fwStage x0 => Sys2Proof.Machine.execFwStage x0 s
  | .fwActivate x0 => Sys2Proof.Machine.execFwActivate x0 s
  | .attest x0 => Sys2Proof.Machine.execAttest x0 s
  | .eventRing x0 => Sys2Proof.Machine.execEventRing x0 s
  | .eventRead x0 => Sys2Proof.Machine.execEventRead x0 s
  | .eventFilter x0 => Sys2Proof.Machine.execEventFilter x0 s
  | .inputWarning x0 x1 => Sys2Proof.Machine.execInputWarning x0 x1 s
  | .inputRecovered x0 => Sys2Proof.Machine.execInputRecovered x0 s
  | .powerFail x0 => Sys2Proof.Machine.execPowerFail x0 s
  | .highInput x0 => Sys2Proof.Machine.execHighInput x0 s
  | .overVoltage x0 => Sys2Proof.Machine.execOverVoltage x0 s
  | .inputRestart x0 => Sys2Proof.Machine.execInputRestart x0 s
  | .brownOut x0 => Sys2Proof.Machine.execBrownOut x0 s
  | .thermalLimit x0 x1 x2 => Sys2Proof.Machine.execThermalLimit x0 x1 x2 s
  | .thermalTrip x0 => Sys2Proof.Machine.execThermalTrip x0 s
  | .overCurrent x0 => Sys2Proof.Machine.execOverCurrent x0 s
  | .powerCapInterval x0 => Sys2Proof.Machine.execPowerCapInterval x0 s
  | .wakeTimer => Sys2Proof.Machine.execWakeTimer s
  | .quiesceTimeout => Sys2Proof.Machine.execQuiesceTimeout s
  | .padRelease x0 => Sys2Proof.Machine.execPadRelease x0 s
  | .dynamicAddressAssignment x0 => Sys2Proof.Machine.execDynamicAddressAssignment x0 s
  | .mctpControl x0 => Sys2Proof.Machine.execMctpControl x0 s
  | .pldmRequest x0 => Sys2Proof.Machine.execPldmRequest x0 s
  | .wake => Sys2Proof.Machine.execWake s
  | .retain => Sys2Proof.Machine.execRetain s
  | .moduleReset x0 => Sys2Proof.Machine.execModuleReset x0 s
  | .identifyLed x0 => Sys2Proof.Machine.execIdentifyLed x0 s
  | .coldStart x0 x1 => Sys2Proof.Machine.execColdStart x0 x1 s
  | .stallLoss x0 x1 => Sys2Proof.Machine.execStallLoss x0 x1 s
  | .rotation => Sys2Proof.Machine.execRotation s
  | .rotationTestDone x0 x1 => Sys2Proof.Machine.execRotationTestDone x0 x1 s
  | .unitAudit x0 x1 x2 x3 => Sys2Proof.Machine.execUnitAudit x0 x1 x2 x3 s
  | .svnAdvance => Sys2Proof.Machine.execSvnAdvance s
  | .identityRebuilt => Sys2Proof.Machine.execIdentityRebuilt s
  | .cxlLinkRetrain x0 => Sys2Proof.Machine.execCxlLinkRetrain x0 s
  | .cxlPortUp x0 x1 x2 x3 x4 => Sys2Proof.Machine.execCxlPortUp x0 x1 x2 x3 x4 s
  | .tapInstruction x0 => Sys2Proof.Machine.execTapInstruction x0 s
  | .controlWindowRead x0 x1 => Sys2Proof.Machine.execControlWindowRead x0 x1 s
  | .configurationRequest x0 x1 x2 => Sys2Proof.Machine.execConfigurationRequest x0 x1 x2 s
  | .recoveryRestart x0 => Sys2Proof.Machine.execRecoveryRestart x0 s
  | .flowExtensionRefill x0 x1 x2 => Sys2Proof.Machine.execFlowExtensionRefill x0 x1 x2 s
  | .selfTestDone x0 x1 => Sys2Proof.Machine.execSelfTestDone x0 x1 s
  | .loftBlockTest x0 x1 => Sys2Proof.Machine.execLoftBlockTest x0 x1 s

end Sys2Proof.Machine
end

