-- ==== Sys2Proof/Safety.lean ====
section
/-! DEFINITION. What statements about a run are made of: the invariant of the event queue, the states without power, how a
mailbox command is found ready and settled, and which commands leave what alone. -/

namespace Sys2Proof.Machine

/-- The input queue of the event log holds at most 4,096 records (13 R403). -/
def QueueBounded (s : State) : Prop := s.host.evq.length ≤ 4096

/-- A command of the mailbox stands at the head of its queue with the groom ready to begin it, and passes the checks that
are made whatever its arguments: its code, argument length and task (13 R400, R404–R406, R411). -/
def CommandReady (s : State) (k : MbSlot) (code : Nat) (len : Nat → Bool) : Prop :=
  poweredUp s = true ∧ mbHead s = some k ∧ mbCode (mbOf s k) = code ∧ mbGate s (mbOf s k) = 0 ∧ len (mbLen (mbOf s k)) = true
  ∧ k ∉ s.host.posted.drop 1

/-- A running sequencer of a region with a home stall has not yet read the entry at its index (06 R185, R204). -/
def SeqReads (s : State) (r : Region) : Prop :=
  seqLive (seqOf s r) = true ∧ (seqOf s r).phase = .waiting ∧ (seqOf s r).entry = none ∧ (regionHome s r).isSome = true
  ∧ seqGet s r 0xC00 0 1 = 1

/-- An operation on an object was done: the object as given, the waiters that it releases on their way, the largest use of the
overflow list kept, the operation counted (11 R339, R341, R350). -/
def syncEnd (s : State) (k : Nat) (o : SyncObj) (released : List (Waiter × BitVec 32)) : State :=
  let u := wakeAll (putObj s k o) released
  let st := keyObjStall k
  satF (if getF u (synReg st 8) 16 11 < ovfUsed u st then setF u (synReg st 8) 16 11 (ovfUsed u st) else u) (synReg st 0x10) 0 48 1

/-- The state in which a mailbox command ends: its effect, then the queue behind it settles (13 R400). -/
def settled (s u : State) : State := ended s (settlePosted u)

/-- `t` differs from `s` in mailbox slots, their queue and journal, pending vectors, messages, and HIF_MBSTAT alone. -/
def OnlyMailbox (s t : State) : Prop :=
  (∃ regs slots posted pba journal out, t = { s with
    regs := regs, host := { s.host with slots := slots, posted := posted, pba := pba }
    groom := { s.groom with journal := journal }, outbox := out })
  ∧ ∀ a, a ≠ shedReg 0 0x200018 → getReg t a = getReg s a

/-- The commands that act on the always-on island, or start and stop the module: they have their effect without power too
(14 R416, R420; 15 R451). -/
def actsOnAlwaysOn : Instr → Bool
  | .perstAssert | .perstRelease | .powerFail _ | .overVoltage _ | .inputRestart _ | .brownOut _ | .coldStart _ _ | .wakeTimer
  | .padRelease _ | .dynamicAddressAssignment _ | .mctpControl _ | .pldmRequest _ | .wake | .retain | .moduleReset _ | .identifyLed _ => true
  | _ => false

/-- Commands that store nothing: they touch no memory, home, object, barrow, engine or claimer. -/
def storesNothing : Instr → Bool
  | .crossingCrcError _ _ _ | .frequencyChange _ _ _ _ | .contextSwitchRequest _ _ _ | .laneOpen _ _ _ | .extensionRefill _ _ _ _ _
  | .matRetire _ _ | .queueTailWrite _ _ | .sequencerWaitLimit _ | .epochTick _ | .normWaitTimeout _ | .hostLinkChange _ _ _ _
  | .hostTlpError _ _ _ | .groomHeartbeat | .lockstepMismatch _ | .standbyReload _
  | .eventVectorDelay | .inputWarning _ _ | .recoveryRestart _ | .inputRecovered _ | .highInput _ | .thermalLimit _ _ _
  | .overCurrent _ | .powerCapInterval _ | .dynamicAddressAssignment _ | .mctpControl _ | .pldmRequest _ | .retain | .identifyLed _
  | .tapInstruction _ | .svnAdvance => true
  | _ => false

/-- Commands on the limits of the islands. -/
def settlesLimits : Instr → Bool
  | .frequencyChange _ _ _ _ | .inputWarning _ _ | .recoveryRestart _ | .inputRecovered _ | .highInput _ | .thermalLimit _ _ _
  | .overCurrent _ | .powerCapInterval _ => true
  | _ => false

/-- Whether one of a register's fields with an access code in question covers a bit. -/
def fieldHas (fs : List Fld) (want : Acc → Bool) (i : Nat) : Bool :=
  fs.any (fun f => want f.acc && decide (f.lo ≤ i ∧ i < f.lo + f.len))

/-- How far a lane stands behind the one served last, in turn. -/
def laneTurn (last lane : Nat) : Nat := (lane + 3 - last % 4) % 4

end Sys2Proof.Machine
end

