-- ==== Sys2Proof/Certificates/Slice0/Obligations.lean ====
section
/-! DEFINITION. The statements for the provers, chapter by chapter of the manual: what the commands do where they have their
effect, the rules of the manual that they follow, what they leave alone, and the invariants of the block. -/

open Sys2Proof Sys2Proof.Machine

/-! ## Registers (00, 01) -/

/-- Derived from 00 R6, 01 R30, 13 R414: a write of a register of the sheds or of the always-on island, in a size and alignment
that is performed, leaves what its access codes say of the bits that it names, and changes nothing else; one of FAB_FSEL selects the flow sets of the
regions whose field it changes, each unless its reserves would exceed rbudget (12 R365). An access of another
size or alignment, or of space without a register, is not performed: a write is discarded, a read gives zeros, and both are
recorded as the access event 0x0981. -/
def Obligations.RegisterAccessesFollowTheirPlace : Prop :=
  (∀ (s : State) (a : Addr) (size : Nat) (data : Word) (p : RegPlace) (fs : List Fld),
    poweredUp s = true → regLegal a.toNat size = true → regPlace (a.toNat / 8 * 8) = some p → placeSpec p = some fs →
    regOff s p = false → p.writable = true → (∀ n o, p ≠ .stall n o) → (∀ m o, p ≠ .manger m o) →
    (∀ x o, p = .shed x o → arr o 0x30 8 4 = none) →
    exec (.registerWrite a size data) s
      = .next (ended s (storeReg s p fs (data.toNat <<< (8 * (a.toNat % 8))) (lanesOf a.toNat size))))
  ∧ (∀ (s : State) (a : Addr) (data : Word) (o i : Nat) (fs : List Fld) (j : Nat),
    poweredUp s = true → a.toNat % 8 = 0 → regPlace a.toNat = some (.shed 0 o) → placeSpec (.shed 0 o) = some fs →
    regOff s (.shed 0 o) = false → arr o 0x30 8 4 = some i → j < 16 →
    (∀ k < 16, field data.toNat (4 * k) 4 ≠ getF s (shedReg 0 o) (4 * k) 4 ↔ k = j) →
    exec (.registerWrite a 8 data) s
      = .next (ended s (flowSelect s (asRegion (16 * i + j)) (field data.toNat (4 * j) 4)).2))
  ∧ ((∀ (s : State) (a : Addr) (size : Nat) (data : Word), poweredUp s = true → regLegal a.toNat size = false →
    exec (.registerWrite a size data) s = .next (ended s (emit s (srcShed 0 0x30) 0x0981 a.toNat (size % 16 + 16))))
  ∧ (∀ (s : State) (a size : Nat), regLegal a size = false →
    registerRead s a size = (List.replicate size 0, emit s (srcShed 0 0x30) 0x0981 a (size % 16)))
  ∧ (∀ a size : Nat, regLegal a size = true → (size = 8 ∧ a % 8 = 0) ∨ (size = 4 ∧ a % 4 = 0)))

/-- Derived from 00 R7, R8: in a register whose fields carry no rule of their own, each bit that a write names: of an RW field,
or of an RWL field before the lock, takes the bit written; of a W1C field is cleared by a 1; any other bit, reserved ones among
them, stays. -/
def Obligations.AccessCodesDecideEachBit : Prop :=
  ∀ (p : RegPlace) (fs : List Fld) (lock : Bool) (old data lanes i : Nat), (∀ w, normReg p w = w) →
    (writtenBits p fs lock old data lanes).testBit i =
      (if fieldHas fs (fun a => a = .rw || (a = .rwl && !lock)) i && lanes.testBit i then data.testBit i
       else old.testBit i && !(fieldHas fs (fun a => a = .w1c) i && lanes.testBit i && data.testBit i))

/-! ## The yard (01, 02, 03) -/

/-- 01 R33: a logical position lies at row p div 7 of the grid, in the order of columns that its row carries, its spare left out;
which stall carries it and which position a stall carries say the same. -/
def Obligations.PositionsFollowMap : Prop :=
  ∀ (s : State) (p : Nat) (st : Stall),
    (lpStall s p = some st ↔ stallLp s st = some p)
    ∧ (lpStall s p = some st → p < 28 ∧ (stallRow st).val = p / 7 ∧ stallState s st = .inService
      ∧ stallCol st = (if p % 7 < (outColumn s (stallRow st)).val then p % 7 else p % 7 + 1))

/-- 02 R42: the queue that a link output serves. -/
def Obligations.LinkOutputServiceRule : Prop :=
  ∀ (u : UnitSt) (d : Dir) (n : Nat) (cs : List (Source × Token)),
    (cs ≠ [] → (chooseServe u d n cs).isSome = true)
    ∧ ∀ src t, chooseServe u d n cs = some (src, t) →
      (src, t) ∈ cs
      ∧ (∀ e ∈ cs, highPriority e.2 = true → highPriority t = true)
      ∧ (∀ e ∈ cs, highPriority e.2 = highPriority t → isPass e.1 = true → isPass src = true)
      ∧ (∀ e ∈ cs, highPriority e.2 = highPriority t → isPass e.1 = isPass src →
          laneTurn (mget u.rr 3 (dirCode d * 2 + flag (highPriority t))) t.ctx.val
            ≤ laneTurn (mget u.rr 3 (dirCode d * 2 + flag (highPriority t))) e.2.ctx.val)

/-- 03 R69: priority follows from the kind, whatever else the header holds. -/
def Obligations.PriorityFollowsKind : Prop :=
  ∀ t : Token, highPriority t = (match t.kind with | .data => false | .control => true | .signal => true | .config => true)

/-- Derived from 02 R40–R44, R52, R53, R67, 03 R74, 14 R437, 16 R469: a link output whose askers can all move serves the one
chosen: it leaves where it waited, its lane is the one served last, a parity error poisons it, counts and is recorded, and each
of its outputs gets it. A token at the head of a unit's own queue whose input has room enters its match entry; without a route
entry its fault is recorded once and it stays. A CRC error on a crossing replays the token up to 3 times, counted; then the
crossing is down; a spare crossing that is free takes its place, shown, recorded and kept as a repair. A voltage-frequency
loop's new step becomes that limit of the island, whose step in force and record of its cause then settle. -/
def Obligations.YardCommandsComplete : Prop :=
  (∀ (s : State) (st : Stall) (site : Site) (d : Dir) (src : Source) (t : Token),
    poweredUp s = true → unitsRun s st = true →
    (∀ e ∈ askers (unitOf s st site) d, movable s st site (unitOf s st site) e = true) →
    serveChoice s st site d (pick s 4096).1 = some (src, t) →
    let ws (k : Fin 8) : List (Nat × Bool) := portWaits s k (pick s 4096).1
    let outs := (tokenOuts (unitOf s st site) t).getD []
    portsGrant s ws st site t outs = true →
    let left : State := updUnit (pick s 4096).2 st site (fun u => servedAt (takeSource u src) t outs)
    exec (.linkServe st site d false) s = .next (ended s (each outs (fun s d => deliver s ws st site t d) left))
    ∧ exec (.linkServe st site d true) s
      = .next (ended s (each outs (fun s d => deliver s ws st site { t with poison := true } d)
          (emit (satF left (stallReg st 0x10) 0 32 1) (srcIsland st site) 0x0382 0 0))))
  ∧ ((∀ (s : State) (st : Stall) (site : Site) (lane : Slot) (high : Bool) (tok : Token) (w : BitVec 4096),
    poweredUp s = true → unitsRun s st = true →
    (queueOf (unitOf s st site) (queueKey .loc lane high)).head? = some tok → cfgOf (unitOf s st site) tok.ctx = some w →
    laneHalted (unitOf s st site) lane = false →
    tok.kind ≠ .signal → (tok.kind = .data → tok.fmt ≠ 0xF) → signalsOnAccept (siteType site) w tok = false →
    matClosed s st site = false → settleArrival (siteType site) (unitOf s st site) w tok = .accept →
    exec (.tokenArrival st site .loc lane high) s
      = .next (ended s (matNote (updUnit (loadHalf s st site w tok).1 st site (fun u =>
          acceptTok (dequeue u (queueKey .loc lane high)) w (loadHalf s st site w tok).2)) st site))
    ∧ (siteType site ≠ .mat → loadHalf s st site w tok = (s, tok)))
  ∧ (∀ (s : State) (st : Stall) (site : Site) (lane : Slot) (high : Bool) (tok : Token),
    poweredUp s = true → unitsRun s st = true →
    (queueOf (unitOf s st site) (queueKey .loc lane high)).head? = some tok → cfgOf (unitOf s st site) tok.ctx = none →
    laneHalted (unitOf s st site) lane = false →
    exec (.tokenArrival st site .loc lane high) s
      = .next (ended s (headFault s st site (queueKey .loc lane high) 0x0281 tok.route.toNat (site.val + lane.val * 2 ^ 16)))))
  ∧ ((∀ (s : State) (st : Stall) (e : Fin 4) (i : Fin 24), poweredUp s = true → (crossOf s st e i).failed = false →
    (crossOf s st e i).replays < 3 →
    exec (.crossingCrcError st e i) s = .next (ended s (putCross
      (satF (satF s (edgeReg st e) 32 16 1) (edgeReg st e) 48 16 1) st e i
      { crossOf s st e i with replays := (crossOf s st e i).replays + 1 })))
  ∧ (∀ (s : State) (st : Stall) (e : Fin 4) (i : Fin 24), poweredUp s = true → (crossOf s st e i).failed = false →
    3 ≤ (crossOf s st e i).replays →
    ∃ t, exec (.crossingCrcError st e i) s = .next t ∧ (crossOf t st e i).failed = true ∧ getF t (edgeReg st e) i.val 1 = 0
      ∧ getF t (edgeReg st e) 32 16 = min (getF s (edgeReg st e) 32 16 + 1) 0xFFFF)
  ∧ (∀ (s : State) (st : Stall) (e : Fin 4) (i : Fin 24), poweredUp s = true → (crossOf s st e i).failed = true →
    getF s (edgeReg st e) 24 2 < 2 → s.svc.repairs.length < 16384 →
    ∃ t, exec (.spareCrossingTakeover st e i) s = .next t ∧ (crossOf t st e i).failed = false
      ∧ (crossOf t st e i).spare.map Fin.val = some (getF s (edgeReg st e) 24 2)
      ∧ getF t (edgeReg st e) 24 2 = getF s (edgeReg st e) 24 2 + 1 ∧ getF t (edgeReg st e) i.val 1 = 1
      ∧ t.svc.repairs.length = s.svc.repairs.length + 1))
  ∧ (∀ (s : State) (st : Stall) (i : Island) (vf : Fin 32) (droop : Bool), poweredUp s = true →
    exec (.frequencyChange st i vf droop) s
      = .next (ended s (settleIsland s (putLimit s st i { limitOf s st i with vf := asStep vf.val, droop := droop }) st i))
    ∧ (7 ≤ vf.val → ∃ t, exec (.frequencyChange st i vf droop) s = .next t ∧ (limitOf t st i).vf = vf
      ∧ (limitOf t st i).droop = droop ∧ islandStep t st i ≤ vf.val))

/-- Derived from 02 R50, R51, 03 R72, R73, R76, R81, R84, R86, 04 R108, R113, R127, 09 R269: a unit of each type fires for a tag
when its slot is active and configured, its region is not halted, its outputs have room, and the tag is the one that fires now;
a MAT with an instruction latched takes its next operand set. The next data token of a steering unit's iteration is forwarded to
the output that its selector names, or consumed when void; when all have come the iteration closes. The next token of an input's
entry in a MEM's active slot is counted as stored, and a plain data token is written where its access record says. -/
def Obligations.UnitCommandsComplete : Prop :=
  ((∀ (s : State) (st : Stall) (site : Site) (tag : BitVec 16) (ecc : Ecc) (w : BitVec 4096),
    poweredUp s = true → cfgOf (unitOf s st site) (unitOf s st site).active = some w →
    unitGo s st (unitOf s st site) (unitOf s st site).active = true → hdrSteer w = false →
    siteType site = .mem ∨ siteType site = .sfn →
    outputsRoom (siteType site) (unitOf s st site) w (unitOf s st site).active = true →
    (if hdrSource w then sourceReady s (siteType site) (unitOf s st site) w (unitOf s st site).active tag
     else firstTag (siteType site) (unitOf s st site) w (unitOf s st site).active (enabledIn w) == some tag) = true →
    exec (.unitFire st site tag ecc) s = .next (ended s (sourceFired
      (if siteType site = .mem then fireMem s st site w (unitOf s st site).active tag
       else fireSfn s st site w (unitOf s st site).active tag) st site w (unitOf s st site).active tag)))
  ∧ (∀ (s : State) (st : Stall) (site : Site) (tag : BitVec 16) (ecc : Ecc) (w : BitVec 4096),
    poweredUp s = true → cfgOf (unitOf s st site) (unitOf s st site).active = some w →
    unitGo s st (unitOf s st site) (unitOf s st site).active = true → hdrSteer w = false → siteType site = .iou →
    iouRoom s (unitOf s st site) w tag = true → feedDesc s st w tag = none →
    (if hdrSource w then sourceReady s .iou (unitOf s st site) w (unitOf s st site).active tag
     else firstTag .iou (unitOf s st site) w (unitOf s st site).active (enabledIn w) == some tag) = true →
    exec (.unitFire st site tag ecc) s
      = .next (ended s (fireIou s st (siteBarrow site) w (unitOf s st site).active tag)))
  ∧ (∀ (s : State) (st : Stall) (site : Site) (tag : BitVec 16) (ecc : Ecc) (w : BitVec 4096) (d : Desc) (x : Tensor),
    poweredUp s = true → cfgOf (unitOf s st site) (unitOf s st site).active = some w →
    unitGo s st (unitOf s st site) (unitOf s st site).active = true → hdrSteer w = false → siteType site = .iou →
    iouRoom s (unitOf s st site) w tag = true → feedDesc s st w tag = some (d, x) →
    mayOriginate s (unitOf s st site) (unitOf s st site).active tag = true →
    exec (.unitFire st site tag ecc) s = .next (ended s (fireFeed s st site w (unitOf s st site).active tag d x)))
  ∧ (∀ (s : State) (st : Stall) (site : Site) (tag : BitVec 16) (ecc : Ecc) (w : BitVec 4096) (p : MatPos) (q : MatIssue),
    poweredUp s = true → cfgOf (unitOf s st site) (unitOf s st site).active = some w →
    unitGo s st (unitOf s st site) (unitOf s st site).active = true → hdrSteer w = false → siteType site = .mat →
    mfind (unitOf s st site).mat (unitOf s st site).active.val = some p → p.issue = some q → p.tag = tag →
    exec (.unitFire st site tag ecc) s = .next (ended s (matStep s st site w (unitOf s st site).active p q ecc))))
  ∧ ((∀ (s : State) (st : Stall) (site : Site) (tag : BitVec 16) (w : BitVec 4096) (x : SteerIter) (t : Token) (o : Nat),
    poweredUp s = true → unitGo s st (unitOf s st site) (unitOf s st site).active = true →
    cfgOf (unitOf s st site) (unitOf s st site).active = some w → iterOf (unitOf s st site) (unitOf s st site).active tag = some x →
    hdrSteer w = true → (entryOf (unitOf s st site) (unitOf s st site).active 0 tag).bind (fun e => e.toks.head?) = some t →
    steerOf (unitOf s st site) w (unitOf s st site).active x t = .forward o →
    exec (.steerForward st site tag) s = .next (ended s (countFiring (putUnit s st site
      (pushOut (settleHead (unitOf s st site) (unitOf s st site).active (bumpAt x o)) (unitOf s st site).active o
        [{ outToken w (unitOf s st site).active tag o with
           payload := t.payload, poison := t.poison || x.bad.getD (x.settled / 64) false, last := t.last, sig := t.sig, sref := t.sref }]))
      st site (unitOf s st site).active)))
  ∧ (∀ (s : State) (st : Stall) (site : Site) (tag : BitVec 16) (w : BitVec 4096) (x : SteerIter) (t : Token),
    poweredUp s = true → unitGo s st (unitOf s st site) (unitOf s st site).active = true →
    cfgOf (unitOf s st site) (unitOf s st site).active = some w → iterOf (unitOf s st site) (unitOf s st site).active tag = some x →
    hdrSteer w = true → (entryOf (unitOf s st site) (unitOf s st site).active 0 tag).bind (fun e => e.toks.head?) = some t →
    steerOf (unitOf s st site) w (unitOf s st site).active x t = .consume → t.sig = false →
    exec (.steerForward st site tag) s = .next (ended s (countFiring (putUnit s st site
      (settleHead (unitOf s st site) (unitOf s st site).active x)) st site (unitOf s st site).active)))
  ∧ (∀ (s : State) (st : Stall) (site : Site) (tag : BitVec 16) (w : BitVec 4096) (x : SteerIter),
    poweredUp s = true → unitGo s st (unitOf s st site) (unitOf s st site).active = true →
    cfgOf (unitOf s st site) (unitOf s st site).active = some w → iterOf (unitOf s st site) (unitOf s st site).active tag = some x →
    hdrSteer w = true → (entryOf (unitOf s st site) (unitOf s st site).active 0 tag).bind (fun e => e.toks.head?) = none →
    x.settled = inTake w 0 → ctlNeed w ≤ x.ctl →
    exec (.steerForward st site tag) s = .next (ended s (closeIter s st site w (unitOf s st site).active x))))
  ∧ (∀ (s : State) (st : Stall) (site : Site) (i : Fin 8) (tag : BitVec 16) (w : BitVec 4096) (e : MatchEntry) (t : Token) (r : Nat),
    poweredUp s = true → siteType site = .mem → unitGo s st (unitOf s st site) (unitOf s st site).active = true →
    cfgOf (unitOf s st site) (unitOf s st site).active = some w →
    entryOf (unitOf s st site) (unitOf s st site).active i.val tag = some e → hdrSteer w = false →
    e.toks[e.written]? = some t → writeRec w i.val = some r → t.kind = .data → isScale t = false → t.acc = false →
    t.void = false → mrMode r ≠ 1 → t.sig = false →
    exec (.memEntry st site i tag) s = .next (ended s (storeLine
      (putUnit s st site (setEntries (unitOf s st site) (unitOf s st site).active i.val
        (putEntry (entriesOf (unitOf s st site) (unitOf s st site).active i.val) { e with written := e.written + 1 })))
      st (siteIndex site)
      (lineAddr st (siteIndex site) r tag (slotIndex (e.toks.take (e.written + 1))) (lineCount (e.toks.take e.written)))
      t.payload t.live t.poison)))

/-- 03 R85: an output takes at most give[o] data tokens of an iteration. One beyond that is dropped and counted, or under ovf goes
to output 7 while that has capacity, beyond which it is dropped and counted. A selector may name output 7 itself. -/
def Obligations.SteeringRule : Prop :=
  (∀ (u : UnitSt) (w : BitVec 4096) (c : Slot) (x : SteerIter) (t : Token) (o : Nat),
    steerOf u w c x t = .forward o → emittedAt x o < outGive w o)
  ∧ (∀ (u : UnitSt) (w : BitVec 4096) (c : Slot) (x : SteerIter) (t : Token) (b : Byte),
    t.void = false → x.sels[x.settled]? = some b → field b.toNat 3 4 = 0 → bitOf b.toNat 7 = false →
    outEn w (field b.toNat 0 3) = true →
    (emittedAt x (field b.toNat 0 3) < outGive w (field b.toNat 0 3) → storeRoom u c (field b.toNat 0 3) 1 = true →
      steerOf u w c x t = .forward (field b.toNat 0 3))
    ∧ (outGive w (field b.toNat 0 3) ≤ emittedAt x (field b.toNat 0 3) →
      (hdrOvf w = false → steerOf u w c x t = .drop false)
      ∧ (hdrOvf w = true → outEn w 7 = true → emittedAt x 7 < outGive w 7 → storeRoom u c 7 1 = true →
        steerOf u w c x t = .forward 7)
      ∧ (hdrOvf w = true → outEn w 7 = false ∨ outGive w 7 ≤ emittedAt x 7 → steerOf u w c x t = .drop false)))
  ∧ (∀ (s : State) (st : Stall) (site : Site) (tag : BitVec 16) (w : BitVec 4096) (x : SteerIter) (t : Token),
    poweredUp s = true → unitGo s st (unitOf s st site) (unitOf s st site).active = true →
    cfgOf (unitOf s st site) (unitOf s st site).active = some w → iterOf (unitOf s st site) (unitOf s st site).active tag = some x →
    hdrSteer w = true → (entryOf (unitOf s st site) (unitOf s st site).active 0 tag).bind (fun e => e.toks.head?) = some t →
    steerOf (unitOf s st site) w (unitOf s st site).active x t = .drop false → t.sig = false →
    exec (.steerForward st site tag) s = .next (ended s (countFiring (putUnit s st site
      { settleHead (unitOf s st site) (unitOf s st site).active x with
        drops := mupd (settleHead (unitOf s st site) (unitOf s st site).active x).drops 0 (unitOf s st site).active.val
          (fun k => min (k + 1) (2 ^ 32 - 1)) }) st site (unitOf s st site).active)))

/-- Derived from 03 R87–R92, R94–R98, R100: a switch request, a unit's switch, loading a slot image, flushing a lane, opening
it. A region that holds tokens and has not fired for its watch's window: with no waits among its units the slow event is
recorded and the watch is armed again. A completed read of an extension refills its queue. -/
def Obligations.ContextAndWatchCommandsComplete : Prop :=
  ((∀ (s : State) (st : Stall) (r : Region) (c : Slot), poweredUp s = true → rgnHalted s st r = true →
    exec (.contextSwitchRequest st r c) s = .next (ended s (rgnStatus s st r 0x0206)))
  ∧ (∀ (s : State) (st : Stall) (r : Region) (c : Slot), poweredUp s = true → rgnHalted s st r = false →
    rgnLoaded s st r c.val = false → exec (.contextSwitchRequest st r c) s = .next (ended s (rgnStatus s st r 0x0203)))
  ∧ (∀ (s : State) (st : Stall) (r : Region) (c : Slot), poweredUp s = true → rgnHalted s st r = false →
    rgnLoaded s st r c.val = true → (rgnActive s st r ≠ c.val ∨ switchingOf s st r = true) →
    (∀ site ∈ stallUnits s st r, slotRegion (unitOf s st site) c r = true) →
    let u : State := each (stallUnits s st r) (fun s site => updUnit s st site (fun u =>
      { u with pendSwitch := if slotRegion u c r ∧ u.active ≠ c then some c else none })) s
    exec (.contextSwitchRequest st r c) s = .next (ended s
      (if switchLeft u st r then setF u (rgnReg st r) 10 1 1 else switchedTo u st r c)))
  ∧ (∀ (s : State) (st : Stall) (site : Site) (c : Slot), poweredUp s = true → (unitOf s st site).pendSwitch = some c →
    midFiring s st site (unitOf s st site) = false →
    let u : State := putUnit s st site { unitOf s st site with active := c, pendSwitch := none }
    (unitRegion (unitOf s st site) c = none → exec (.unitSwitch st site) s = .next (ended s u))
    ∧ (∀ r, unitRegion (unitOf s st site) c = some r → exec (.unitSwitch st site) s = .next (ended s
      (seqSwitched (if switchLeft u st r then u else switchedTo u st r c) r))))
  ∧ (∀ (s : State) (st : Stall) (r : Region) (c : Slot), poweredUp s = true →
    exec (.laneOpen st r c) s = .next (ended s (setF s (rgnReg st r) (6 + c.val) 1 1)))
  ∧ (∀ (s : State) (st : Stall) (w : Word) (es : List ImageEntry), poweredUp s = true → bitOf w.toNat 16 = true → bitOf w.toNat 13 = false →
    let r := asRegion (field w.toNat 0 6)
    let c : Slot := ⟨field w.toNat 8 2 % 4, by omega⟩
    let u : State := setReg s (ctxReg st) (BitVec.ofNat 64 (field w.toNat 0 6 + field w.toNat 8 2 * 2 ^ 8 + field w.toNat 12 3 * 2 ^ 12
      + getF s (ctxReg st) 32 16 * 2 ^ 32))
    let src := getF u (stallReg st 0x410) 0 48
    rgnLoaded u st r c.val = false → laneSum u st r c = 0 → checkImage u st r c src = .ok es →
    let v : State := setF (setF (writeImage u st r c es) (rgnReg st r) (2 + c.val) 1 1) (rgnReg st r) (6 + c.val) 1 (flag (!bitOf w.toNat 14))
    exec (.contextLoad st w) s = .next (ended s (seqsFill (endHalt (ctxStatus (match loadKey v st r c with
      | some k => onSvc v (fun x => { x with loads := mput x.loads k (BitVec.ofNat 48 src) })
      | none => v) st 0) r))))
  ∧ (∀ (s : State) (st : Stall) (w : Word), poweredUp s = true → bitOf w.toNat 16 = true → bitOf w.toNat 13 = true →
    let r := asRegion (field w.toNat 0 6)
    let c : Slot := ⟨field w.toNat 8 2 % 4, by omega⟩
    let u : State := setReg s (ctxReg st) (BitVec.ofNat 64 (field w.toNat 0 6 + field w.toNat 8 2 * 2 ^ 8 + field w.toNat 12 3 * 2 ^ 12
      + getF s (ctxReg st) 32 16 * 2 ^ 32))
    rgnLoaded u st r c.val = false →
    let v : State := flushLane u st r c
    exec (.flushOnly st w) s = .next (ended s (endHalt (ctxStatus (match loadKey v st r c with
      | some k => onSvc v (fun x => { x with loads := mdel x.loads k })
      | none => v) st 0) r))))
  ∧ ((∀ (s : State) (r : Region) (h : Stall), poweredUp s = true → regionHome s r = some h →
    watchDue s h r ⟨rgnActive s h r % 4, by omega⟩ = true →
    let us := (watched s r).filter (fun k => slotRegion (keyUnit s k) ⟨rgnActive s h r % 4, by omega⟩ r)
    (∀ k ∈ us, waitsOf s r ⟨rgnActive s h r % 4, by omega⟩ k = ([], [])) →
    exec (.progressWatchExpiry r) s = .next (ended s (rearm (watchOutcome (emit s (srcStall h 0x3F) 0x0287
      (keySite ((us.find? (fun k => decide (0 < heldAt s k ⟨rgnActive s h r % 4, by omega⟩))).getD 0)).val 0) h 0x0287) r)))
  ∧ (∀ (s : State) (st : Stall) (site : Site) (d : Dir) (lane : Slot) (high : Bool) (e : Extension), poweredUp s = true →
    extOf (unitOf s st site) (queueKey d lane high) = some e → extCount e ≠ 0 →
    let u := unitOf s st site
    let q := queueKey d lane high
    let n := 4 - (queueOf u q).length
    let x := loadHead s (unitRegion u lane) e
    let left := { x with head := x.head.drop n }
    let v := setQueue u q (queueOf u q ++ x.head.take n)
    exec (.extensionRefill st site d lane high) s = .next (ended s
      (if extCount left = 0 then emit (putUnit s st site { v with exts := mdel v.exts q }) (srcIsland st site) 0x0285 (queueArg site q) 0
       else putUnit s st site { v with exts := mput v.exts q left }))))

/-! ## Matrix units and the ledger (04, 05) -/

/-- Derived from 04 R113, R116–R118, R134, R137, 05 R162, R163, R170, R175: a MAT latches a legal instruction for a tag; at the
end of a tile's last step the tile is counted; a retirement written by hand; a spare takes a retiring MAT's place. A folded
accumulator leaves its stall and is added to its layer's record; LDG_FOLD folds every one of a stall; an advance folds all,
decides each record and steps LDG_STEP by 1; agreed exponents reach the data pass. -/
def Obligations.MatAndLedgerCommandsComplete : Prop :=
  ((∀ (s : State) (st : Stall) (mat : Fin 256) (tag : BitVec 16) (w : BitVec 4096) (i : Nat) (o : MatOps),
    poweredUp s = true → cfgOf (unitOf s st (matSite mat)) (unitOf s st (matSite mat)).active = some w →
    unitGo s st (unitOf s st (matSite mat)) (unitOf s st (matSite mat)).active = true →
    getF s (matReg st mat.val 0) 0 3 ≠ 2 → getF s (matReg st mat.val 0) 0 3 ≠ 3 → getF s (matReg st mat.val 0) 0 3 ≠ 5 →
    (hdrSource w && (mfind (unitOf s st (matSite mat)).mat (unitOf s st (matSite mat)).active.val).isNone) = false →
    issuable (unitOf s st (matSite mat)) w (unitOf s st (matSite mat)).active tag = some i →
    let c := (unitOf s st (matSite mat)).active
    let r := matInstr w i
    recordLegal r = true →
    let s1 : State := each (matDescs r) (fun s d => noteDesc s (.unit st (matSite mat)) d.1)
      (setF (setF s (matReg st mat.val 0) 3 2 c.val) (matReg st mat.val 0) 5 2 i)
    issueCode s1 w r = 0 → matOps s1 r = .ok o →
    let s2 : State := noteLayer (setF s1 (matReg st mat.val 0) 32 16 0) (srcIsland st (matSite mat)) o.c
    tilesOf (latch s2 r o) ≠ 0 →
    exec (.matIssue st mat tag) s = .next (ended s (matNote (matShow (setF (updUnit s2 st (matSite mat)
      (fun u => putPos u c (some { tag := tag, instr := i, issue := some (latch s2 r o) }))) (matReg st mat.val 0) 8 24 0) st mat.val 1)
      st (matSite mat))))
  ∧ (∀ (s : State) (st : Stall) (mat : Fin 256) (ecc : Ecc) (w : BitVec 4096) (p : MatPos) (q : MatIssue),
    poweredUp s = true → cfgOf (unitOf s st (matSite mat)) (unitOf s st (matSite mat)).active = some w →
    mfind (unitOf s st (matSite mat)).mat (unitOf s st (matSite mat)).active.val = some p → p.issue = some q →
    unitGo s st (unitOf s st (matSite mat)) (unitOf s st (matSite mat)).active = true → stepsOf q ≤ p.step → stepsOf q ≠ 0 →
    ∃ t, exec (.tileEnd st mat ecc) s = .next t
      ∧ getF t (matReg st mat.val 0x10) 0 48 = min (getF s (matReg st mat.val 0x10) 0 48 + 1) (2 ^ 48 - 1))
  ∧ (∀ (s : State) (st : Stall) (mat : Fin 256), poweredUp s = true → getF s (matReg st mat.val 0) 0 3 < 3 →
    exec (.matRetire st mat) s = .next (ended s (setF (handRecord s (srcStall st 0x3F)) (matReg st mat.val 0) 0 3 3)))
  ∧ (∀ (s : State) (st : Stall) (mat : Fin 256) (i : Nat) (u : State), poweredUp s = true → getF s (matReg st mat.val 0) 0 3 = 3 →
    tileDone s st (matSite mat) = true → chooseSpare s st (islandOf (matSite mat)).val = (some i, u) →
    exec (.matTakeover st mat) s = .next (ended s (addRepair (emit (setF (setReg u (spareReg st i) (BitVec.ofNat 64
      (mat.val + 2 ^ 8 + (flag (i ≠ (islandOf (matSite mat)).val)) <<< 10 + (min 15 (siteDist (matSite mat) (spareSite i))) <<< 12)))
      (matReg st mat.val 0) 0 3 4) (srcIsland st (matSite mat)) 0x0288 mat.val
      (i + (min 15 (siteDist (matSite mat) (spareSite i))) <<< 4)) 1 st.val ((matSite mat).val + i <<< 10)))))
  ∧ ((∀ (s : State) (st : Stall) (a : Fin 16) (x : StatAcc) (l : Nat), poweredUp s = true →
    mfind s.stats (st.val * 16 + a.val) = some x →
    let u : State := satF { s with stats := mdel s.stats (st.val * 16 + a.val) } (stallReg st 0x140088) 0 32 1
    layerAddr u x.layer = some l → rangeCode u l 256 = 0 →
    exec (.statisticsFold st a) s = .next (ended s (foldInto u l x)))
  ∧ (∀ (s : State) (st : Stall), poweredUp s = true → exec (.ldgFold st) s = .next (ended s (each (stallAccs s st) foldAcc s)))
  ∧ (∀ s : State, poweredUp s = true →
    let s1 : State := setF (setF s (mangerReg 0 0x200018) 32 32 0) (mangerReg 0 0x200018) 16 16 0
    let s2 : State := each ((s1.stats.map Prod.fst).filter (fun k => stallState s1 ⟨k / 16 % 32, by omega⟩ == .inService)) foldAcc s1
    let s3 : State := each (List.range (if bitOf (ldgTbl s2) 60 then field (ldgTbl s2) 48 12 + 1 else 0)) advanceRec s2
    exec .ledgerAdvance s = .next (ended s (addF s3 (mangerReg 0 0x200008) 0 48 1)))
  ∧ (∀ (s : State) (b : BrwId) (exps : List Byte) (j : BrwJob), poweredUp s = true → (brwOf s b).job = some j → j.prepass.isSome = true →
    exec (.prePassReturn b exps) s
      = .next (ended s (updBrw s b (fun x => { x with job := some { j with agreed := some exps, prepass := none } })))))

/-- Derived from 05 R164: the format that a record gets follows from its mode, or from the rates its statistics show against the
thresholds. -/
def Obligations.LedgerFormatRule : Prop :=
  (∀ s mode elems uf4 uf5 st8, (mode = 1 → decide164 s mode elems uf4 uf5 st8 = 5) ∧ (mode = 2 → decide164 s mode elems uf4 uf5 st8 = 4)
    ∧ (mode = 3 → decide164 s mode elems uf4 uf5 st8 = 2))
  ∧ (∀ s elems uf4 uf5 st8,
    overRate st8 elems (BitVec.ofNat 32 (field (getReg s (mangerReg 0 0x200020)).toNat 32 32)) = true →
    decide164 s 0 elems uf4 uf5 st8 = 2)
  ∧ (∀ s elems uf4 uf5 st8,
    overRate st8 elems (BitVec.ofNat 32 (field (getReg s (mangerReg 0 0x200020)).toNat 32 32)) = false →
    withinRate uf4 elems (BitVec.ofNat 32 (field (getReg s (mangerReg 0 0x200020)).toNat 0 32)) = true →
    decide164 s 0 elems uf4 uf5 st8 = 5)
  ∧ (∀ s elems uf4 uf5 st8,
    overRate st8 elems (BitVec.ofNat 32 (field (getReg s (mangerReg 0 0x200020)).toNat 32 32)) = false →
    withinRate uf4 elems (BitVec.ofNat 32 (field (getReg s (mangerReg 0 0x200020)).toNat 0 32)) = false →
    decide164 s 0 elems uf4 uf5 st8
      = if withinRate uf5 elems (BitVec.ofNat 32 (field (getReg s (mangerReg 0 0x200028)).toNat 0 32)) then 4 else 2)

/-! ## Region sequencers (06) -/

/-- Derived from 06 R184, R189: a running sequencer reads the entry at its index with RUN: an entry it cannot read stops it with
status 0x0213, an illegal one with 0x0212; a legal RUN entry has its waits registered and may fill. -/
def Obligations.SequencerReadsEntry : Prop :=
  ∀ (s : State) (r : Region), poweredUp s = true → SeqReads s r →
    ((∀ w, (seqOf s r).ahead ≠ some (seqEntry s r, w)) →
      entryWords s r = readRec s (seqGet s r 0xA00 0 48 + 32 * seqEntry s r) 32)
    ∧ (entryWords s r = none → exec (.seqRun r) s = .next (ended s (seqStop s r 0x0213)))
    ∧ ∀ e : Sched, entryWords s r = some e.toNat →
      let began (metA metB : Bool) : State := readAhead (putSeq s r { seqOf s r with
        entry := some e, since := s.time, counted := s.time, waitEvent := false, batch := batchAt (seqOf s r) e
        metA := metA, metB := metB }) r e
      (schedLegal e = false → exec (.seqRun r) s = .next (ended s (seqStop s r 0x0212)))
      ∧ (schedLegal e = true → seOp e = 1 →
        exec (.seqRun r) s = .next (ended s (seqFill (regWait (regWait (began (seKind e 0 == 0) (seKind e 1 == 0))
          r 0 (seKind e 0) (seObj e 0) (seNa e)) r 1 (seKind e 1) (seObj e 1) (seNa e)) r)))
      ∧ (schedLegal e = true → seOp e = 0 →
        exec (.seqNop r) s = .next (ended s (completeEntry (began true true) r e (seqEntry s r + 1))))

/-- 06 R184: what a wait of a schedule entry does at its object: one participant of a gate arrives and waits; TAKE waits for n and
subtracts it; WAIT-GE waits for n and changes nothing; kind 0 is met at once; a count of 0 makes the entry illegal. -/
def Obligations.SequencerWaitsAsItsKind : Prop :=
  (∀ (s : State) (r : Region) (w : Fin 3) (obj : Sref) (n : Nat), regWait s r w 0 obj n = s)
  ∧ (∀ (s : State) (r : Region) (w : Fin 3) (obj : Sref) (n k : Nat), findObj s obj = .ok k → n < 2 ^ 32 →
    let o := objOf s k
    let a : Agent := .seq r w
    regWait s r w 1 obj n = syncOp s a .arriveWait obj 0
    ∧ (o.kind = .gate → o.latch = false → o.own.length < 16 → o.ovf = [] → o.arrivals.toNat + 1 < o.count.toNat →
      regWait s r w 1 obj n = syncEnd s k { o with arrivals := o.arrivals + 1, own := o.own ++ [{ agent := a, kind := .gate }] } [])
    ∧ (o.kind = .tally → n ≤ o.value.toNat → (∀ y ∈ waiters o, y.kind ≠ .take) →
      regWait s r w 2 obj n = wakeAgent (syncEnd s k { o with value := o.value - BitVec.ofNat 32 n } [])
        { agent := a, result := o.value - BitVec.ofNat 32 n })
    ∧ (o.kind = .tally → o.value.toNat < n → o.own.length < 16 → o.ovf = [] →
      regWait s r w 2 obj n
        = syncEnd s k { o with own := o.own ++ [{ agent := a, kind := .take, n := BitVec.ofNat 32 n }] } [])
    ∧ (o.kind = .tally → n ≤ o.value.toNat →
      regWait s r w 3 obj n = wakeAgent (syncEnd s k o []) { agent := a, result := o.value })
    ∧ (o.kind = .tally → o.value.toNat < n → o.own.length < 16 → o.ovf = [] →
      regWait s r w 3 obj n
        = syncEnd s k { o with own := o.own ++ [{ agent := a, kind := .ge, n := BitVec.ofNat 32 n }] } []))
  ∧ (∀ (s : State) (r : Region) (e : Sched), poweredUp s = true → SeqReads s r →
    entryWords s r = some e.toNat → ((2 ≤ seKind e 0 ∨ 2 ≤ seKind e 1) ∧ seNa e = 0) ∨ (2 ≤ seKind e 2 ∧ seNd e = 0) →
    exec (.seqRun r) s = .next (ended s (seqStop s r 0x0212)))

/-- Derived from 06 R184, R188, R189, R204, 10 R314: completing an entry goes on to the given one: a stop asked for holds the
sequencer there, an index past the table stops it with 0x0212, else it waits there, not yet read. -/
def Obligations.SequencerGoesOn : Prop :=
  ∀ (s : State) (r : Region) (idx : Nat) (e : Sched), seKind e 3 = 0 → seStepEnd e = false → (regionHome s r).isSome = true →
    (seqOf (completeEntry s r e idx) r).entry = none
    ∧ ((seqOf s r).stopReq = true → (seqOf (completeEntry s r e idx) r).phase = .stopped)
    ∧ (seqGet s r 0xA00 48 16 < idx → (seqOf (completeEntry s r e idx) r).phase = .stopped)
    ∧ ((seqOf s r).stopReq = false → idx ≤ seqGet s r 0xA00 48 16 → (seqOf (completeEntry s r e idx) r).phase = .waiting)
    ∧ seqEntry (completeEntry s r e idx) r = idx % 2 ^ 16

/-- Derived from 06 R185–R187, R189, R200, R204: the operations of a sequencer, once their waits are met. MAP loads the image of
every position its record names and retries the occupied stalls; with none left it selects the record's flow set, if any, and
completes; a load refused for 10 ms stops the sequencer with 0x0215. Go starts the sequencer at its start entry in a new step,
or answers 0x0214 while it runs; stop lets it end its entry. A wait beyond the limit is recorded once. -/
def Obligations.SequencerCommandsComplete : Prop :=
  ((∀ (s : State) (r : Region) (e : Sched), poweredUp s = true →
    (waited (readEntry s r 0) r 0 = some e →
      exec (.seqNop r) s = .next (ended s (completeEntry (readEntry s r 0) r e (seqEntry (readEntry s r 0) r + 1))))
    ∧ (waited s r 1 = some e → (seqOf s r).phase = .waiting → slotLoaded (seqCount s r) r (seSlot e) = true →
      let u : State := requestSlot (seqCount s r) r (seSlot e)
      exec (.seqWaitsMet r) s = .next (ended s (seqSwitched (updSeq u r
        (fun q => { q with phase := .running, since := u.time, held := false, back := none, batch := batchRun q e })) r)))
    ∧ (waited s r 1 = some e → (seqOf s r).phase = .waiting → slotLoaded (seqCount s r) r (seSlot e) = false →
      exec (.seqWaitsMet r) s = .next (ended s (seqStop (requestSlot (seqCount s r) r (seSlot e)) r 0x0203)))
    ∧ (waited s r 1 = some e → (seqOf s r).phase = .running → (seqOf s r).asked = true → (seqOf s r).metDone = true →
      exec (.seqDoneMet r) s = .next (ended s (completeEntry s r e (seqEntry s r + 1))))
    ∧ (let u := readEntry s r 2
      waited u r 2 = some e → (seqOf u r).phase = .draining → (seqOf u r).metDone = true →
      (seKind e 2 ≠ 0 ∨ ∀ k ∈ regionClaimers u r, quitAll u k.1 k.2 = true) →
      exec (.seqDrain r) s = .next (ended s (completeEntry u r e (seqEntry u r + 1))))
    ∧ (let u := readEntry s r 4
      waited u r 4 = some e →
      exec (.seqAdvance r) s = .next (ended s
        (let v := if seqGet u r 0x1400 16 1 = 1 then u else seqSet (ledgerAdvance u) r 0x1400 16 1 1
         completeEntry v r e (seqEntry v r + 1))))
    ∧ (waited (readEntry s r 5) r 5 = some e →
      exec (.seqJump r) s = .next (ended s (completeEntry (readEntry s r 5) r e (seArg e % 2 ^ 16))))
    ∧ (waited (readEntry s r 6) r 6 = some e →
      exec (.seqEnd r) s = .next (ended s (seqSet
        (putSeq (leaveFill (completeEntry (readEntry s r 6) r e (seqEntry (readEntry s r 6) r)) r) r {}) r 0xC00 0 1 0)))))
  ∧ ((∀ (s : State) (r : Region) (e : Sched) (m : Nat), poweredUp s = true →
    let u := leaveFill (readEntry s r 3) r
    waited (readEntry s r 3) r 3 = some e → (seqOf (readEntry s r 3) r).phase = .waiting → readRec u (seArg e) 256 = some m →
    (∀ p < 28, bitOf (mapWord m p) 63 = false) →
    exec (.seqMap r) s
      = .next (ended s (mapFinish (updSeq u r (fun q => { q with phase := .mapping, mapSince := u.time, mapLeft := [] })) r e m)))
  ∧ (∀ (s : State) (r : Region) (e : Sched) (m : Nat), (seqOf s r).phase = .mapping → (seqOf s r).mapLeft = [] → bitOf m 1800 = false →
    mapFinish s r e m = completeEntry s r e (seqEntry s r + 1))
  ∧ (∀ (s : State) (r : Region) (st : Stall) (e : Sched) (p m : Nat), poweredUp s = true → (seqOf s r).entry = some e →
    stallLp s st = some p → (seqOf s r).phase = .mapping → st ∈ (seqOf s r).mapLeft → readRec s (seArg e) 256 = some m →
    exec (.mapLoadRetry r st) s
      = .next (ended s (mapFinish (mapSettle (mapLoad s r m p).1 r (mapLoad s r m p).2.1 (mapLoad s r m p).2.2) r e m)))
  ∧ (∀ (s : State) (r : Region), poweredUp s = true → (seqOf s r).phase = .mapping → (seqOf s r).mapLeft ≠ [] →
    (seqOf s r).mapSince + 10000000 ≤ s.time → exec (.mapStalled r) s = .next (ended s (seqStop s r 0x0215))))
  ∧ ((∀ (s : State) (st : Stall) (r : Region) (w : Word), poweredUp s = true → regionHome s r = some st →
    let v := seqFill (setReg s (stallReg st (0xC00 + 8 * r.val)) (w &&& 0xFFFF1F79#64)) r
    (bitOf w.toNat 1 = true → bitOf w.toNat 2 = false → seqLive (seqOf v r) = false →
      exec (.seqCtlGo st r w) s = .next (ended s (seqGo v r)))
    ∧ (bitOf w.toNat 1 = true → bitOf w.toNat 2 = false → seqLive (seqOf v r) = true →
      exec (.seqCtlGo st r w) s = .next (ended s (seqSet v r 0xE00 32 16 0x0214)))
    ∧ (bitOf w.toNat 1 = false → bitOf w.toNat 2 = true → seqLive (seqOf v r) = true →
      exec (.seqCtlStop st r w) s = .next (ended s (updSeq v r (fun q => { q with stopReq := true })))))
  ∧ (∀ (s : State) (r : Region) (e : Sched), poweredUp s = true → (seqOf s r).entry = some e → (seqOf s r).phase = .waiting →
    ((seqOf s r).metA && (seqOf s r).metB) = false → (seqOf s r).waitEvent = false → seqGet s r 0xC00 8 5 ≠ 0 →
    (seqOf s r).since + 2 ^ seqGet s r 0xC00 8 5 * 5 / 9 ≤ s.time →
    exec (.sequencerWaitLimit r) s
      = .next (ended s (emit (updSeq s r (fun q => { q with waitEvent := true })) (regionSource s r) 0x028D (seqEntry s r) r.val))))

/-- Derived from 06 R193, R194: a claimer with a free MAT opens its list if need be and makes one pass over its open pools; its
oldest claim, once met, adds 1 to its pool's done tally. -/
def Obligations.ClaimersComplete : Prop :=
  (∀ (s : State) (st : Stall) (b : Fin 32) (r : Region) (c : Slot) (mat first : Nat), poweredUp s = true →
    claimerRegion s st b = some (r, c) → (unitOf s st (iouSite b)).active = c → unitGo s st (unitOf s st (iouSite b)) c = true →
    ((regionHome s r).any (fun h => rgnActive s h r == c.val)) = true →
    (fedMats s st (iouSite b) c).find? (fun k => !(claimerOf s st b).claims.any (fun y => unitKey st y.site == k && !claimStarted s c st y))
      = some mat → (fedMats s st (iouSite b) c).head? = some first →
    let u := if (claimerOf s st b).opened then s else openList s st b c ((grwOf (keyUnit s first) c).getD 0)
    exec (.claim st b) s
      = .next (ended s (claimFrom u st b c mat ((grwOf (keyUnit s mat) c).getD 0) (claimerOf u st b).pools)))
  ∧ (∀ (s : State) (st : Stall) (b : Fin 32) (c : Slot) (mat instr : Nat) (p : Addr) (rest : List Addr) (w : Nat),
    readRec s p.toNat 128 = some w → tallyValue s (BitVec.ofNat 24 (field w 64 24)) < field w 0 32 →
    tallyValue s (BitVec.ofNat 24 (field w 88 24)) ≤ tallyValue s (BitVec.ofNat 24 (field w 64 24)) →
    claimFrom s st b c mat instr (p :: rest) = claimFrom s st b c mat instr rest)
  ∧ (∀ (s : State) (st : Stall) (b : Fin 32) (r : Region) (c : Slot) (y : Claim) (rest : List Claim) (w : Nat), poweredUp s = true →
    claimerRegion s st b = some (r, c) → (claimerOf s st b).claims = y :: rest → y.met = true →
    (unitOf s st (iouSite b)).active = c → readRec (putClaimer s st b { claimerOf s st b with claims := rest }) y.pool.toNat 128 = some w →
    exec (.claimComplete st b) s = .next (ended s (claimerOp (putClaimer s st b { claimerOf s st b with claims := rest }) st b .add
      (BitVec.ofNat 24 (field w 112 24)) 1)))

/-! ## Update engines (07, 08) -/

/-- Derived from 07 R220, R222, R224, R225, R226, R228, R229, R231, R235, R237, 08 R244, R245: the triggers of an engine that is
ready and idle; a block's commit, the exchanges, fetches and pins, and an engine's stop, resumption and failure. -/
def Obligations.EngineCommandsComplete : Prop :=
  ((∀ (s : State) (m : Mg) (e : Fin 4) (w : Word), poweredUp s = true →
    let x := serving s (engAt m e)
    ((engOf s x).ring.length < 256 →
      exec (.triggerPush m e w) s = .next (ended s (putEng s x { engOf s x with ring := (engOf s x).ring ++ [w] })))
    ∧ (256 ≤ (engOf s x).ring.length →
      exec (.triggerPush m e w) s = .next (ended s (engStatus (setF s (engReg (engAt m e) 8) 6 1 1) (engAt m e) 0x0804))))
  ∧ (∀ (s : State) (m : Mg) (e : Fin 4) (w : Word) (rest : List Word), poweredUp s = true →
    let x := engAt m e
    engReady s x = true → (engOf s x).run = none → (engOf s x).ring = w :: rest →
    ((engOf s x).parked.find? (·.released) = none → (engOf s x).parked.length < 16 → trigKind w = 0 → gradReady s (trigSet w) (trigShard w) (trigStep w) = true →
      exec (.updateTrigger m e) s = .next (ended s (serveTrigger (popRing s x) x (trigSet w) (trigShard w) (trigStep w) false)))
    ∧ (trigKind w = 1 → exec (.regenerateTrigger m e) s
        = .next (ended s (regenerate (popRing s x) x (trigSet w) (trigShard w) (trigStep w % 2 == 1))))
    ∧ ((engOf s x).parked.length < 16 → trigKind w = 2 → exec (.resumeTrigger m e) s
        = .next (ended s (serveTrigger (popRing s x) x (trigSet w) (trigShard w) (trigStep w) true)))))
  ∧ ((∀ (s : State) (m : Mg) (e : Fin 4) (run : UpdRun) (d r j : Nat), poweredUp s = true → (engOf s (engAt m e)).run = some run →
    engReady s (engAt m e) = true → run.begun = true → (engOf s (engAt m e)).moves = [] → checkUpdate s (engAt m e) run.set run.shard = .ok (d, r) →
    journal s r = some j → blockMoving s d r run.cursor = false →
    (blockPoisoned s d r run.cursor = false → exec (.blockCommit m e) s = .next (ended s (commitBlock s (engAt m e) run d r j)))
    ∧ (blockPoisoned s d r run.cursor = true →
      exec (.blockCommit m e) s = .next (ended s (journalLost (setEng s (engAt m e) 0) (engSrc (engAt m e)) run.set run.shard))))
  ∧ (∀ (s : State) (set : BitVec 16) (n : NormSt) (d : Nat) (u : State), poweredUp s = true →
    (takeWake s (.norm set)).2 = u → normOf u set = some n → setDesc u set = some d → n.sent = true → n.met = true →
    n.part = .norm →
    exec (.normExchange set) s = .next (ended s
      (unpark (putNorm u set { n with clipf := some (clipFactor (sdClipc d) (sqrt32 (sumCells u (sdNrec d) (sdNown d) 0))), sent := false })
        (fun p => if p.reason = .norm ∧ p.run.set = set ∧ p.run.step = n.step then some { p.run with stage := 1 } else none))))
  ∧ (∀ s : State, poweredUp s = true →
    let n : NormSt := { step := s.upd.gnStep, part := .norm, gsq := BitVec.ofNat 32 (getF s gnAcc (gnBank s.upd.gnStep) 32), sent := true }
    (s.upd.gn.isSome = true → exec .updGnClose s = .next (ended s
      (onUpd (setF s gnAcc (gnBank s.upd.gnStep) 32 0) (fun u => { u with gnNext := u.gnNext ++ [n] }))))
    ∧ (s.upd.gn = none →
    let u := onUpd (setF s gnAcc (gnBank s.upd.gnStep) 32 0) (fun u => { u with gn := some n })
    let tally : Sref := BitVec.ofNat 24 (getF u (mangerReg 0 0x300030) 0 24)
    let ord := getF u (mangerReg 0 0x300030) 24 12
    let members := getF u (mangerReg 0 0x300028) 48 12 + 1
    let v := each (List.range members) (fun s i => sendCell s .gnorm (BitVec.ofNat 16 ((ownModule u).toNat + 65536 - ord + i))
      (getF u (mangerReg 0 0x300028) 0 48 + 16 * ord) tally n) u
    exec .updGnClose s = .next (ended s (match askNow v .gnorm .take tally (BitVec.ofNat 32 members) with
      | (some 0, z) => gnFinish z
      | (_, z) => z))))
  ∧ (∀ (s : State) (set : BitVec 16) (n : NormSt), poweredUp s = true → set ≠ 0xFFFF → normOf s set = some n → n.sent = true →
    exec (.normWaitTimeout set) s = .next (ended s (emit s (srcManger 0 0x3F) 0x0888 set.toNat 0)))
  ∧ (∀ (s : State) (m : Mg) (b : Fin 4) (f : Fetch), poweredUp s = true → (fetchList s m b).find? (·.met) = some f →
    exec (.shardFetch m b) s = .next (ended s (runFetch s m b f)))
  ∧ (∀ (s : State) (m : Mg) (e : Fin 4), poweredUp s = true →
    (engState s (engAt m e) ≠ 5 → exec (.engineStop m e) s = .next (ended s (setEng s (engAt m e) 4)))
    ∧ (engState s (engAt m e) = 4 → exec (.engineResume m e) s
        = .next (ended s (setEng s (engAt m e) (engShown (engOf s (engAt m e)))))))
  ∧ (∀ (s : State) (m : Mg) (e : Fin 4), poweredUp s = true → engState s (engAt m e) ≠ 5 →
    let x := engAt m e
    let u := each ((List.finRange 16).filter (fun f => f.val / 4 == x.val / 4 && engState (setEng s x 5) f == 5))
      (fun s f => setF s (engReg f 8) 4 2 (heirOf s f)) (setEng s x 5)
    (serving u x ≠ x → exec (.engineFault m e) s = .next (ended s (emit (passShards u x (serving u x)) (engSrc x) 0x0887 x.val 0)))
    ∧ (serving u x = x → exec (.engineFault m e) s = .next (ended s (emit u (engSrc x) 0x0887 x.val 0)))
    ∧ (∀ t : Fin 16, t ≠ x → (engOf u x).run = none → u.upd.trigs = [] → serving u t = t →
      (engOf u t).ring.length + (engOf u x).ring.length ≤ 256 →
      (engOf (passShards u x t) x) = {} ∧ (engOf (passShards u x t) t).ring = (engOf u t).ring ++ (engOf u x).ring
      ∧ (engOf (passShards u x t) t).parked = (engOf u t).parked ++ (engOf u x).parked))
  ∧ (∀ (s : State) (m : Mg) (e : Fin 4) (n : BitVec 27) (h : HomeRec), poweredUp s = true → (engOf s (engAt m e)).moves = [n] →
    nameRec s n.toNat = some h → h.tier = 4 → h.move = 0 →
    exec (.moveUpRetry m e) s
      = .next (ended s (requestMove s { moveOf n.toNat with pinAfter := some true, forEngine := some (engAt m e) } 1).2))
  ∧ (∀ (s : State) (map : Addr) (entry h e d : Nat) (t : Tensor), poweredUp s = true → readRec s map.toNat 64 = some h →
    1 ≤ pmN h → pmN h ≤ 4096 → field h 40 472 = 0 → entry < pmN h → readRec s (map.toNat + 64 + 32 * entry) 32 = some e →
    field e 113 143 = 0 → setDesc s (peSet e) = some d → pinTensor s d e = some t →
    (s.upd.pins.find? (fun p => p.1 == map && p.2.1 == entry) = some (map, entry, true) → batchRuns s (pmRtally h) = false →
      exec (.pinRefill map entry) s = .next (ended s (pinCopy (pinDone s map entry) map entry h e d t)))
    ∧ (s.upd.pins.find? (fun p => p.1 == map && p.2.1 == entry) = none →
      (∀ u, askNow s (.pin map entry) .arriveWait (sdUgate d) 0 = (some 0, u) → batchRuns s (pmRtally h) = false →
        exec (.pinRefill map entry) s = .next (ended s (pinCopy u map entry h e d t)))
      ∧ (∀ u, askNow s (.pin map entry) .arriveWait (sdUgate d) 0 = (some 0, u) → batchRuns s (pmRtally h) = true →
        exec (.pinRefill map entry) s
          = .next (ended s (onUpd u (fun x => { x with pins := x.pins ++ [(map, entry, true)] }))))
      ∧ (∀ u, askNow s (.pin map entry) .arriveWait (sdUgate d) 0 = (none, u) →
        exec (.pinRefill map entry) s
          = .next (ended s (onUpd u (fun x => { x with pins := x.pins ++ [(map, entry, false)] })))))))

/-- Derived from 07 R224, R229, R231, 16 R476: what a trigger of a shard does, by its step and the journal's. -/
def Obligations.TriggerFollowsJournal : Prop :=
  ∀ (s : State) (e : Fin 16) (set : BitVec 16) (shard : BitVec 24) (low d r j : Nat),
    checkUpdate s e set shard = .ok (d, r) → journal s r = some j → isSuspect s set shard = false →
    let st := fullStep (jStep j + 1) low 16
    (st = jStep j + 1 → jPhase j = 3 → pointHolds s set st = false →
      serveTrigger s e set shard low false = beginRun s e set shard st d r)
    ∧ (st = jStep j + 1 → jPhase j = 3 → pointHolds s set st = true →
      serveTrigger s e set shard low false = parkRun s e { set := set, shard := shard, step := st } .point)
    ∧ (st = jStep j → jPhase j < 3 → serveTrigger s e set shard low false = resumeRun s e set shard d r j)
    ∧ (st < jStep j → serveTrigger s e set shard low false = dropDuplicate s e set shard st)
    ∧ (st = jStep j → jPhase j = 3 → serveTrigger s e set shard low false = dropDuplicate s e set shard st)
    ∧ (jStep j + 1 < st → serveTrigger s e set shard low false
        = emit (parkRun s e { set := set, shard := shard, step := st } .early) (engSrc e) 0x088A (setShard set shard) st)

/-! ## Barrows (09) -/

/-- Derived from 09 R265, R266, R267, R270, R271, R274, R276, R277, R279, R281, R285, R288: a barrow whose current descriptor
has met its wait and passes its checks carries out its operation; one that fails them ends in error. A tail write shows; a fetch
takes up to 16 descriptors and starts the first; and the rest of a barrow's commands. -/
def Obligations.BarrowCommandsComplete : Prop :=
  ((∀ (s : State) (b : BrwId) (j : BrwJob), poweredUp s = true → (brwOf s b).job = some j → brwOn s b = true → bdOp j.desc = 0 →
    j.waitMet = true → j.started = false → j.plan = none → bdLegal j.desc (imageOf j) = true → j.badLines = [] → j.dropped = 0 →
    let k : BrwJob := { j with plan := some {}, draw := s.draws, started := true, tiles := 0 }
    (imageOf j = false → exec (.barrowNop b) s = .next (ended s (putJob (putJob { s with draws := s.draws + 1 } b
      { j with plan := some {}, draw := s.draws }) b k)))
    ∧ (imageOf j = true → exec (.barrowNop b) s = .next (ended s (nextInBlock (putJob { s with draws := s.draws + 1 } b
      { j with plan := some {}, draw := s.draws }) b k))))
  ∧ (∀ (s u v w : State) (b : BrwId) (j k0 k' : BrwJob) (m : Move) (src dst : Tensor) (rd : List Nat → Option Elem) (bad : List Nat),
    poweredUp s = true → (brwOf s b).job = some j → brwOn s b = true → j.waitMet = true → j.started = false →
    startStages s b j = .ok (u, k0) →
    let k := startTiles u b k0
    transferOf u b k = some (m, src, dst) →
    let op (t : State) : Prop :=
      (bdOp j.desc = 1 → exec (.barrowCopy b) s = .next (ended s t)) ∧ (bdOp j.desc = 2 → exec (.barrowGather b) s = .next (ended s t))
      ∧ (bdOp j.desc = 3 → exec (.barrowScatter b) s = .next (ended s t))
      ∧ (bdOp j.desc = 4 → exec (.barrowScatterAdd b) s = .next (ended s t))
      ∧ (bdOp j.desc = 5 → exec (.barrowClose b) s = .next (ended s t))
    (k.tiles ≤ k.issued → op (finishReads u b k))
    ∧ (k.issued < k.tiles → k.issued < k.accepted + bdLead k.desc → k.leadSince = none →
      let ps := tilePieces (putJob u b k) k.desc m src dst k.tiles k.issued
      anySource (putJob u b k) b k src (m.need (ps.flatMap Prod.snd)) = .go v rd bad →
      let rs := tileRuns v k m dst rd ps
      heldWrite (putJob u b k) b k dst rs = none →
      let fresh := bad.filter (fun a => !k.badLines.contains a)
      let x := satF v (brwBase b + 0x48) 0 32 fresh.length
      let y := if transposing k.desc then updBrw x b (fillBanks k.desc m.copy rd (m.need (ps.flatMap Prod.snd))) else x
      deliverTile y b { k with badLines := k.badLines ++ fresh } src dst rs = (w, k', 0) → k'.leadSince = none →
      op (issueTiles k.tiles (satF w (brwBase b + (if transposing k'.desc then 0x38 else 0x30)) 0 48 (runBytes dst rs)) b
        { k' with issued := k'.issued + 1, leadSince := none } m src dst)))
  ∧ (∀ (s u : State) (b : BrwId) (j : BrwJob) (m : Move) (src dst : Tensor) (rd : List Nat → Option Elem) (bad : List Nat) (n : Nat),
    j.tiles ≤ j.issued →
    issueTiles n s b j m src dst = finishReads s b j
    ∧ (transferOf s b j = some (m, src, dst) → anySource s b j src (m.need (m.pieces.flatMap Prod.snd)) = .go u rd bad →
      dst.stats = false → bdOp j.desc ≠ 5 → bdSk j.desc ≠ 1 → j.badLines = [] → j.dropped = 0 → imageOf j = false →
      finishReads s b j = putJob (satF s (brwBase b + 0x48) 32 32 0) b j))
  ∧ (∀ (s : State) (b : BrwId) (j : BrwJob), j.firing = none → j.fill = none →
    let u := advanceHead s (servedQueue b j.queue)
    let x := brwOf u b
    completeJob s b j = startNext (showIdle (putBrw u b { x with job := none, stopped := x.stopReq, stopReq := false }) b) b)
  ∧ (∀ (s : State) (b : BrwId) (j : BrwJob) (src dst : Tensor) (rs : List OutRun),
    (bdDk j.desc = 0 → bdOp j.desc ≠ 4 → aliased dst = false → (∀ r ∈ rs, ∀ k ∈ r.idx, (spotOf s dst k).isSome = true) →
      (∀ p ∈ rs.flatMap (runPuts s dst), p.1 = none) →
      let puts := (rs.flatMap (runPuts s dst)).map Prod.snd
      firstRefused s (jobAgent b j) (putLines puts) = none →
      deliverTile s b j src dst rs = ({ writePuts s puts with
        tags := (rs.flatMap (runTags s dst)).foldl (fun m e => mput m e.1 (BitVec.ofNat 8 e.2)) (writePuts s puts).tags }, j, 0))
    ∧ (∀ r l vs, bdDk j.desc = 0 → bdOp j.desc = 4 → rs = [r] → r.poison.any id = false →
      r.idx.map (spotOf s dst) = vs.map some → vs ≠ [] → (∀ q ∈ vs, q.module = none ∧ q.bit / 512 * 64 = l) → vs.length = r.codes.length →
      writeCode s (jobAgent b j) l = 0 →
      deliverTile s b j src dst rs = (satF (addLine s dst.fmt l (r.scale.getD 0) ((vs.zip r.codes).map (fun q => (q.1.bit % 512, q.2))))
        (brwBase b + 0x48) 32 32 0, j, 0))
    ∧ (bdDk j.desc = 2 → (bdOp j.desc = 1 → src.ppol ≠ 1) →
      deliverTile s b j src dst rs = (satF (sendRuns s j.desc false rs dst.bale) (brwBase b + 0x48) 32 32 0, j, 0)))
  ∧ (∀ (s : State) (b : BrwId) (j : BrwJob) (c : Nat), poweredUp s = true → (brwOf s b).job = some j → brwOn s b = true →
    j.waitMet = true → j.started = false → j.plan = none →
    plan (notePlan s (jobAgent b j) j.desc) j.desc (imageOf j) = .error c →
    let t := failJob (notePlan s (jobAgent b j) j.desc) b j c
    (bdOp j.desc = 0 → exec (.barrowNop b) s = .next (ended s t)) ∧ (bdOp j.desc = 1 → exec (.barrowCopy b) s = .next (ended s t))
    ∧ (bdOp j.desc = 2 → exec (.barrowGather b) s = .next (ended s t)) ∧ (bdOp j.desc = 3 → exec (.barrowScatter b) s = .next (ended s t))
    ∧ (bdOp j.desc = 4 → exec (.barrowScatterAdd b) s = .next (ended s t))
    ∧ (bdOp j.desc = 5 → exec (.barrowClose b) s = .next (ended s t))))
  ∧ ((∀ (s : State) (b : BrwId) (tail : Word), poweredUp s = true →
    exec (.queueTailWrite b tail) s = .next (ended s (setF s (brwBase b + 0x08) 0 12 (field tail.toNat 0 12))))
  ∧ (∀ (s : State) (b : BrwId), poweredUp s = true → brwOn s b = true → (brwOf s b).fetched = [] → (brwOf s b).stopped = false →
    getF s (brwBase b + 0x18) 0 1 = 1 →
    let q := nextQueue s b
    let r := servedQueue b q
    let addrs := (List.range (min 16 (fetchable s b q))).map (fun k =>
      getF s (brwBase r) 0 48 + 64 * ((fetchIndex s b q + k) % 2 ^ qLg s r))
    let u := each addrs (fun s a => noteRead s (.barrow b) a 64) s
    exec (.descriptorFetch b) s = .next (ended s (startNext (showFetched
      (putBrw u b { brwOf s b with fetched := addrs.map (descAt u), turn := q }) b) b)))
  ∧ (∀ (s : State) (b : BrwId), (brwOf s b).adopted = [] → (brwOf s b).job = none → (brwOf s b).preempted = none →
    nextQueue s b = none ∧ servedQueue b none = b ∧ fetchIndex s b none = qHead s b % 2 ^ qLg s b)
  ∧ (∀ (s : State) (b : BrwId) (d : Desc) (a : Addr) (t : List (Option Desc × Addr)), (brwOf s b).job = none → (brwOf s b).landing = [] →
    (brwOf s b).stopped = false → brwCode s b ≠ 5 → getF s (brwBase b + 0x18) 0 1 = 1 → (brwOf s b).fills = [] →
    (brwOf s b).adopted = [] → (brwOf s b).fetched = (some d, a) :: t →
    let x := brwOf s b
    let u := showFetched (putBrw s b { x with fetched := t }) b
    let j : BrwJob := { desc := d, addr := a, firing := none, queue := x.turn }
    startNext s b = beginJob u b j
    ∧ (bdWk d = 0 → let k : BrwJob := { j with waitMet := true, waitSince := u.time }
      beginJob u b j = showCur (brwState (putJob u b k) b 2) b a)))
  ∧ ((∀ (s : State) (b : BrwId) (j : BrwJob), poweredUp s = true → (brwOf s b).landing = [] → (brwOf s b).preempted = none →
    (brwOf s b).job = some j → j.accepted < j.issued →
    let j' := { j with accepted := j.accepted + 1 }
    (j.issued = j.tiles → exec (.tileAccepted b) s = .next (ended s (putJob s b j')))
    ∧ (j.issued < j.tiles → brwOn (putJob s b j') b = true →
      exec (.tileAccepted b) s = .next (ended s (goTiles (putJob s b j') b j'))))
  ∧ (∀ (s : State) (b : BrwId) (j : BrwJob) (rest : List BrwJob), poweredUp s = true → (brwOf s b).landing = j :: rest →
    j.accepted < j.issued →
    exec (.tileAccepted b) s
      = .next (ended s (putBrw s b { brwOf s b with landing := { j with accepted := j.accepted + 1 } :: rest })))
  ∧ (∀ (s : State) (b : BrwId) (j : BrwJob), poweredUp s = true → landingJob (brwOf s b) = some j → j.started = true →
    j.tiles ≤ j.issued → j.tiles ≤ j.accepted → (∀ o ∈ s.fab.outstanding, o.kind = 2 → o.tag ∉ j.writes) →
    (j.failed ≠ 0 → exec (.writesLanded b) s = .next (ended s (failJob s b j j.failed.toNat)))
    ∧ (j.failed = 0 → bdOp j.desc ≠ 5 → bdTrig j.desc = false → bdSig j.desc = false →
      exec (.writesLanded b) s = .next (ended s (completeJob s b j)))
    ∧ (j.failed = 0 → bdOp j.desc ≠ 5 → lastShare s j = false → exec (.writesLanded b) s = .next (ended s (completeJob s b j)))
    ∧ (j.failed = 0 → bdOp j.desc ≠ 5 → lastShare s j = true → bdTrig j.desc = false → bdSig j.desc = true →
      (bdDk j.desc ≠ 1 ∨ j.tiles = 0) →
      exec (.writesLanded b) s = .next (ended s (completeJob (applySignal s (jobAgent b j) (bdSref j.desc)) b j)))
    ∧ (∀ u, j.failed = 0 → bdOp j.desc ≠ 5 → lastShare s j = true → bdTrig j.desc = true → bdSig j.desc = false →
      pushTrigger s (bdTeng j.desc) (bdTrigger j.desc) = some u → exec (.writesLanded b) s = .next (ended s (completeJob u b j)))
    ∧ (∀ p, j.failed = 0 → bdOp j.desc = 5 → poolOf s (bdSrc j.desc) = some p → poolQuit s p = true → bdTrig j.desc = false →
      bdSig j.desc = false →
      exec (.writesLanded b) s = .next (ended s (completeJob (clearPool s b (jobAgent b j) p) b j))))
  ∧ (∀ (s : State) (b : BrwId), poweredUp s = true → (brwOf s b).preempted = none →
    (∀ j, (brwOf s b).job = some j → imageOf j = false →
      exec (.barrowStop b) s = .next (ended s (putBrw s b { brwOf s b with stopReq := true })))
    ∧ ((brwOf s b).job = none → (brwOf s b).landing = [] → brwCode s b ≠ 5 →
      exec (.barrowStop b) s = .next (ended s
        (brwState (showFetched (putBrw s b { brwOf s b with fetched := [], stopped := true }) b) b 4))))
  ∧ (∀ (s : State) (b : BrwId), poweredUp s = true → (brwOf s b).stopped = true → firingOn (brwOf s b) = false →
    exec (.barrowResume b) s
      = .next (ended s (descriptorFetch (brwState (putBrw s b { brwOf s b with stopped := false, stopReq := false }) b 0) b))
    ∧ (let u := handRecord s (brwSrc s b)
      let v := advanceHead u (servedQueue b (brwOf u b).turn)
      exec (.barrowSkip b) s = .next (ended s
        (descriptorFetch (brwState (putBrw v b { brwOf v b with stopped := false, stopReq := false }) b 0) b))))
  ∧ (∀ (s : State) (m : Mg) (b : Fin 8), poweredUp s = true →
    let die : Fin 36 := ⟨32 + m.val, by omega⟩
    let f : BrwId := ⟨die, ⟨b.val, by omega⟩⟩
    let t : BrwId := ⟨die, ⟨4 * (b.val / 4) + (b.val + 1) % 4, by omega⟩⟩
    (brwOf s f).job = none → (brwOf s f).adopted = [] →
    let u := dropWaits s (fun a => a == .barrow f)
    let v := updBrw u t (fun y => { y with adopted := y.adopted ++ [(b, false)] })
    let w := showFetched (brwState (putBrw v f {}) f 5) f
    exec (.barrowFault m b) s = .next (ended s (descriptorFetch (emit w (srcManger m (0x28 + b.val)) 0x0185 b.val t.b.val) t))))

/-! ## Accesses, homes and lofts (01, 10, 14, 16) -/

/-- Derived from 01 R36, 10 R296, R303, R306: an access to memory that need not wait: a read admitted everywhere gives the bytes
and their poison, a refused one its status; a write lands, then its signal is applied, and its sender is told. -/
def Obligations.MemoryAccessesComplete : Prop :=
  (∀ (s : State) (x : Access), poweredUp s = true → x.addr.toNat < regSpace → x.write = false →
    rangeWaits s x.addr.toNat x.size = false →
    (rangeCode s x.addr.toNat x.size = 0 → x.corr = [] → x.bad = [] →
      let u := readPoison (touchRange s x.addr.toNat x.size) x
      exec (.memoryAccess x) s
        = .next (ended s (answerRead u x 0 (poisonRange u x.addr.toNat x.size) (readRange u x.addr.toNat x.size))))
    ∧ (rangeCode s x.addr.toNat x.size ≠ 0 → exec (.memoryAccess x) s
        = .next (ended s (answerRead (refuseEvent s x.agent (refusedAt s x.addr.toNat x.size) (rangeCode s x.addr.toNat x.size)) x
            (rangeCode s x.addr.toNat x.size) false []))))
  ∧ (∀ (s : State) (x : Access), poweredUp s = true → x.addr.toNat < regSpace → x.write = true →
    rangeWaits s x.addr.toNat x.data.length = false → (∀ q ∈ pieces x.addr.toNat x.data.length, nameMoving s q.1 = false) →
    (writeRangeCode s x.agent x.addr.toNat x.data.length = 0 → (∀ m t, x.agent ≠ .remote m t) →
      let u := writeRange (countRmw s x.addr.toNat x.data.length) x.addr.toNat x.data x.poison
      exec (.memoryAccess x) s
        = .next (ended s (answerWrite (match x.sref with | some r => applySignal u x.agent r | none => u) x 0)))
    ∧ (writeRangeCode s x.agent x.addr.toNat x.data.length ≠ 0 → exec (.memoryAccess x) s
        = .next (ended s (answerWrite (refuseEvent s x.agent (writeRefusedAt s x.agent x.addr.toNat x.data.length)
            (writeRangeCode s x.agent x.addr.toNat x.data.length)) x (writeRangeCode s x.agent x.addr.toNat x.data.length)))))
  ∧ (∀ (s : State) (x : Access), poweredUp s = true → x.addr.toNat < regSpace →
    rangeWaits s x.addr.toNat (if x.write then x.data.length else x.size) = true →
    exec (.memoryAccess x) s = .next (ended s (onHomes s (fun h => { h with held := h.held ++ [x] }))))

/-- Derived from 00 R4, 01 R28: the bytes that a store puts at a place are read back there, every other byte reads as before,
and memory keeps its one form. -/
def Obligations.StoredBytesReadBack : Prop :=
  ∀ (s : State) (p q : Nat) (d : List Byte),
    ((∀ i (h : i < d.length), readByte (putBytes s p d) (p + i) = d[i])
    ∧ (q < p ∨ p + d.length ≤ q → readByte (putBytes s p d) q = readByte s q))
    ∧ (Memory.wf s.mem = true → Memory.wf (putBytes s p d).mem = true)

/-- Derived from 01 R28, R36, 09 R281: a write within one line of a stall's SRAM stores its bytes there, and leaves every other
byte and everything but the marks of that line as it was. -/
def Obligations.SramWriteLandsWhereAddressed : Prop :=
  ∀ (s : State) (x : Access), poweredUp s = true → x.write = true → x.sref = none → x.data ≠ [] →
    0xF00000000000 ≤ x.addr.toNat → x.addr.toNat % 64 + x.data.length ≤ 64 → (∀ m t, x.agent ≠ .remote m t) →
    locate s x.addr.toNat = .mem x.addr.toNat x.addr.toNat 0 0 → runningMat s x.addr.toNat = none →
    ∃ t, exec (.memoryAccess x) s = .next t
      ∧ (∀ i (h : i < x.data.length), readByte t (x.addr.toNat + i) = x.data[i])
      ∧ (∀ q, q < x.addr.toNat ∨ x.addr.toNat + x.data.length ≤ q → readByte t q = readByte s q)
      ∧ (∀ l, l ≠ x.addr.toNat / 64 → mfind t.poison l = mfind s.poison l ∧ mfind t.tags l = mfind s.tags l)
      ∧ (x.poison = true → (mfind t.poison (x.addr.toNat / 64)).isSome = true)
      ∧ t.regs = s.regs ∧ t.yard = s.yard ∧ t.seqs = s.seqs ∧ t.claimers = s.claimers ∧ t.stats = s.stats ∧ t.upd = s.upd
      ∧ t.barrows = s.barrows ∧ t.homes = s.homes ∧ t.sync = s.sync ∧ t.fab = s.fab ∧ t.groom = s.groom ∧ t.power = s.power
      ∧ t.svc = s.svc ∧ t.sec = s.sec

/-- Derived from 10 R293, R297, R304, R305, R306, R307, R312, R314, R318, R320, 14 R419, 16 R470: masters found at a peer, a
segment cache's miss, the move ring, a cut-over, the epoch and the sweep of old ages; the patrol scrub, losses of interfaces and
ports, an access slower than its tier's bound, a window's fill, and the lofts' self-refresh. -/
def Obligations.HomeCommandsComplete : Prop :=
  ((∀ (s : State) (set : BitVec 16) (shard : BitVec 24) (master state : List Byte) (d r : Nat), poweredUp s = true →
    isSuspect s set shard = true → setDesc s set = some d → shardRec s d shard = some r → mget s.homes.restoreLists [] set.toNat ≠ [] →
    exec (.peerSeekResult set shard false master state) s = .next (ended s (suspectEvent s (engSrc (srEng r)) set shard))
    ∧ (let n := if sdNstate d = 0 then 0 else stateAt d r (sdNstate d - 1) (srLen r) - srState r
      let u := writeRange (writeRange s (srMaster r) (master.take (mBytes d * srLen r)) false) (srState r) (state.take n) false
      exec (.peerSeekResult set shard true master state) s = .next (ended s (shardSound u set shard d r))
      ∧ isSuspect (shardSound u set shard d r) set shard = false))
  ∧ (∀ (s : State) (a : Agent) (name : BitVec 27), poweredUp s = true →
    (nameRec s name.toNat = none →
      exec (.segmentCacheMiss a name) s = .next (ended s (refuseEvent s (cacheOf a) (name.toNat * segSize) 0x0301)))
    ∧ (∀ h, nameRec s name.toNat = some h →
      let old := ((s.homes.caches.find? (fun e => e.1 == cacheOf a)).map Prod.snd).getD []
      exec (.segmentCacheMiss a name) s = .next (ended s (touchName (onHomes s (fun h => { h with
        caches := (cacheOf a, (name.toNat :: old.filter (fun m => m != name.toNat)).take 64) :: h.caches.filter (fun e => e.1 != cacheOf a) }))
        name.toNat))))
  ∧ (∀ (s : State) (m : Mg), poweredUp s = true →
    (m ∈ s.homes.ringMet → exec (.moveRingRequest m) s = .next (ended s (serveRing s m))
      ∧ (let head := getF s (mangerReg m 0x600028) 16 10
        let a := getF s (mangerReg m 0x600018) 0 48 + 64 * head
        ∀ w, readRec s a 64 = some w → bitOf w 0 = true →
        let pin := if bitOf w 4 then some true else if bitOf w 5 then some false else none
        let job (i : Nat) : MoveJob := { moveOf (field w 64 32 + i) with pinAfter := pin, done := BitVec.ofNat 24 (field w 96 24), hasDone := true }
        let u := onHomes s (fun h => { h with ringMet := h.ringMet.filter (fun x => x != m) })
        let v := each (List.range (field w 8 24)) (fun t i => (requestMove t (job i) (field w 1 3)).2) u
        exec (.moveRingRequest m) s
          = .next (ended s (setF (writeRange v a (toBytes 64 (setBits w 0 1 0)) false) (mangerReg m 0x600028) 16 10 (head + 1)))))
    ∧ (m ∉ s.homes.ringMet → agentWaits s (.moveRing m) = false → ∀ u,
      askNow s (.moveRing m) .take (BitVec.ofNat 24 (getF s (mangerReg m 0x600020) 0 24)) 1 = (none, u) →
      exec (.moveRingRequest m) s = .next (ended s u)))
  ∧ (∀ (s : State) (m : Mg) (i : Fin 4) (j : MoveJob) (h : HomeRec), poweredUp s = true → (mangerMoves s m)[i.val]? = some j →
    nameRec s j.name = some h →
    exec (.moveCutOver m i) s = .next (ended s (settleMoves (releaseHostWrites (cutOver s m i.val)))))
  ∧ (∀ (s : State) (m : Mg), poweredUp s = true →
    exec (.epochTick m) s = .next (ended s (addF s (mangerReg m 0x600008) 0 16 1))
    ∧ exec (.ageSweep m) s = .next (ended s (onHomes s (fun h => { h with
        table := h.table.map (fun e => if nameManger e.1 = m then (e.1, sweepAge s m e.2) else e) })))))
  ∧ ((∀ (s : State) (g : Fin 128) (line : BitVec 34) (p : Fin 34) (e : BitVec 16), poweredUp s = true →
    getF s (mangerReg (asMg (g.val / 32)) 0x500010) 0 8 ≠ 0 → getF s (ifcReg g.val) 0 2 = 0 → 0 < line.toNat →
    line.toNat < 245760 * 1024 →
    exec (.patrolScrub g line []) s = .next (ended s s)
    ∧ (e ≠ 0 → (∀ t f o, ifaceFrame s g.val (64 * line.toNat) = some (t, f, o) →
        mfind s.poison (((if t = 2 then tier2Base else 0) + f * segSize + (o * 4096 + 64 * line.toNat % 4096)) / 64) = none) →
      exec (.patrolScrub g line [(p, e)]) s
        = .next (ended s (countRepair (lineCorrected s g.val line.toNat (2 ^ p.val)) g.val line.toNat))))
  ∧ (∀ (s : State) (g : Fin 128), poweredUp s = true → ifaceLost s g.val = false →
    let dom := domainOf s g.val
    let k := (dom.1.filter (ifaceLost s)).length
    let x0 := lossFrames s g.val k
    let x1 := lossFrames s g.val (k + 1)
    exec (.interfaceLost g) s = .next (ended s (lossHandled
      (addRepair (emit (setF s (ifcReg g.val) 0 2 2) (srcIface g.val) 0x0384 g.val (x1 - x0)) 10 (loftDie g.val) g.val) g.val dom.2.1
      (dom.2.1 + dom.2.2) ((List.range (x1 - x0)).map (fun i => dom.2.1 + dom.2.2 - 1 - x0 - i))
      ((List.range 8).any (fun i => ifaceLost s (g.val / 8 * 8 + i))))))
  ∧ (∀ (s : State) (p : Fin 8), poweredUp s = true → cxlState s p.val = 1 ∨ cxlState s p.val = 2 →
    let u := emit (setF s (cxpReg p.val 0) 0 3 3) (srcShed (asShed (p.val / 2)) (0x20 + p.val % 2)) 0x0388 p.val 0
    let v := suspectNames u ((s.homes.table.filter (fun e =>
      (e.2.tier.val == 3 || e.2.tier.val == 4) && e.2.frame / 2097152 == p.val)).map Prod.fst)
    exec (.cxlPortFailed p) s = .next (ended s (releaseHeld (each v.homes.moves (fun s j => restartMove s (destOnPort p.val) j) v))))
  ∧ (∀ (s : State) (x : Access) (pl mk tier name : Nat) (h : HomeRec), poweredUp s = true → locate s x.addr.toNat = .mem pl mk tier name →
    nameRec s name = some h → tier = 3 ∨ tier = 4 → x.write = false →
    let p := h.frame / 2097152
    let u := emit (satF s (cxpReg p 0x10) 16 16 1) (srcShed (asShed (p / 2)) (0x20 + p % 2)) 0x0387 x.addr.toNat tier
    exec (.slowAccess x) s = .next (ended s (answerRead u x 0 true (readRange u x.addr.toNat x.size))))
  ∧ (∀ (s : State) (r : Region) (st : Stall) (h e d : Nat) (u : State), poweredUp s = true → regionHome s r = some st →
    getF s (winReg st r) 48 1 = 1 → readRec s (getF s (winReg st r) 0 48) 64 = some h → whLead h < whW h →
    (winOf s r).issued < whN h → (winOf s r).issued ≤ tallyValue s (whCtally h) + whLead h →
    readRec s (getF s (winReg st r) 0 48 + 64 + 64 * (winOf s r).issued) 64 = some e → weReuse e = false →
    winWait s r e = (true, u) → readRec u (weDesc e) 64 = some d →
    let i := (winOf s r).issued
    exec (.windowFill r) s = .next (ended s (issueFill
      (putWin u r { issued := i + 1, left := mput (winOf u r).left i (winBarrows u r).length })
      (BitVec.ofNat 512 (setBits (setBits d 11 1 1) 208 24 (whFtally h).toNat)) (BitVec.ofNat 48 (weDesc e))
      { boff := fillsBefore u (getF s (winReg st r) 0 48) i % whW h * whStride h, region := r, entry := i } (winBarrows u r))))
  ∧ (∀ (s : State) (l : Fin 16), poweredUp s = true → pstate s = 1 →
    (loftOn s l.val = false → exec (.loftWake l) s = .next (ended s (releaseHeld
      (onHomes (setF s (aonReg 8) (36 + l.val) 1 1) (fun h => { h with awake := mput h.awake l.val s.time })))))
    ∧ ((mfind s.homes.awake l.val).isSome = true → exec (.loftSelfRefresh l) s = .next (ended s
        (onHomes (setF s (aonReg 8) (36 + l.val) 1 0) (fun h => { h with awake := mdel h.awake l.val }))))))

/-- Derived from 10 R305, R306, R307: a cut-over makes a moved name's destination its home and ends the move. -/
def Obligations.CutOverMovesTheName : Prop :=
  ∀ (s : State) (m : Mg) (i : Nat) (j : MoveJob) (h : HomeRec), (mangerMoves s m)[i]? = some j → nameRec s j.name = some h →
    s.homes.moveQueue = [] → j.held = [] → j.forEngine = none → j.hasDone = false →
    ∃ h', nameRec (cutOver s m i) j.name = some h' ∧ h'.tier = h.dtier ∧ h'.frame = h.dframe ∧ h'.move = 0
      ∧ h'.pin = j.pinAfter.getD h.pin

/-! ## Synchronization (11) -/

/-- Derived from 11 R329, R330, R331, R334, R335, R337, R339, R340, R341, R343, R344, R350: what an operation on a gate does: a
counted arrival is the last one when the arrivals reach the count, and the gate is released, its waiters with it; a read gives
the state word. What an operation on a tally does, and the sums that leave its range. A refused operation changes no object; a
release reaches the oldest agent on its way; a refused wait is repeated. -/
def Obligations.SyncOperationsComplete : Prop :=
  (∀ (s : State) (a : Agent) (r : Sref) (k : Nat), poweredUp s = true → findObj s r = .ok k → (objOf s k).kind = .gate →
    let o := objOf s k
    let p : SyncObj := { o with arrivals := o.arrivals + 1, isOpen := o.isOpen && !o.latch }
    let rel : SyncObj := { o with gen := !o.gen, rel := o.rel + 1, arrivals := 0, isOpen := o.latch || o.isOpen, own := [], ovf := [] }
    let gen := BitVec.ofNat 32 (flag (!o.gen))
    (o.arrivals.toNat + 1 < o.count.toNat → exec (.arrive a r) s = .next (ended s (syncEnd s k p []))
      ∧ exec (.signal a r) s = .next (ended s (syncEnd s k p [])))
    ∧ (o.count.toNat ≤ o.arrivals.toNat + 1 →
      exec (.arrive a r) s = .next (ended s (syncEnd s k rel ((waiters o).map (fun w => (w, gen)))))
      ∧ exec (.signal a r) s = .next (ended s (syncEnd s k rel ((waiters o).map (fun w => (w, gen))))))
    ∧ (o.latch = false → o.own.length < 16 → o.ovf = [] → o.arrivals.toNat + 1 < o.count.toNat →
      exec (.arriveWait a r) s = .next (ended s (syncEnd s k
        { o with arrivals := o.arrivals + 1, own := o.own ++ [{ agent := a, kind := .gate }] } [])))
    ∧ (o.latch = true → o.isOpen = true → exec (.arriveWait a r) s
        = .next (ended s (wakeAgent (syncEnd s k o []) { agent := a, result := BitVec.ofNat 32 (flag o.gen) })))
    ∧ exec (.read a r) s = .next (ended s (wakeAgent (syncEnd s k o []) { agent := a, result := BitVec.ofNat 32 (objStateWord o) })))
  ∧ (∀ (s : State) (a : Agent) (r : Sref) (n : BitVec 32) (k : Nat), poweredUp s = true → findObj s r = .ok k → (objOf s k).kind = .tally →
    let o := objOf s k
    let up := serveTally { o with value := o.value + n }
    let one := serveTally { o with value := o.value + 1 }
    let down := serveTally { o with value := o.value - n }
    (o.value.toNat + 1 < 2 ^ 32 → exec (.signal a r) s = .next (ended s (syncEnd s k one.1 one.2)))
    ∧ (o.value.toNat + n.toNat < 2 ^ 32 → exec (.add a r n) s = .next (ended s (syncEnd s k up.1 up.2))
      ∧ exec (.fetchAdd a r n) s = .next (ended s (wakeAgent (syncEnd s k up.1 up.2) { agent := a, result := o.value })))
    ∧ (n.toNat ≤ o.value.toNat → exec (.sub a r n) s = .next (ended s (syncEnd s k down.1 down.2))
      ∧ exec (.waitGe a r n) s = .next (ended s (wakeAgent (syncEnd s k o []) { agent := a, result := o.value }))
      ∧ ((∀ w ∈ waiters o, w.kind ≠ .take) → exec (.take a r n) s
          = .next (ended s (wakeAgent (syncEnd s k { o with value := o.value - n } []) { agent := a, result := o.value - n }))))
    ∧ (o.value.toNat < n.toNat → o.own.length < 16 → o.ovf = [] →
      exec (.waitGe a r n) s = .next (ended s (syncEnd s k { o with own := o.own ++ [{ agent := a, kind := .ge, n := n }] } []))
      ∧ exec (.take a r n) s = .next (ended s (syncEnd s k { o with own := o.own ++ [{ agent := a, kind := .take, n := n }] } [])))
    ∧ exec (.read a r) s = .next (ended s (wakeAgent (syncEnd s k o []) { agent := a, result := o.value })))
  ∧ ((∀ (s : State) (a : Agent) (r : Sref) (n : BitVec 32) (k : Nat), poweredUp s = true → findObj s r = .ok k → hasRet a = true →
    let st := keyObjStall k
    ((objOf s k).kind = .tally → (objOf s k).value.toNat < n.toNat → getF s (synReg st 8) 16 11 ≥ ovfUsed (putObj s k (objOf s k)) st →
      exec (.sub a r n) s = .next (ended s (wakeAgent (emit (satF (wakeAll (putObj s k (objOf s k)) []) (synReg st 0x18) 0 16 1)
        (srcStall st 0x3F) 0x0482 r.toNat n.toNat) { agent := a, status := 0x0403 }))))
  ∧ (∀ (s : State) (w : Wake) (rest : List Wake), poweredUp s = true → s.sync.wakes = w :: rest →
    let u := onSync s (fun y => { y with wakes := rest })
    exec .waiterWake s = .next (ended s (agentWoken u w))
    ∧ (∀ e, w.agent = .engine e → exec .waiterWake s = .next (ended s (send u (.reply w.agent w.status w.result))))
    ∧ (∀ r, w.agent = .seq r 0 → w.status = 0 → seqLive (seqOf s r) = true →
      exec .waiterWake s = .next (ended s (putSeq u r { seqOf s r with metA := true })))
    ∧ (∀ b j, w.agent = .barrow b → w.status = 0 → (brwOf s b).job = some j → imageOf j = false → j.waitMet = false →
      let j' : BrwJob := { j with waitMet := true, failed := 0 }
      exec .waiterWake s = .next (ended s (showJob (updBrw (satF u (brwBase b + 0x50) 0 48 (brwCycles u b (u.time - j.waitSince))) b
        (fun x => updAgentJob x false (fun _ => j'))) b j'))))
  ∧ (∀ (s : State) (w : Retry) (rest : List Retry), poweredUp s = true → s.sync.retries = w :: rest →
    let u := onSync s (fun y => { y with retries := rest })
    exec .waitRetry s = .next (ended s (syncOp u w.agent
      (match w.kind with | .gate => .arriveWait | .ge => .waitGe | .take => .take) w.sref w.n))
    ∧ (∀ k, findObj s w.sref = .ok k → (objOf s k).kind = .tally → w.n.toNat ≤ (objOf s k).value.toNat →
      let o := objOf s k
      (w.kind = .ge → exec .waitRetry s
        = .next (ended s (wakeAgent (syncEnd u k o []) { agent := w.agent, result := o.value })))
      ∧ (w.kind = .take → (∀ x ∈ waiters o, x.kind ≠ .take) → exec .waitRetry s
        = .next (ended s (wakeAgent (syncEnd u k { o with value := o.value - w.n } [])
            { agent := w.agent, result := o.value - w.n }))))))

/-- 11 R336: a tally serves its waiters when its value changes: every WAIT-GE that is met, oldest first; then takes, oldest first,
until one cannot be met, which keeps the younger ones waiting. A new TAKE queues behind an older one that waits; a WAIT-GE never
does. -/
def Obligations.TalliesServedInOrder : Prop :=
  (∀ o : SyncObj,
    let p := (serveTally o).1
    let rel := (serveTally o).2
    let met := fun w : Waiter => w.kind == .ge && decide (w.n.toNat ≤ o.value.toNat)
    let takes := rel.filter (fun e => e.1.kind == .take)
    rel = ((waiters o).filter met).map (fun w => (w, o.value)) ++ takes
    ∧ takes.map Prod.fst ++ (waiters p).filter (fun w => w.kind == .take) = (waiters o).filter (fun w => w.kind == .take)
    ∧ p.value.toNat + (takes.map (fun e => e.1.n.toNat)).foldl (· + ·) 0 = o.value.toNat
    ∧ (∀ w, ((waiters p).filter (fun w => w.kind == .take)).head? = some w → p.value.toNat < w.n.toNat)
    ∧ (waiters p).filter (fun w => w.kind != .take) = (waiters o).filter (fun w => w.kind != .take && !met w))
  ∧ (∀ (o : SyncObj) (a : Agent) (n : BitVec 32) (room : Bool), o.kind = .tally →
    (o.value.toNat + n.toNat < 2 ^ 32 →
      (applyOp o a .add n room).obj = (serveTally { o with value := o.value + n }).1
      ∧ (applyOp o a .add n room).releases = (serveTally { o with value := o.value + n }).2
      ∧ (applyOp o a .fetchAdd n room).obj = (serveTally { o with value := o.value + n }).1
      ∧ (applyOp o a .fetchAdd n room).releases = (serveTally { o with value := o.value + n }).2)
    ∧ (o.value.toNat + 1 < 2 ^ 32 →
      (applyOp o a .signal n room).obj = (serveTally { o with value := o.value + 1 }).1
      ∧ (applyOp o a .signal n room).releases = (serveTally { o with value := o.value + 1 }).2)
    ∧ (n.toNat ≤ o.value.toNat →
      (applyOp o a .sub n room).obj = (serveTally { o with value := o.value - n }).1
      ∧ (applyOp o a .sub n room).releases = (serveTally { o with value := o.value - n }).2
      ∧ applyOp o a .waitGe n room = { obj := o, reply := some o.value }
      ∧ ((∀ w ∈ waiters o, w.kind ≠ .take) →
        applyOp o a .take n room = { obj := { o with value := o.value - n }, reply := some (o.value - n) }))
    ∧ ((∃ w ∈ waiters o, w.kind = .take) → o.own.length < 16 → o.ovf = [] →
      applyOp o a .take n room = { obj := { o with own := o.own ++ [{ agent := a, kind := .take, n := n }] } }))

/-- Derived from 11 R339, R340: no operation makes an object's own list longer than 16 or lets the overflow hold a waiter while
the own list has room; one that finds no room is refused without effect. -/
def Obligations.WaiterListsBounded : Prop :=
  ∀ (o : SyncObj) (a : Agent) (op : SyncOp) (n : BitVec 32) (room : Bool),
    o.own.length ≤ 16 → (o.ovf ≠ [] → o.own.length = 16) →
    let r := applyOp o a op n room
    r.obj.own.length ≤ 16 ∧ (r.obj.ovf ≠ [] → r.obj.own.length = 16)
    ∧ (waiters r.obj).length ≤ (waiters o).length + 1
    ∧ (r.status ≠ 0 → r.obj = o ∧ r.releases = [])

/-- Derived from 11 R330, R331, R339, R341, R349, R350: an operation on an object touches no memory, no unit, no other object;
of the registers only the counts and marks of synchronization. -/
def Obligations.SyncOperationsFrame : Prop :=
  ∀ (s t : State) (a : Agent) (r : Sref) (n : BitVec 32) (i : Instr),
    i = .signal a r ∨ i = .arrive a r ∨ i = .arriveWait a r ∨ i = .add a r n ∨ i = .sub a r n ∨ i = .fetchAdd a r n
      ∨ i = .waitGe a r n ∨ i = .take a r n ∨ i = .read a r → exec i s = .next t →
    (∀ q, readByte t q = readByte s q) ∧ t.poison = s.poison ∧ t.tags = s.tags ∧ t.yard = s.yard ∧ t.seqs = s.seqs
    ∧ t.claimers = s.claimers ∧ t.stats = s.stats ∧ t.upd = s.upd ∧ t.barrows = s.barrows ∧ t.homes = s.homes ∧ t.fab = s.fab
    ∧ t.groom = s.groom ∧ t.power = s.power ∧ t.svc = s.svc ∧ t.sec = s.sec ∧ t.outbox = s.outbox ∧ t.pending = s.pending
    ∧ (∀ k, findObj s r ≠ .ok k → objOf t k = objOf s k)
    ∧ ∀ g, (∀ st o, o < 0x20 → g ≠ synReg st o) → getReg t g = getReg s g

/-! ## The fabric (12) -/

/-- Derived from 12 R353, R355, R356, R357, R362, R366, R367: a port's link: flits intact and not, training, lanes, and the
peer's boot record. -/
def Obligations.PortCommandsComplete : Prop :=
  (∀ (s : State) (p : Port) (f : Flit), poweredUp s = true → portState s p = 2 ∨ portState s p = 3 ∨ portState s p = 4 →
    let u := satF s (portReg p 0x18) 0 48 f.corrected
    (f.fecOk = false → exec (.flitReceive p f) s = .next (ended s (badFlit u p)))
    ∧ (f.fecOk = true → trField f 32 32 = trailerCrc f.body f.trailer.toNat → trField f 22 1 = 0 →
      (BitVec.ofNat 11 (trField f 11 11) - (portOf u p).acked).toNat ≤ (portOf u p).replay.length →
      let v := updPort (takeAck u p (BitVec.ofNat 11 (trField f 11 11))) p
        (fun x => { x with credits := mupd x.credits 0 (trField f 26 2) (· + 4 * trField f 28 4) })
      exec (.flitReceive p f) s = .next (ended s (pumpPort (if trField f 0 11 = ((portOf v p).rxLast + 1).toNat then
        flitBody (putPort v p { portOf v p with rxLast := (portOf v p).rxLast + 1, nak := false }) p f else v) p))))
  ∧ (∀ (s : State) (p : Port), poweredUp s = true → (portOf s p).replay ≠ [] →
    exec (.ackTimeout p) s = .next (ended s (startRetrain s p)))
  ∧ (∀ (s : State) (p : Port) (full slow : Bool) (lanes : List (Fin 4 × Bool)), poweredUp s = true → portState s p ≤ 1 →
    2 ≤ lanes.length →
    let u := setF (setF (updPort s p (fun x => { x with laneMap := if 4 ≤ lanes.length then lanes else lanes.take 2 }))
      (portReg p 0) 3 2 (if 4 ≤ lanes.length then 0 else 1)) (portReg p 0) 5 1 (flag slow)
    ((portOf s p).was = 0 → exec (.retrainComplete p full lanes slow) s = .next (ended s (linkUp u p)))
    ∧ ((portOf s p).was ≠ 0 →
      let v := updPort (setPortState u p (portOf s p).was) p (fun x => { x with was := 0 })
      exec (.retrainComplete p full lanes slow) s
        = .next (ended s (sendWaiting (pumpPort (emit (replayFlits v p) (srcPort p) 0x0582 p.val (flag full)) p)))))
  ∧ (∀ (s : State) (p : Port), poweredUp s = true → portState s p = 1 → exec (.portTrainingTimeout p) s = .next (ended s (portDown s p)))
  ∧ (∀ (s : State) (sh : Shed) (lane : Fin 18), poweredUp s = true → lane.val < 16 →
    (∀ e ∈ s.fab.failedLanes, e.1 ≠ sh.val * 18 + lane.val) →
    exec (.laneFailure sh lane) s = .next (ended s (serveLane s sh lane.val)))
  ∧ (∀ (s : State) (p : Port) (r : BootRecord), poweredUp s = true → portState s p = 2 →
    (secretsCleared s = true → exec (.bootRecordReceive p r) s = .next (ended s (identityRejected s p)))
    ∧ (secretsCleared s = false → (portOf s p).bootOk = false → Config.verifies (toBytes 68 r.pubKey.toNat) (bootMessage r) r.signature = true →
      hashChain r.k r.ck = r.c0 → r.claimed ≠ 0xFFFF → (keyHash r, r.claimed) ∈ s.fab.admission →
      exec (.bootRecordReceive p r) s = .next (ended s (admitUp (setF (updPort s p (fun x => { x with
        bootOk := true, bootDigest := Config.digest 0 (bootMessage r ++ r.signature), chainK := r.k, chainC := r.ck }))
        (portReg p 0) 8 16 r.claimed.toNat) p))))

/-- Derived from 12 R358, R361, R369, R372: what a packet for this module does once it is taken from its queue: a read is
answered with its bytes, a write lands, an operation is applied and answered; an answer ends the request it belongs to. -/
def Obligations.RemoteRequestsComplete : Prop :=
  ∀ (s : State) (k : Packet), poweredUp s = true → forUs s k = true →
    let u := takePacket s k
    let a := k.addr.toNat
    let n := 32 * k.len.toNat
    (closedRange a n = true →
      exec (.fabricRead k) s = .next (ended s (respond (remoteRefused u (arrivalShed s k) k) k.smod 4 k.tag 0x0502 [] 0)))
    ∧ (closedRange a n = false → rangeCode u a n = 0 →
      let v := touchRange u a n
      exec (.fabricRead k) s = .next (ended s (respond v k.smod 4 k.tag 0 (readRange v a n) (poisonMask v a n))))
    ∧ (closedRange a k.data.length = true →
      exec (.fabricWrite k) s = .next (ended s (respond (remoteRefused u (arrivalShed s k) k) k.smod 5 k.tag 0x0502 [] 0)))
    ∧ (closedRange a k.data.length = false → k.ext = false →
      exec (.fabricWrite k) s = .next (ended s (holdOrLand u {
        agent := .remote k.smod k.tag, addr := k.addr, write := true, size := k.data.length, data := k.data, marks := 0, sref := none })))
    ∧ (syncOpOf (field (ofBytes (k.data.take 16)) 0 4) = none →
      exec (.fabricSyncOp k) s = .next (ended s (replyRemote u k.smod k.tag 0x0402 0)))
    ∧ (syncOpOf (field (ofBytes (k.data.take 16)) 0 4) = some .read →
      exec (.fabricSyncOp k) s = .next (ended s (syncOp u (.remote k.smod k.tag) .read
        (BitVec.ofNat 24 (field (ofBytes (k.data.take 16)) 8 24)) (BitVec.ofNat 32 (field (ofBytes (k.data.take 16)) 64 32)))))
    ∧ (∀ o, findRequest u 1 k.tag = some o → exec (.readData k) s = .next (ended s (settleResponses (readDone u o (respStatus k)
        (k.data.take o.size ++ List.replicate (o.size - k.data.length) 0) (k.ext && k.pmask != 0)))))
    ∧ (∀ o, findRequest u 2 k.tag = some o →
      exec (.writeAck k) s = .next (ended s (settleResponses (writeDone u o (respStatus k)))))
    ∧ (∀ o, findRequest u 3 k.tag = some o → exec (.syncReply k) s = .next (ended s (syncDone u o
        (if respStatus k = 0 then field (ofBytes (k.data.take 16)) 0 16 else respStatus k) (field (ofBytes (k.data.take 16)) 32 32))))
    -- a write that lands at once, an operation on a tally, and what an answer is to the agent that asked
    ∧ (closedRange a k.data.length = false → k.ext = false → (∀ q ∈ pieces a k.data.length, nameMoving u q.1 = false) →
      writeRangeCode u (.remote k.smod k.tag) a k.data.length = 0 → exec (.fabricWrite k) s
        = .next (ended s (respond (writeMarked (countRmw u a k.data.length) a k.data 0) k.smod 5 k.tag 0 [] 0)))
    ∧ (∀ x kind status data marks, sendCode x k.smod = 0 →
      let addr : Addr := BitVec.ofNat 48 (status % 2 ^ 16)
      let len : BitVec 8 := BitVec.ofNat 8 (ceilDiv data.length 32)
      let p : Packet := { kind := kind, last := true, dmod := k.smod, smod := ownModule x, addr := addr, len := len, tag := k.tag }
      respond x k.smod kind k.tag status data marks
        = sendPacket x { p with ext := decide (marks ≠ 0), pmask := BitVec.ofNat 64 marks, data := data })
    ∧ (∀ i, findObj u (BitVec.ofNat 24 (field (ofBytes (k.data.take 16)) 8 24)) = .ok i → (objOf u i).kind = .tally →
      waiters (objOf u i) = [] → (∀ w ∈ u.sync.wakes, w.agent ≠ .remote k.smod k.tag) →
      let o := objOf u i
      let v : BitVec 32 := BitVec.ofNat 32 (field (ofBytes (k.data.take 16)) 64 32)
      let wake (t : State) (x : BitVec 32) : State := wakeAgent t { agent := .remote k.smod k.tag, result := x }
      (syncOpOf (field (ofBytes (k.data.take 16)) 0 4) = some .read →
        exec (.fabricSyncOp k) s = .next (ended s (wake (syncEnd u i o []) o.value)))
      ∧ (o.value.toNat + v.toNat < 2 ^ 32 →
        (syncOpOf (field (ofBytes (k.data.take 16)) 0 4) = some .add →
          exec (.fabricSyncOp k) s = .next (ended s (wake (syncEnd u i (setWaiters { o with value := o.value + v } []) []) 0)))
        ∧ (syncOpOf (field (ofBytes (k.data.take 16)) 0 4) = some .fetchAdd →
          exec (.fabricSyncOp k) s
            = .next (ended s (wake (syncEnd u i (setWaiters { o with value := o.value + v } []) []) o.value)))))
    ∧ (∀ o, findRequest u 1 k.tag = some o → s.svc.point = none → s.svc.restore = none → s.host.posted = [] → respStatus k = 0 →
      let d := k.data.take o.size ++ List.replicate (o.size - k.data.length) 0
      let v := dropRequest u o
      let line := (o.dmod, o.addr.toNat, d, k.ext && k.pmask != 0)
      (∀ e, o.agent = .host → s.host.pendingReads.find? (fun e => e.2 == o.addr) = some e → exec (.readData k) s
        = .next (ended s (send (onHost v (fun h => { h with pendingReads := h.pendingReads.erase e }))
            (.completion .success (k.ext && k.pmask != 0) d))))
      ∧ (∀ b, o.agent = .barrow b → exec (.readData k) s = .next (ended s (updBrw v b (fun x => updAgentJob x false
          (fun j => { j with remote := j.remote ++ [line] }))))))
    ∧ (∀ o, findRequest u 2 k.tag = some o → s.svc.point = none → s.svc.restore = none → s.host.posted = [] →
      (∀ e, o.agent = .engine e → exec (.writeAck k) s
        = .next (ended s (send (dropRequest u o) (.reply o.agent (BitVec.ofNat 16 (respStatus k)) 0))))
      ∧ (∀ b, o.agent = .barrow b → respStatus k = 0 → exec (.writeAck k) s = .next (ended s (dropRequest u o))))
    ∧ (∀ o b, findRequest u 3 k.tag = some o → o.agent = .barrow b → respStatus k = 0 → exec (.syncReply k) s
        = .next (ended s (wakeAgent (dropRequest u o)
            ⟨o.agent, BitVec.ofNat 16 (field (ofBytes (k.data.take 16)) 0 16), BitVec.ofNat 32 (field (ofBytes (k.data.take 16)) 32 32)⟩)))

/-- Derived from 12 R367, R369, R370, R371, R372, R374, R375, R376, R377, R378, R379, R382: link management, reduction packets,
takeover records, packets on their way to other modules, and the two waits for an answer. The watch of a shed with a full window
and a stalled port: a cycle is broken, else the slow event is recorded and the ports' stalls count anew. -/
def Obligations.FabricTrafficCompletes : Prop :=
  ((∀ (s : State) (p : Port) (k : Packet), poweredUp s = true →
    exec (.linkManagement p k) s
      = .next (ended s (onFab (takePacket s k) (fun f => { f with linkRecords := f.linkRecords ++ [(p, k.data)] }))))
  ∧ (∀ (s : State) (flow : BitVec 16) (c : Fin 7) (rstep : Byte) (first : Nat) (bales : List Bale), poweredUp s = true →
    recBits flow 14 2 = 0 → exec (.reductionUp flow (.own c) rstep first bales) s
      = .next (ended s (ownUp s flow (.own c) rstep first bales)))
  ∧ (∀ (s : State) (flow : BitVec 16) (c : Fin 7) (rstep : Byte) (i : Nat) (b : Bale), poweredUp s = true →
    let n := flowIndex s flow
    let e := flowEntry s n
    let x := elOf s n
    recBits flow 14 2 = 0 → feValid e = true → contributes e (.own c) = true → rstep.toNat = feStep e → x.halted = false →
    waitsBefore x (.own c) = false → b.pre = false → (i, .own c) ∉ x.seen → i < feNb e → i < lowest x e + feWin e →
    let y : FlowEl := { x with seen := x.seen ++ [(i, .own c)], window := x.window ++ [(i, .own c, b)] }
    (baleDone y e i = false →
      exec (.reductionUp flow (.own c) rstep i [b]) s = .next (ended s (pumpReduction (putEl s n y))))
    ∧ (∀ t, baleDone y e i = true → sumBales (sumOrder (y.window.filter (fun w => w.1 == i))) = some t → feRoot e = false →
      let u := txPort s (feParent e) (balePacket s (feParent e) 7 flow (feStep e) i [t])
      let z : FlowEl := { y with window := y.window.filter (fun w => w.1 != i), delivered := y.delivered + 1 }
      exec (.reductionUp flow (.own c) rstep i [b]) s = .next (ended s (pumpReduction (closeStep (putEl u n z) n e)))))
  ∧ (∀ (s u : State) (p q : Port) (n : Nat) (flow : BitVec 16) (rstep : Byte) (first : Nat) (bales : List Bale), poweredUp s = true →
    recBits flow 14 2 = 0 →
    (takeQueued s (fun i k => i == p && k.kind == 7 && k.tag == flow && k.rstep == rstep && k.addr.toNat == first) = (some (q, n), u) →
      exec (.reductionUp flow (.child p) rstep first bales) s
        = .next (ended s (childUp u p { flow := flow, rstep := rstep, first := first, bales := bales, blocks := n })))
    ∧ (takeQueued s (fun _ k => k.kind == 8 && k.tag == flow && k.rstep == rstep && k.addr.toNat == first) = (some (q, n), u) →
      let v := freeBlocks u q 2 n
      let e := flowEntry v (flowIndex v flow)
      feValid e = true → exec (.reductionDown flow rstep first bales) s = .next (ended s ((feChildren e).foldl
        (fun s p => txPort s p { balePacket s p 8 flow (feStep e) first bales with rstep := rstep })
        (bales.zipIdx.foldl (fun s b => if b.1.pre then s else writeThrough s (redSrc e) (feDst e) (feBsz e) (first + b.2) b.1) v)))))
  ∧ (∀ (s : State) (p : Port) (x sp : ModuleId) (n : BitVec 32), poweredUp s = true →
    (takeoverKey x sp n ∈ s.fab.takeovers → exec (.takeoverRecord p x sp n) s = .next (ended s s))
    ∧ (takeoverKey x sp n ∉ s.fab.takeovers →
      let u := onFab s (fun f => { f with takeovers := takeoverKey x sp n :: f.takeovers })
      let v := setSheds u (0x1000000 + 8 * x.toNat) (BitVec.ofNat 64 (routeEntry u sp))
      let w := emit (setSheds v (0x1000000 + 8 * sp.toNat) 0) (srcPort p) 0x0589 x.toNat sp.toNat
      exec (.takeoverRecord p x sp n) s = .next (ended s (sendWaiting (floodTakeover w x sp n (some p))))))
  ∧ (∀ (s : State) (p : Port) (k : Packet), poweredUp s = true → fabRole s ≠ 2 → forUs s k = false →
    channelOf k.kind.toNat ≠ 2 → channelOf k.kind.toNat ≠ 3 →
    let u := takePacket s k
    (k.hops = 15 → exec (.packetForward p k) s = .next (ended s (violation (malformedEvent u p k.kind.toNat k.smod.toNat) p)))
    ∧ (k.hops ≠ 15 → routeValid (routeEntry u k.dmod) = true → k.dmod ≠ 0xFFFF →
      exec (.packetForward p k) s = .next (ended s (sendPacket u { k with hops := k.hops + 1 })))
    ∧ (k.hops ≠ 15 → routeValid (routeEntry u k.dmod) = false →
      exec (.packetForward p k) s = .next (ended s (fabRefusal u (portShed p) k.addr.toNat 0x0501 k.dmod))))
  ∧ (∀ (s : State) (m : ModuleId) (k : Packet) (b : Nat), poweredUp s = true → s.fab.waiting.filter (fun e => e.1.dmod == m) = [(k, b)] →
    k.smod ≠ ownModule s →
    exec (.routeWaitTimeout m) s = .next (ended s (settleResponses (fabRefusal
      (onFab s (fun f => { f with waiting := f.waiting.filter (fun e => e.1.dmod != m) })) 0 k.addr.toNat 0x0504 m))))
  ∧ (∀ (s : State) (tag : BitVec 16) (o : Outstanding), poweredUp s = true →
    s.fab.outstanding.find? (fun o => o.tag == tag && (o.kind == 1 || o.kind == 3)) = some o →
    exec (.fabricTimeout tag) s = .next (ended s (settleResponses (requestFailed s o 0x0503)))))
  ∧ (∀ (s : State) (sh : Shed), poweredUp s = true → getF s (pwReg sh) 8 1 = 1 →
    let full := (List.finRange 16).filter (windowFull s sh)
    let stalled := (List.finRange 16).filter (fun p => stalledRed s sh p || stalledTx s sh p)
    full ≠ [] → stalled ≠ [] →
    (∀ ps, full.findSome? (fun p => cycleFrom s p 16 p []) = some ps →
      exec (.shedWatchExpiry sh) s = .next (ended s (breakCycle s sh ps)))
    ∧ (full.findSome? (fun p => cycleFrom s p 16 p []) = none →
      exec (.shedWatchExpiry sh) s = .next (ended s (each stalled
        (fun s p => updPort s p (fun x => { x with redMoved := s.time, txMoved := s.time }))
        (emit s (srcShed sh 0x11) 0x058B (((full.filterMap (headFlow s)).getD 0 0).toNat) 0)))))

/-! ## The host port (13) -/

/-- Derived from 13 R392–R397, R399: writes of the control window, and the host's reads and writes through the data window. The
post of a free slot joins the queue's end, not yet begun, or is cancelled at once; a cancel of a slot still in the queue takes
it out with status 0x0905. -/
def Obligations.HostWindowsComplete : Prop :=
  ((∀ (s : State) (off : BitVec 26) (data : List Byte), poweredUp s = true → s.host.inReset = false → data ≠ [] →
    (∀ k o, cwPart off.toNat = .slot k o → 8 ≤ o → o + data.length ≤ 0x1000 →
      (mbOwned (mbOf s k) = false →
        exec (.controlWindowWrite off data) s = .next (ended s (updMb s k (fun m => putSlotBytes m o data))))
      ∧ (mbOwned (mbOf s k) = true →
        exec (.controlWindowWrite off data) s = .next (ended s (accessOwned s off.toNat data.length))))
    ∧ (cwPart off.toNat = .reserved →
      exec (.controlWindowWrite off data) s = .next (ended s (accessOnce s off.toNat data.length true)))
    ∧ (∀ o, cwPart off.toNat = .msix o → wordSized off.toNat data.length = true →
      exec (.controlWindowWrite off data) s = .next (ended s (msixWrite s o data))))
  ∧ (∀ (s : State) (off : BitVec 36) (size : Nat), poweredUp s = true → s.host.inReset = false →
    let a := dwinAddr s off.toNat
    let m := dwinModule s off.toNat
    let w := onHost s (fun h => { h with pendingReads := h.pendingReads ++ [(BitVec.ofNat 36 off.toNat, BitVec.ofNat 48 a)] })
    (dwinClosed s off.toNat size = true →
      exec (.dataWindowRead off size) s = .next (ended s (send (accessEvent s off.toNat size false) (.completion .unsupported false []))))
    ∧ (dwinClosed s off.toNat size = false → inHostRange a = false → m = ownModule s → regSpace ≤ a →
      exec (.dataWindowRead off size) s
        = .next (ended s (send (registerRead s a size).2 (.completion .success false (registerRead s a size).1))))
    ∧ (dwinClosed s off.toNat size = false → inHostRange a = false → m = ownModule s → a < regSpace →
      exec (.dataWindowRead off size) s
        = .next (ended s (memoryAccess w { agent := .host, addr := BitVec.ofNat 48 a, write := false, size := size })))
    ∧ (dwinClosed s off.toNat size = false → inHostRange a = false → m = ownModule s → a < regSpace →
      rangeWaits w a size = false → rangeCode w a size = 0 →
      let v := touchRange w a size
      (∀ q ∈ pieces a size, (readPiece v q.1 q.2).2 = false) → ∀ e, v.host.pendingReads.find? (fun e => e.2 == BitVec.ofNat 48 a) = some e →
      exec (.dataWindowRead off size) s = .next (ended s (send (onHost v (fun h => { h with pendingReads := h.pendingReads.erase e }))
        (.completion .success (poisonRange v a size) (readRange v a size))))))
  ∧ (∀ (s : State) (off : BitVec 36) (data : List Byte), poweredUp s = true → s.host.inReset = false →
    (dwinClosed s off.toNat data.length = true →
      exec (.dataWindowWrite off data false) s = .next (ended s (accessEvent s off.toNat data.length true)))
    ∧ (dwinClosed s off.toNat data.length = false → inHostRange (dwinAddr s off.toNat) = false →
      bitOf (dwin s (off.toNat / 2 ^ 32)) 1 = true →
      exec (.dataWindowWrite off data false) s = .next (ended s (postHostWrite s (dwinModule s off.toNat)
        { agent := .host, addr := BitVec.ofNat 48 (dwinAddr s off.toNat), write := true, size := data.length, data := data })))
    ∧ (dwinClosed s off.toNat data.length = false → inHostRange (dwinAddr s off.toNat) = false →
      bitOf (dwin s (off.toNat / 2 ^ 32)) 1 = true → dwinModule s off.toNat = ownModule s → dwinAddr s off.toNat < regSpace →
      s.host.heldWrites = [] → rangeWaits s (dwinAddr s off.toNat) data.length = false →
      (∀ q ∈ pieces (dwinAddr s off.toNat) data.length, nameMoving s q.1 = false) →
      writeRangeCode s .host (dwinAddr s off.toNat) data.length = 0 →
      exec (.dataWindowWrite off data false) s = .next (ended s (writeRange
        (countRmw s (dwinAddr s off.toNat) data.length) (dwinAddr s off.toNat) data false))))
  ∧ (∀ (s : State) (off : BitVec 36) (e : BitVec 36 × Addr), poweredUp s = true →
    s.host.pendingReads.find? (fun e => e.1 == off) = some e →
    let u := onHomes (onHost s (fun h => { h with pendingReads := h.pendingReads.erase e }))
      (fun h => { h with held := h.held.filter (fun x => !(x.agent == .host && !x.write && x.addr == e.2)) })
    exec (.dataWindowReadTimeout off) s = .next (ended s (send
      (emit (satF u (shedReg 0 0x200010) 0 32 1) (srcShed 0 0x30) 0x0982 off.toNat e.2.toNat) (.completion .abort false [])))))
  ∧ (∀ (s : State) (k : MbSlot) (w : Word), poweredUp s = true → s.host.inReset = false → s.power.entry = none →
    let m := mbOf s k
    let u := putMb s k { m with owner := w &&& 0xFF03 }
    (mbOwned m = false → bitOf w.toNat 0 = true → bitOf w.toNat 1 = false →
      exec (.mailboxPost k w) s = .next (settled s (onHost u (fun h => { h with posted := h.posted ++ [k] }))))
    ∧ (mbOwned m = false → bitOf w.toNat 0 = true → bitOf w.toNat 1 = true →
      exec (.mailboxPost k w) s = .next (ended s (satF (mbFail u k 0x0905) (shedReg 0 0x200018) 16 16 1)))
    ∧ (mbOwned m = false → bitOf w.toNat 0 = false → exec (.mailboxPost k w) s = .next (ended s u))
    ∧ (mbOwned m = true → bitOf w.toNat 1 = true → mbBegun m = false → k ∈ s.host.posted →
      exec (.mailboxPost k w) s = .next (settled s (satF (mbFail (onHost s (fun h =>
        { h with posted := h.posted.filter (fun j => j != k) })) k 0x0905) (shedReg 0 0x200018) 16 16 1))))

/-- Derived from 13 R389, R402: a change of the host link shows in HIF_LINK, is recorded as the host-link event, and raises
vector 61. -/
def Obligations.HostLinkChangeRecorded : Prop :=
  ∀ (s : State) (width gen : Nat) (flit : Bool), poweredUp s = true →
    let u := (linkWord s width gen).2
    let w := (linkWord s width gen).1
    ((getReg s (shedReg 0 0x200000)).toNat ≠ w + (flag flit) <<< 8 →
    exec (.hostLinkChange width gen flit false) s = .next (ended s (raiseVector (emit
      (setReg u (shedReg 0 0x200000) (BitVec.ofNat 64 (w + (flag flit) <<< 8))) (srcShed 0 0x30) 0x0983 w 0) 61)))
    ∧ (s.host.inReset = false → (getReg s (shedReg 0 0x200000)).toNat ≠ w + (flag flit) <<< 8 + 1 <<< 9 →
      let v := setReg u (shedReg 0 0x200000) (BitVec.ofNat 64 (w + (flag flit) <<< 8 + 1 <<< 9))
      exec (.hostLinkChange width gen flit true) s = .next (ended s (raiseVector
        (emit (onHost (setF v (shedReg 0 0x300010) 2 1 0) (fun h => { h with cfgReady := true })) (srcShed 0 0x30) 0x0983 w 0) 61)))

/-- Derived from 13 R390, R411, 15 R449, R450: the function's resets, the reset pin, and the errors of the link. -/
def Obligations.HostResetsComplete : Prop :=
  (∀ s : State, poweredUp s = true → s.host.inReset = false →
    exec .functionLevelReset s = .next (ended s (hostReset s 0)) ∧ exec .hotReset s = .next (ended s (hostReset s 1)))
  ∧ (∀ s : State, s.power.perst = false →
    (poweredUp s = false → exec .perstAssert s = .next (ended s (onPower s (fun p => { p with perst := true }))))
    ∧ (poweredUp s = true → exec .perstAssert s = .next (ended s (onHost
        (setReg (setF (hostReset (onPower s (fun p => { p with perst := true })) 1) (shedReg 0 0x300010) 0 1 0) (shedReg 0 0x200000) 0)
        (fun h => { h with inReset := true, cfgReady := false })))))
  ∧ (∀ s : State, s.power.perst = true →
    let u := onPower s (fun p => { p with perst := false })
    (s.power.on = true → pstate u ≠ 3 →
      let v := onHost (setF u (shedReg 0 0x300010) 0 1 1) (fun h => { h with inReset := false, cfgFrom := u.time + 1000000000 })
      wakeEnabled v 1 = false → exec .perstRelease s = .next (ended s v))
    ∧ (s.power.on = false → s.power.cause = 3 → exec .perstRelease s = .next (ended s (startFrom u 3 (lastInput u))))
    ∧ (s.power.on = false → s.power.cause ≠ 3 → exec .perstRelease s = .next (ended s u)))
  ∧ (∀ (s : State) (ty : Byte) (rq : BitVec 16), poweredUp s = true → s.host.inReset = false →
    exec (.hostTlpError .malformed ty rq) s
      = .next (ended s (send (protocolEvent (satF s (shedReg 0 0x200008) 32 16 1) ty rq) .aerFatal))
    ∧ exec (.hostTlpError .badBar ty rq) s
      = .next (ended s (send (protocolEvent (satF s (shedReg 0 0x200008) 0 16 1) ty rq) (.completion .unsupported false []))))

/-- Derived from 13 R408, R409: heartbeats, a groom that drops out, the standby's takeover and its reload. -/
def Obligations.GroomPairCompletes : Prop :=
  (∀ s : State, poweredUp s = true → groomLive s = true →
    exec .groomHeartbeat s = .next (ended s (onHost s (fun h => { h with heartbeat := h.heartbeat + 1 }))))
  ∧ (∀ (s : State) (b : Bool), poweredUp s = true →
    (groomState s b = .active → exec (.lockstepMismatch b) s = .next (ended s
      (onGroom (setGroom s b .out) (fun g => { g with takeover := groomState s (!b) == .standby }))))
    ∧ (groomState s b = .standby → exec (.lockstepMismatch b) s = .next (ended s (standbyFails s b))))
  ∧ (∀ s : State, poweredUp s = true → s.groom.b = .standby → s.groom.a = .out → s.groom.takeover = true →
    exec .groomTakeover s = .next (ended s (settlePosted (raiseVector (emit
      (onGroom (onSec s (fun x => { x with runSince := s.time })) (fun g => { g with b := .active, takeover := false }))
      0x407F 0x0985 0 (begunAgain s)) 62))))
  ∧ (∀ (s : State) (ok : Bool), poweredUp s = true → groomLive s = true → s.groom.b = .out →
    exec (.standbyReload ok) s = .next (ended s (if ok then setGroom s true .standby else standbyFails s true)))

/-- Derived from 00 R18, 13 R403, R407: Ivain enters the oldest waiting record into the log with the next seq, and a full log
loses its oldest; the ring's vector goes out once its 10 µs have passed. The EVENT commands. -/
def Obligations.EventCommandsComplete : Prop :=
  ((∀ (s : State) (e : Event) (rest : List Event), poweredUp s = true → groomLive s = true → s.host.evq = e :: rest → pstate s ≠ 2 →
    exec .eventRecordEntry s = .next (ended s (enterRecord (onHost s (fun h => { h with evq := rest })) e)))
  ∧ (∀ (s : State) (e : Event), s.host.ring = none →
    (enterRecord s e).host.log = (if logSize ≤ s.host.log.length then s.host.log.drop 1 else s.host.log)
      ++ [{ e with seq := s.host.nextSeq, lost := e.lost || s.host.logDropped }]
    ∧ (enterRecord s e).host.nextSeq = s.host.nextSeq + 1
    ∧ (s.host.log.length ≤ logSize → (enterRecord s e).host.log.length ≤ logSize))
  ∧ (∀ (s : State) (r : RingCfg), poweredUp s = true → s.host.ring = some r → s.host.deferred = true →
    exec .eventVectorDelay s
      = .next (ended s (raiseVector (onHost s (fun h => { h with lastRaise := some s.time, deferred := false })) r.vector))))
  ∧ (∀ (s : State) (k : MbSlot),
    let b := mbBegin s k
    let m := mbOf s k
    (CommandReady s k 0x0D01 (fun l => l == 9) →
      (mbArg m 4 4 = 0 → exec (.eventRing k) s = .next (settled s (mbOk (onHost b (fun h => { h with ring := none, deferred := false })) k [])))
      ∧ (mbArg m 4 4 ≠ 0 → ringLength (mbArg m 4 4) = false → exec (.eventRing k) s = .next (settled s (mbIllegal b k 4)))
      ∧ (mbArg m 4 4 ≠ 0 → ringLength (mbArg m 4 4) = true → ringValid b (mbArg m 0 4) (mbArg m 4 4) = true → mbArg m 8 1 < 63 →
        exec (.eventRing k) s = .next (settled s (mbOk (onHost b (fun h => { h with
          ring := some { entry := mbArg m 0 4, records := mbArg m 4 4, vector := mbArg m 8 1 } })) k []))))
    ∧ (CommandReady s k 0x0D02 (fun l => l == 5) →
      (1 ≤ mbArg m 4 1 → mbArg m 4 1 ≤ 125 → exec (.eventRead k) s = .next (settled s
        (mbOk b k (((logFrom b (mbArg m 0 4)).take (mbArg m 4 1)).map (fun e => (32, ofBytes (eventBytes e)))))))
      ∧ (mbArg m 4 1 = 0 → exec (.eventRead k) s = .next (settled s (mbIllegal b k 4))))
    ∧ (CommandReady s k 0x0D03 (fun l => l == 1) → exec (.eventFilter k) s = .next (settled s
        (mbOk (onHost b (fun h => { h with filter := BitVec.ofNat 8 (mbArg m 0 1) })) k []))))

/-! ## Mailbox commands (13 R399–R407) -/

/-- Derived from 13 R401, R404: a completed command's slot holds its status, the length of its results and where; its results
from data on; own, begun and cancel are 0, the cookie stands. No other slot changes. -/
def Obligations.CompletionReturnsTheSlot : Prop :=
  ∀ (s : State) (k : MbSlot) (status wh : Nat) (fields : List (Nat × Nat)),
    let t := mbComplete s k status fields wh
    let fs := placeFields 0 fields
    fieldsEnd fs < 2 ^ 16 →
    field (mbOf t k).res.toNat 0 16 = status % 2 ^ 16 ∧ field (mbOf t k).res.toNat 16 16 = fieldsEnd fs
    ∧ field (mbOf t k).res.toNat 32 16 = wh % 2 ^ 16
    ∧ (mbOf t k).owner = BitVec.ofNat 64 (field (mbOf s k).owner.toNat 8 8 <<< 8) ∧ (mbOf t k).cookie = (mbOf s k).cookie
    ∧ (mbOf t k).data = putFields (mbOf s k).data fs ∧ (∀ j, j ≠ k → mbOf t j = mbOf s j) ∧ OnlyMailbox s t

/-- Derived from 13 R404–R406, 14 R421, 16 R467, R485: a command refused whatever its arguments, or of another length than it
has, completes with that status and has none of its effect. -/
def Obligations.RefusedCommandsDoNothing : Prop :=
  ∀ (s : State) (k : MbSlot), poweredUp s = true → mbHead s = some k →
    (∀ st, mbGate s (mbOf s k) = st → st ≠ 0 →
      (mbCode (mbOf s k) = 0x0101 → exec (.identify k) s = .next (settled s (mbFail (mbBegin s k) k st)))
      ∧ (mbCode (mbOf s k) = 0x0201 → exec (.imageLoad k) s = .next (settled s (mbFail (mbBegin s k) k st)))
      ∧ (mbCode (mbOf s k) = 0x0401 → exec (.nameCreate k) s = .next (settled s (mbFail (mbBegin s k) k st)))
      ∧ (mbCode (mbOf s k) = 0x0602 → exec (.syncFree k) s = .next (settled s (mbFail (mbBegin s k) k st))))
    ∧ (mbGate s (mbOf s k) = 0 →
      (mbCode (mbOf s k) = 0x0101 → mbLen (mbOf s k) ≠ 0 → exec (.identify k) s = .next (settled s (mbFail (mbBegin s k) k 0x0902)))
      ∧ (mbCode (mbOf s k) = 0x0401 → mbLen (mbOf s k) ≠ 12 → exec (.nameCreate k) s = .next (settled s (mbFail (mbBegin s k) k 0x0902))))

/-- Derived from 13 R401, R407: a command that only answers leaves all but its slot, the queue of posted slots, the interrupt's
vector and HIF_MBSTAT as they were: no register, no memory, no unit, no event. -/
def Obligations.AnsweringCommandsFrame : Prop :=
  ∀ (s t : State) (k : MbSlot) (i : Instr), i = .identify k ∨ i = .status k ∨ i = .distance k ∨ i = .bistResults k ∨ i = .eventRead k →
    QueueBounded s → exec i s = .next t → OnlyMailbox s t

/-- Derived from 01 R30, 03 R90, 06 R204, 13 R407: the DEVICE commands and the CONTEXT commands. -/
def Obligations.DeviceAndContextCommandsComplete : Prop :=
  (∀ (s : State) (k : MbSlot),
    let b := mbBegin s k
    let m := mbOf s k
    (CommandReady s k 0x0101 (fun l => l == 0) → exec (.identify k) s = .next (settled s (mbOk b k [(16, serialNumber), (1, 0xA2),
      (4, (runningVersion b).toNat), (4, (stagedVersion b).toNat), (1, stallCount b), (2, b.yard.mapver.toNat), (2, (ownModule b).toNat)])))
    ∧ (CommandReady s k 0x0102 (fun l => l == 0) →
      exec (.status k) s = .next (settled s (mbOk b k [(64, ofBytes (statusBytes b 0 64))])))
    ∧ (CommandReady s k 0x0103 (fun l => l == 1) →
      (mbArg m 0 1 < 28 → exec (.distance k) s = .next (settled s (mbOk b k [(1, 1), (64, distanceRecord b (mbArg m 0 1))])))
      ∧ (mbArg m 0 1 = 0xFF → exec (.distance k) s
          = .next (settled s (mbOk b k ((1, 28) :: (List.range 28).map (fun p => (64, distanceRecord b p))))))
      ∧ (28 ≤ mbArg m 0 1 → mbArg m 0 1 ≠ 0xFF → exec (.distance k) s = .next (settled s (mbIllegal b k 0))))
    ∧ (CommandReady s k 0x0104 (fun l => l == 12) → 1 ≤ mbArg m 8 4 → mbArg m 8 4 ≤ 32 → regSpace ≤ mbArg m 0 8 →
      mbArg m 0 8 + 8 * mbArg m 8 4 ≤ 2 ^ 48 → (∀ i < mbArg m 8 4, addrOff b (mbArg m 0 8 + 8 * i) = false) →
      exec (.regRead k) s = .next (settled s (mbOk (readWords b (mbArg m 0 8) (mbArg m 8 4)).2 k (readWords b (mbArg m 0 8) (mbArg m 8 4)).1)))
    ∧ (CommandReady s k 0x0105 (fun l => l == 24) → regSpace ≤ mbArg m 0 8 → mbArg m 0 8 + 8 ≤ 2 ^ 48 → addrOff b (mbArg m 0 8) = false →
      regLegal (mbArg m 0 8) 8 = true →
      exec (.regWrite k) s = .next (settled s (mbOk (writeReg (handRecord b (srcGroom b)) (mbArg m 0 8) (mbArg m 8 8) (mbArg m 16 8)) k
        [(8, readReg b (mbArg m 0 8))]))))
  ∧ (∀ (s : State) (k : MbSlot),
    let b := mbBegin s k
    let m := mbOf s k
    (CommandReady s k 0x0201 (fun l => l == 16) → mbArg m 0 1 < 64 → mbArg m 1 1 < 4 → mbArg m 2 1 < 8 → mbArg m 4 4 < 2 ^ 28 →
      mbArg m 8 8 < 2 ^ 48 →
      let l := loadPositions b (mbArg m 0 1) (mbArg m 1 1) (mbArg m 2 1) (mbArg m 8 8) (mbArg m 4 4) (List.range 28)
      exec (.imageLoad k) s = .next (settled s (mbOk l.2 k l.1)))
    ∧ (∀ c : Slot, CommandReady s k 0x0202 (fun l => l == 2) → mbArg m 0 1 < 64 → mbArg m 1 1 = c.val →
      exec (.imageOpen k) s = .next (settled s (mbOk
        (each (regionStalls b (asRegion (mbArg m 0 1))) (fun s st => laneOpen s st (asRegion (mbArg m 0 1)) c) b) k [])))
    ∧ (∀ st, CommandReady s k 0x0203 (fun l => l == 32) → mbArg m 0 1 < 64 → regionHome b (asRegion (mbArg m 0 1)) = some st →
      coreOn b st = true → seqLive (seqOf b (asRegion (mbArg m 0 1))) = false →
      let r := asRegion (mbArg m 0 1)
      exec (.seqStart k) s = .next (settled s (mbOk (seqCtlWrite
        (writeReg b (stallReg st (0xA00 + 8 * r.val)) (mbArg m 8 6 + mbArg m 16 2 <<< 48) (2 ^ 64 - 1)) st r
        ((mbArg m 24 8 &&& 0x1F78) + 2 + mbArg m 18 2 <<< 16)) k [])))
    ∧ (CommandReady s k 0x0204 (fun l => l == 1) → mbArg m 0 1 < 64 →
      exec (.seqStop k) s = .next (settled s (mbOk (seqStopReq b (asRegion (mbArg m 0 1))) k [(2, seqEntry b (asRegion (mbArg m 0 1)))])))
    -- one position loaded, one stall's lane opened, a sequencer that starts, and one that stops after its entry
    ∧ (∀ (p : Fin 28) (st : Stall), CommandReady s k 0x0201 (fun l => l == 16) → mbArg m 0 1 < 64 → mbArg m 1 1 < 4 →
      mbArg m 2 1 < 8 → mbArg m 4 4 = 2 ^ p.val → mbArg m 8 8 < 2 ^ 48 → lpStall b p.val = some st → coreOn b st = true →
      let l := loadPosition b (mbArg m 0 1) (mbArg m 1 1) (mbArg m 2 1) (mbArg m 8 8) p.val
      let go := mbArg m 0 1 + mbArg m 1 1 <<< 8 + mbArg m 2 1 <<< 12 + 2 ^ 16
      let u := ctxLoadWrite (setF b (stallReg st 0x410) 0 48 (mbArg m 8 8)) st go
      l = (getF (seqsFill u) (ctxReg st) 32 16, seqsFill u)
      ∧ exec (.imageLoad k) s = .next (settled s (mbOk l.2 k
          ((List.range 28).map (fun q => (2, if q = p.val then l.1 else 0))))))
    ∧ (∀ (c : Slot) (st : Stall), CommandReady s k 0x0202 (fun l => l == 2) → mbArg m 0 1 < 64 → mbArg m 1 1 = c.val →
      regionStalls b (asRegion (mbArg m 0 1)) = [st] → exec (.imageOpen k) s = .next (settled s (mbOk
        (setF b (rgnReg st (asRegion (mbArg m 0 1))) (6 + c.val) 1 1) k [])))
    ∧ (∀ st, CommandReady s k 0x0203 (fun l => l == 32) → mbArg m 0 1 < 64 → regionHome b (asRegion (mbArg m 0 1)) = some st →
      coreOn b st = true → seqLive (seqOf b (asRegion (mbArg m 0 1))) = false →
      let r := asRegion (mbArg m 0 1)
      let u := writeReg b (stallReg st (0xA00 + 8 * r.val)) (mbArg m 8 6 + mbArg m 16 2 <<< 48) (2 ^ 64 - 1)
      let ctl := (mbArg m 24 8 &&& 0x1F78) + 2 + mbArg m 18 2 <<< 16
      let keep := setBits (setBits ctl 1 1 0) 2 1 0
      let v := seqFill (setReg u (stallReg st (0xC00 + 8 * r.val)) (BitVec.ofNat 64 (keep &&& 0xFFFF1F79))) r
      regionHome u r = some st → seqLive (seqOf v r) = false → bitOf ctl 1 = true → bitOf ctl 2 = false →
      let start := seqGet v r 0xC00 16 16
      let w := seqSet (seqSet (seqSet v r 0xC00 0 1 1) r 0x1400 0 16 start) r 0x1400 16 1 0
      let x := each (regionClaimers w r) (fun t q => putClaimer t q.1 q.2 { claimerOf t q.1 q.2 with opened := false, pools := [] }) w
      exec (.seqStart k) s = .next (settled s (mbOk (nextEntry (putSeq x r { back := (seqOf x r).back }) r start) k [])))
    ∧ (CommandReady s k 0x0204 (fun l => l == 1) → mbArg m 0 1 < 64 → seqLive (seqOf b (asRegion (mbArg m 0 1))) = true →
      exec (.seqStop k) s = .next (settled s (mbOk (putSeq b (asRegion (mbArg m 0 1)) { seqOf b (asRegion (mbArg m 0 1)) with stopReq := true }) k
        [(2, seqEntry b (asRegion (mbArg m 0 1)))]))))

/-- Derived from 11 R328, R345, R346, R348, 13 R407: the TASK commands and the SYNC commands. -/
def Obligations.TaskAndSyncCommandsComplete : Prop :=
  (∀ (s : State) (k : MbSlot),
    let b := mbBegin s k
    let m := mbOf s k
    let t := BitVec.ofNat 16 (mbArg m 0 2)
    (∀ n, CommandReady s k 0x0301 (fun l => l == 0) →
      freeTask (pick b 0xFFFF).2 ((pick b 0xFFFF).2.sync.tasks.length + 1) (pick b 0xFFFF).1 = some n →
      exec (.taskCreate k) s
        = .next (settled s (mbOk (onSync (pick b 0xFFFF).2 (fun y => { y with tasks := y.tasks ++ [n] })) k [(2, n.toNat)])))
    ∧ (taskExists b (mbArg m 0 2) = true →
      (CommandReady s k 0x0302 (fun l => l == 2) →
        let l := (taskObjects b t).map (fun e => recordOf e.1 true e.2)
        exec (.taskStart k) s = .next (settled s (mbOk
          (onSync b (fun y => { y with started := y.started.filter (fun e => e.1 != t) ++ [(t, l)] })) k [(4, l.length)])))
      ∧ (CommandReady s k 0x0303 (fun l => l == 2) →
        (∀ x ∈ ((b.sync.started.find? (fun e => e.1 == t)).map Prod.snd).getD [], residueOf b t x = none) →
        exec (.taskEnd k) s = .next (settled s (mbOk (onSync (emit b (srcGroom b) 0x0484 t.toNat 0)
          (fun y => { y with started := y.started.filter (fun e => e.1 != t) })) k [(4, 0)])))
      ∧ (CommandReady s k 0x0304 (fun l => l == 2) → exec (.taskDestroy k) s = .next (settled s (mbOk (onSync b (fun y =>
          { y with tasks := y.tasks.filter (fun x => x != t), started := y.started.filter (fun e => e.1 != t) })) k []))))
    ∧ (taskExists b (mbArg m 0 2) = false → CommandReady s k 0x0304 (fun l => l == 2) →
      exec (.taskDestroy k) s = .next (settled s (mbFail b k 0x0904))))
  ∧ (∀ (s : State) (k : MbSlot),
    let b := mbBegin s k
    let m := mbOf s k
    let r : Sref := BitVec.ofNat 24 (mbArg m 0 3)
    let t := BitVec.ofNat 16 (mbTask m)
    ∀ key, findObj b r = .ok key → (objOf b key).kind = .free ∨ (objOf b key).task = t →
    (CommandReady s k 0x0601 (fun l => l == 12) → waiters (objOf b key) = [] → mbArg m 3 1 = 2 → mbArg m 4 1 < 2 →
      let o : SyncObj := { kind := .tally, task := t, value := BitVec.ofNat 32 (mbArg m 8 4), init := BitVec.ofNat 32 (mbArg m 8 4) }
      exec (.syncConfig k) s = .next (settled s (mbOk (noteConfig (putObj b key o) r (some t) o) k [])))
    ∧ (CommandReady s k 0x0601 (fun l => l == 12) → waiters (objOf b key) = [] → mbArg m 3 1 = 1 → mbArg m 4 1 = 1 → mbArg m 6 2 ≠ 0 →
      let o : SyncObj := { kind := .gate, latch := true, open0 := false, count := BitVec.ofNat 16 (mbArg m 6 2), task := t, isOpen := false }
      exec (.syncConfig k) s = .next (settled s (mbOk (noteConfig (putObj b key o) r (some t) o) k [])))
    ∧ (CommandReady s k 0x0602 (fun l => l == 3) → waiters (objOf b key) = [] → (objOf b key).kind ≠ .free →
      exec (.syncFree k) s = .next (settled s (mbOk (noteConfig (putObj b key {}) r none {}) k [])))
    ∧ (∀ p rel, CommandReady s k 0x0603 (fun l => l == 8) → mbArg m 3 1 = 0 →
      setByHand (objOf b key) 0 (mbArg m 4 4) = .ok (p, rel, []) →
      exec (.syncSet k) s = .next (settled s (mbOk (emitManual (wakeAll (putObj b key { p with manual := true }) rel)
        (srcGroom b) 0x0485 r.toNat (mbArg m 4 4)) k [(8, objStateWord (objOf b key))]))))

/-- Derived from 10 R291, R304, R510, 13 R407: names are created, deleted and moved one after another until one cannot be. -/
def Obligations.NameCommandsComplete : Prop :=
  (∀ (s : State) (k : MbSlot),
    let b := mbBegin s k
    let m := mbOf s k
    (CommandReady s k 0x0401 (fun l => l == 12) → 1 ≤ mbArg m 8 1 → mbArg m 8 1 ≤ 5 → mbArg m 10 1 ≤ 1 → mbArg m 11 1 ≤ 1 →
      exec (.nameCreate k) s = .next (settled s (namesDone k (takeNames (fun s n => createName s (BitVec.ofNat 16 (mbTask m)) (mbArg m 8 1)
        (mbArg m 9 1) (mbArg m 10 1 = 1) (mbArg m 11 1 = 1) n) (mbArg m 4 4) b (mbArg m 0 4) 0))))
    ∧ (CommandReady s k 0x0401 (fun l => l == 12) → 5 < mbArg m 8 1 → exec (.nameCreate k) s = .next (settled s (mbIllegal b k 8)))
    ∧ (CommandReady s k 0x0402 (fun l => l == 8) → exec (.nameDelete k) s = .next (settled s
        (namesDone k (takeNames (fun s n => deleteName s (mbTask m) n) (mbArg m 4 4) b (mbArg m 0 4) 0))))
    ∧ (CommandReady s k 0x0403 (fun l => l == 11) → 1 ≤ mbArg m 8 1 → mbArg m 8 1 ≤ 5 → mbArg m 9 1 = 1 → mbArg m 10 1 = 0 →
      exec (.move k) s = .next (settled s (settleMoves (requestMoves k (mbTask m) (mbArg m 8 1) (some true) (mbArg m 4 4) b (mbArg m 0 4)))))
    -- one name: created where it has no record and a tier has a frame; deleted where it is the task's; its move begun
    ∧ (mbArg m 4 4 = 1 →
      let n := mbArg m 0 4
      (∀ t f v, CommandReady s k 0x0401 (fun l => l == 12) → 1 ≤ mbArg m 8 1 → mbArg m 8 1 ≤ 5 → mbArg m 9 1 < 2 → mbArg m 10 1 = 0 →
        mbArg m 11 1 ≤ 1 → namePopulated b n = true → nameRec b n = none →
        let task : BitVec 16 := BitVec.ofNat 16 (mbTask m)
        let policy := decide (mbArg m 11 1 = 1)
        allocIn b task.toNat policy (nameOnly b n (mbArg m 8 1)) 6 (mbArg m 8 1) = .ok (t, f, v) →
        let prot : Fin 4 := ⟨mbArg m 9 1 % 4, by omega⟩
        let age : BitVec 16 := BitVec.ofNat 16 (homEpoch v (nameManger n))
        let h : HomeRec := { tier := asTier t, pin := false, prot := prot, policy := policy, task := task, frame := f, age := age }
        exec (.nameCreate k) s = .next (settled s (mbComplete (keepQuota (putRec v n h) task.toNat) k 0 [(4, 1)] 0xFFFF)))
      ∧ (∀ r, CommandReady s k 0x0402 (fun l => l == 8) → nameRec b n = some r → r.task.toNat = mbTask m →
        (∀ j ∈ b.homes.moves, j.name ≠ n) →
        let u := onHomes b (fun h => { h with moveQueue := h.moveQueue.filter (fun e => e.1.name != n) })
        exec (.nameDelete k) s = .next (settled s (mbComplete (keepQuota (invalidate (delRec u n) n) (mbTask m)) k 0 [(4, 1)] 0xFFFF)))
      ∧ (∀ r t f v, CommandReady s k 0x0403 (fun l => l == 11) → 1 ≤ mbArg m 8 1 → mbArg m 8 1 ≤ 5 → mbArg m 9 1 = 0 → mbArg m 10 1 = 0 →
        nameRec b n = some r → r.task.toNat = mbTask m → r.move = 0 → (∀ e ∈ b.homes.moveQueue, e.1.name ≠ n) →
        (mangerMoves b (nameManger n)).length < 4 →
        allocIn (setMove b n 1) r.task.toNat r.policy (nameOnly b n (mbArg m 8 1)) 6 (mbArg m 8 1) = .ok (t, f, v) →
        let u := keepQuota (invalidate (putRec v n { r with move := 1, dtier := asTier t, dframe := f }) n) r.task.toNat
        exec (.move k) s = .next (settled s (settleMoves (onHomes u (fun h =>
          { h with moves := h.moves ++ [{ moveOf n with slot := some k }] })))))))
  ∧ (∀ (one : State → Nat → Except Nat State) (n : Nat) (s : State) (a c : Nat),
    (∀ u, one s a = .ok u → takeNames one (n + 1) s a c = takeNames one n u (a + 1) (c + 1))
    ∧ (∀ e, one s a = .error e → takeNames one (n + 1) s a c = (c, e, s)))

/-- Derived from 10 R291, R302, R510: a name created has a record that it did not have, of its task, pinned as asked, in no
move; a deleted one had one of its task and has none. -/
def Obligations.NamesComeAndGo : Prop :=
  (∀ (s t : State) (task : BitVec 16) (tier policy n : Nat) (pin p : Bool), 1 ≤ tier → tier ≤ 5 →
    createName s task tier policy pin p n = .ok t →
    nameRec s n = none ∧ ∃ h, nameRec t n = some h ∧ h.task = task ∧ h.pin = pin ∧ h.move = 0 ∧ h.suspect = false)
  ∧ (∀ (s t : State) (task n : Nat), deleteName s task n = .ok t →
    (∀ j ∈ s.homes.moves, j.held = []) → nameRec t n = none ∧ ∃ h, nameRec s n = some h ∧ h.task.toNat = task)

/-- Derived from 10 R295, R300, R308, R310, R315, 13 R396, R407: the other MEMORY commands. -/
def Obligations.MemoryMailboxCommandsComplete : Prop :=
  ∀ (s : State) (k : MbSlot),
    let b := mbBegin s k
    let m := mbOf s k
    (∀ u, CommandReady s k 0x0404 (fun l => decide (mbArg m 4 4 ≤ 248) && l == 8 + 16 * mbArg m 4 4) →
      let ws := (List.range (mbArg m 4 4)).map (fun j => mbArg m (8 + 16 * j) 16)
      mbArg m 0 4 < 1048576 → 1 ≤ mbArg m 4 4 → mbArg m 0 4 + mbArg m 4 4 ≤ 1048576 → ws.findIdx? (fun w => !hostWinLegal w) = none →
      takeBitmaps ((List.range (ceilDiv (mbArg m 0 4 % 512 + mbArg m 4 4) 512)).map (fun j => mbArg m 0 4 / 512 + j)) b = some u →
      exec (.hostwinSet k) s
        = .next (settled s (mbOk (each ws.zipIdx (fun s e => setHostWin s (mbArg m 0 4 + e.2) e.1) u) k [(4, mbArg m 4 4)])))
    ∧ (CommandReady s k 0x0405 (fun l => l == 8) → mbArg m 0 4 < 1048576 → mbArg m 0 4 + mbArg m 4 4 ≤ 1048576 →
      let hit (j : Nat) : Bool := decide (mbArg m 0 4 ≤ j ∧ j < mbArg m 0 4 + mbArg m 4 4)
      exec (.hostwinClear k) s = .next (settled s (mbOk (onHomes b (fun h =>
        { h with hostwin := h.hostwin.filter (fun e => !hit e.1)
                 bitmaps := h.bitmaps.filter (fun x => (h.hostwin.filter (fun e => !hit e.1)).any (fun e => e.1 / 512 == x.1)) }))
        k [(4, (b.homes.hostwin.filter (fun e => hit e.1)).length)])))
    ∧ (CommandReady s k 0x0406 (fun l => l == 1) →
      (mbArg m 0 1 ≤ 1 → exec (.loftMode k) s = .next (settled s (mbOk (setF b (mangerReg 0 0x500000) 1 1 (mbArg m 0 1)) k [])))
      ∧ (2 ≤ mbArg m 0 1 → exec (.loftMode k) s = .next (settled s (mbIllegal b k 0))))
    ∧ (CommandReady s k 0x0407 (fun l => l == 1) → mbArg m 0 1 = 1 → exec (.bands k) s = .next (settled s (bandsTo b k
        (decide (protBands b < 7680) && (bandFrames b).all (fun f => !(usedFrames b 1).contains f)) (protBands b + 1))))
    ∧ (CommandReady s k 0x0407 (fun l => l == 1) →
      (mbArg m 0 1 = 1 → protBands b < 7680 → (∀ f ∈ bandFrames b, f ∉ usedFrames b 1) → exec (.bands k) s = .next (settled s
        (mbOk (bandsStatus (setF b (mangerReg 0 0x500008) 0 13 (protBands b + 1)) 0) k [(2, protBands b + 1)])))
      ∧ (mbArg m 0 1 = 0xFF → 3 < protBands b → (∀ i < 112, (protBands b - 1) * 112 + i ∉ usedFrames b 2) →
        exec (.bands k) s = .next (settled s
          (mbOk (bandsStatus (setF b (mangerReg 0 0x500008) 0 13 (protBands b - 1)) 0) k [(2, protBands b - 1)]))))
    ∧ (CommandReady s k 0x0408 (fun l => l == 4) → 1 ≤ mbArg m 0 1 → mbArg m 0 1 ≤ 5 → mbArg m 1 1 ≤ 1 →
      (mbArg m 1 1 = getF b (homTier (mbArg m 0 1)) 0 1 ∨ tierInUse b (mbArg m 0 1) = false) →
      exec (.tierMode k) s = .next (settled s (mbOk
        (writeReg b (homTier (mbArg m 0 1)) (mbArg m 1 1 + mbArg m 2 1 <<< 8 + mbArg m 3 1 <<< 16) 0xFFFF01) k [])))
    ∧ (∀ p, CommandReady s k 0x0409 (fun l => l == 25) → taskExists b (mbArg m 0 2) = true → mbArg m 24 1 ≤ 1 →
      quotaPlace b (mbArg m 0 2) = some p →
      exec (.quota k) s = .next (settled s (mbOk (putBytes b p (mbBytes m 4 20 ++ toBytes 4 (mbArg m 24 1))) k [])))
    ∧ (∀ a u v, CommandReady s k 0x040A (fun l => l == 4 || (decide (8 ≤ l) && l % 8 == 0)) → mbArg m 0 4 < 2048 →
      (areaAsks m).findIdx? (fun q => !areaLegal q) = none →
      freeRun (pick b 983040).2 (4 * mbArg m 0 4 + ((areaAsks m).map (·.segs)).foldl (· + ·) 0) (b.homes.table.length + 2)
        (pick b 983040).1 = some a →
      (if mbArg m 0 4 = 0 then .ok (pick b 983040).2
        else createShedAreas (BitVec.ofNat 16 (mbTask m)) (mbArg m 0 4) [0, 1, 2, 3] (pick b 983040).2 a) = .ok u →
      createAreas (BitVec.ofNat 16 (mbTask m)) (areaAsks m) u (a + 4 * mbArg m 0 4) = .ok v →
      exec (.spillAreas k) s = .next (settled s (mbOk v k [(4, a)])))

/-- Derived from 07 R206, R213, R226, 10 R320, 13 R407, 16 R471, R472, R475, R476: the PARAM commands and the reading of a
point's sets. -/
def Obligations.ParamCommandsComplete : Prop :=
  (∀ (s : State) (k : MbSlot),
    let b := mbBegin s k
    let m := mbOf s k
    (CommandReady s k 0x0501 (fun l => l == 40) → mbArg m 0 8 < 2 ^ 48 → mbArg m 0 8 % 256 = 0 →
      (∀ o, o = 16 ∨ o = 24 → field (mbArg m o 8) 27 5 = 0 ∧ field (mbArg m o 8) 43 21 = 0) →
      exec (.setTable k) s = .next (settled s (mbOk (each allMangers (fun s g => setReg s (mangerReg g 0x300018) (BitVec.ofNat 64 (mbArg m 32 8)))
        (setReg (setReg (setReg b (mangerReg 0 0x300000) (BitVec.ofNat 64 (mbArg m 0 8 + mbArg m 8 2 <<< 48)))
          (poolReg false) (BitVec.ofNat 64 (mbArg m 16 8))) (poolReg true) (BitVec.ofNat 64 (mbArg m 24 8)))) k [])))
    ∧ (CommandReady s k 0x0502 (fun l => decide (2 ≤ l ∧ l ≤ 10) && l % 2 == 0) →
      exec (.restoreList k) s = .next (settled s (mbOk (onHomes b (fun h => { h with
        restoreLists := mset h.restoreLists [] (mbArg m 0 2) ((List.range ((mbLen m - 2) / 2)).map (fun i => BitVec.ofNat 16 (mbArg m (2 + 2 * i) 2))) })) k [])))
    ∧ (∀ d, CommandReady s k 0x0503 (fun l => l == 12) → setDesc b (BitVec.ofNat 16 (mbArg m 0 2)) = some d → sdLegal d = true →
      let x := pushRegenerates (BitVec.ofNat 16 (mbArg m 0 2)) d (pick b 2).1 (mbArg m 8 4) (pick b 2).2 (mbArg m 4 4) 0
      exec (.regenerate k) s = .next (settled s (mbComplete x.2.2 k x.2.1 [(4, x.1)] 0xFFFF))
      ∧ (∀ r u, mbArg m 8 4 = 1 → mbArg m 4 4 < sdShards d → shardRec (pick b 2).2 d (BitVec.ofNat 24 (mbArg m 4 4)) = some r →
        pushTrigger (pick b 2).2 (srEng r) (triggerWord (BitVec.ofNat 16 (mbArg m 0 2)) (BitVec.ofNat 24 (mbArg m 4 4)) (pick b 2).1 1) = some u →
        exec (.regenerate k) s = .next (settled s (mbComplete u k 0 [(4, 1)] 0xFFFF))))
    ∧ (CommandReady s k 0x0504 (fun l => decide (16 ≤ l ∧ l ≤ 520) && l % 8 == 0) → 5 ≤ mbArg m 0 1 → mbArg m 0 1 ≤ 7 →
      (∀ g, progInUse b g (mbArg m 0 1) = false) →
      exec (.program k) s = .next (settled s (mbOk (each allMangers (fun s g => each (List.range ((mbLen m - 8) / 8)) (fun s i =>
        setReg s (progReg g (mbArg m 0 1) i) (BitVec.ofNat 64 (mbArg m (8 + 8 * i) 8))) s) b) k [])))
    ∧ (CommandReady s k 0x0505 (fun l => l == 10) →
      (b.svc.point.isSome = true → exec (.securePoint k) s = .next (settled s (mbFail b k 0x0B02)))
      ∧ (b.svc.point = none → BitVec.ofNat 16 (mbArg m 8 2) = ownModule b → hostWritable b (mbArg m 0 8) 128 = true →
        let sets := ownedSets b
        let nsec := sumOf (sets.map (fun e => if sdBrec e.2 = 0 then 2 else 3)) + 2
        let p : Point := {
          id := BitVec.ofNat 64 ((b.svc.pointsTaken + 1) % 2 ^ 48 + (ownModule b).toNat <<< 48), module := ownModule b
          target := mbArg m 0 8, slot := some k, setsLeft := sets.map Prod.fst
          stood := sets.filterMap (fun e => (setStands b e.2).map (fun st => (e.1, st))), nsec := nsec, next := 128 + 64 * nsec }
        exec (.securePoint k) s = .next (settled s (writeHostPieces
          (onSvc b (fun v => { v with pointsTaken := b.svc.pointsTaken + 1, point := some p })) (pieces (mbArg m 0 8) 128)
          (headerBytes p false))))
      ∧ (b.svc.point = none → BitVec.ofNat 16 (mbArg m 8 2) ≠ ownModule b → mbArg m 0 8 = 0 →
        let id := (b.svc.pointsTaken + 1) % 2 ^ 48 + (ownModule b).toNat <<< 48
        let sets := ownedSets b
        let nsec := sumOf (sets.map (fun e => if sdBrec e.2 = 0 then 2 else 3)) + 2
        let p : Point := {
          id := BitVec.ofNat 64 id, module := BitVec.ofNat 16 (mbArg m 8 2), target := partnerPlace id, slot := some k
          setsLeft := sets.map Prod.fst
          stood := sets.filterMap (fun e => (setStands b e.2).map (fun st => (e.1, st))), nsec := nsec, next := 128 + 64 * nsec }
        exec (.securePoint k) s = .next (settled s (settlePoint (writePartner p.module
          (onSvc b (fun v => { v with pointsTaken := b.svc.pointsTaken + 1, point := some p }))
          (chunk 4096 (headerBytes p false)) (partnerPlace id))))))
    ∧ (CommandReady s k 0x0506 (fun l => l == 10) → liveRegions b = [] → (∀ e ∈ b.upd.engines, e.2.ring = []) → b.svc.restore = none →
      (BitVec.ofNat 16 (mbArg m 8 2) ≠ ownModule b → exec (.restore k) s = .next (settled s (settleRestore (onSvc b (fun v => { v with
        restore := some {
          slot := k, id := BitVec.ofNat 64 (mbArg m 0 8), module := BitVec.ofNat 16 (mbArg m 8 2)
          base := partnerPlace (BitVec.ofNat 64 (mbArg m 0 8)).toNat, asked := 0 } })))))
      ∧ (∀ p img, BitVec.ofNat 16 (mbArg m 8 2) = ownModule b →
        b.svc.points.find? (fun p => p.id == BitVec.ofNat 64 (mbArg m 0 8) && p.module == BitVec.ofNat 16 (mbArg m 8 2)) = some p →
        hostImage b p.target = some img →
        exec (.restore k) s = .next (settled s (applyImage b k (BitVec.ofNat 64 (mbArg m 0 8)) img))
        ∧ (imgSound b (BitVec.ofNat 64 (mbArg m 0 8)) img = true →
          let u := each (imgSections img) (restoreSection (imgStep img) img) b
          let v := each (ownedSets u) (fun s e => each (localShards s e.2) (fun s x => announceShard s e.1 x.1 e.2 x.2) s) u
          let w := each (ownedSets u) (fun s e => openGate s e.2) (awaitStep v (imgStep img))
          exec (.restore k) s = .next (settled s (mbOk
            (emit w (srcGroom w) 0x0B89 ((BitVec.ofNat 64 (mbArg m 0 8) : Word).toNat % 2 ^ 48) (imgStep img)) k [(8, imgStep img)]))))))
  ∧ (∀ (s : State) (set : BitVec 16) (d st : Nat) (p : Point), poweredUp s = true → s.svc.point = some p →
    (ownedSets s).find? (fun e => e.1 == set) = some (set, d) → set ∈ p.setsLeft → setStands s d = some st → p.fixed = true → st = p.step →
    exec (.securePointSetRead set) s = .next (settled s (settlePoint (readSet s set d st))))
  ∧ (∀ (s : State) (set : BitVec 16) (d st : Nat) (p : Point),
    (sdBrec d = 0 →
      let u := writeSection s 1 set (shardData s d)
      let v := onPoint (writeSection u 3 set (journalData u d)) (fun p => { p with setsLeft := p.setsLeft.filter (fun x => x != set) })
      readSet s set d st = unpark v (fun p => if p.reason = .point ∧ p.run.set = set then some p.run else none))
    ∧ (∀ kind x, s.svc.point = some p →
      let e : Section := { kind := kind, set := set, off := p.next, len := x.length, dig := Config.digest 0 x }
      let u := onPoint s (fun q => { q with sections := q.sections ++ [e], next := q.next + ceilDiv x.length 64 * 64 })
      writeSection s kind set x = writeImageAt (writeImageAt u p p.next x) p (128 + 64 * p.sections.length) (entryBytes e))
    ∧ (∀ off x, p.module = ownModule s → hostWritable s (p.target + off) x.length = true →
      writeImageAt s p off x = writeHostPieces s (pieces (p.target + off) x.length) x)
    ∧ (s.svc.point = some p → p.failed = 0 → (p.fixed = false ∨ p.setsLeft ≠ []) → settlePoint s = s))

/-- Derived from 12 R365, R368, R369, R370, R373, R374, R380, R381, R382, R383, 13 R407: the FABRIC commands. -/
def Obligations.FabricMailboxCommandsComplete : Prop :=
  ∀ (s : State) (k : MbSlot),
    let b := mbBegin s k
    let m := mbOf s k
    (CommandReady s k 0x0701 (fun l => l == 5) → mbArg m 0 2 ≠ 0xFFFF → mbArg m 4 1 ≤ 2 → (mbArg m 4 1 = 2 → mbArg m 2 2 ≠ 0xFFFF) →
      exec (.fabId k) s = .next (settled s (mbOk (pumpAll (setFabId b (mbArg m 0 2) (mbArg m 2 2) (mbArg m 4 1))) k [])))
    ∧ (CommandReady s k 0x0702 (fun l => l == 35) →
      let others := b.fab.admission.filter (fun e => e.1 != BitVec.ofNat 256 (mbArg m 0 32))
      (mbArg m 34 1 = 1 → exec (.admitPeer k) s = .next (settled s (mbOk (onFab b (fun f => { f with admission := others })) k [])))
      ∧ (mbArg m 34 1 = 0 → mbArg m 32 2 ≠ 0xFFFF → mbArg m 32 2 < 2 ^ 16 → others.length < 65535 →
        exec (.admitPeer k) s = .next (settled s (mbOk (onFab b (fun f =>
          { f with admission := others ++ [(BitVec.ofNat 256 (mbArg m 0 32), BitVec.ofNat 16 (mbArg m 32 2))] })) k []))))
    ∧ (CommandReady s k 0x0703 (fun l => decide (mbArg m 2 2 ≤ 496) && l == 8 + 8 * mbArg m 2 2) → mbArg m 0 2 + mbArg m 2 2 ≤ 65536 →
      let es := (List.range (mbArg m 2 2)).map (fun i => mbArg m (8 + 8 * i) 8)
      es.findIdx? (fun e => !routeLegal e) = none →
      exec (.route k) s = .next (settled s (mbOk (sendWaiting (each es.zipIdx
        (fun s e => setSheds s (0x1000000 + 8 * (mbArg m 0 2 + e.2)) (BitVec.ofNat 64 e.1)) b)) k [])))
    ∧ (CommandReady s k 0x0704 (fun l => decide (mbArg m 3 1 ≤ 124) && l == 8 + 32 * mbArg m 3 1) → mbArg m 0 1 < 16 → mbArg m 1 1 < 64 →
      mbArg m 2 1 + mbArg m 3 1 ≤ 256 →
      let es := (List.range (mbArg m 3 1)).map (fun i => mbArg m (8 + 32 * i) 32)
      (∀ e ∈ es, feValid e = true → feLegal e = true) →
      exec (.flow k) s = .next (settled s (mbOk (each es.zipIdx
        (fun s e => putFlowEntry s (16384 * mbArg m 0 1 + 256 * mbArg m 1 1 + mbArg m 2 1 + e.2) e.1) b) k [])))
    ∧ (CommandReady s k 0x0705 (fun l => l == 2) → mbArg m 0 1 < 64 → mbArg m 1 1 < 16 →
      (let r := asRegion (mbArg m 0 1)
      let g := shedReg 0 (0x30 + 8 * (r.val / 16))
      (∀ x : Shed, flowReserve b x (some (r.val, mbArg m 1 1)) ≤ getF b (shedReg x 0x10) 0 18) → exec (.flowSelect k) s
        = .next (settled s (mbOk (setReg b g (BitVec.ofNat 64 (setBits (getReg b g).toNat (4 * (r.val % 16)) 4 (mbArg m 1 1)))) k [])))
      ∧ ((flowSelect b (asRegion (mbArg m 0 1)) (mbArg m 1 1)).1 = 0 → exec (.flowSelect k) s
        = .next (settled s (mbOk (flowSelect b (asRegion (mbArg m 0 1)) (mbArg m 1 1)).2 k [])))
      ∧ ((flowSelect b (asRegion (mbArg m 0 1)) (mbArg m 1 1)).1 ≠ 0 → exec (.flowSelect k) s
        = .next (settled s (mbFail b k (flowSelect b (asRegion (mbArg m 0 1)) (mbArg m 1 1)).1))))
    ∧ (CommandReady s k 0x0706 (fun l => l == 2) → mbArg m 0 2 < 16384 →
      let i := flowIndex b (BitVec.ofNat 16 (mbArg m 0 2))
      exec (.flowFlush k) s = .next (settled s (mbOk (replayStep (pumpReduction (discardFlow b i)) 3) k [(4, flowFlits b i)])))
    ∧ (∀ p : Port, CommandReady s k 0x0707 (fun l => l == 2) → mbArg m 0 1 = p.val →
      (mbArg m 1 1 = 0 → exec (.port k) s = .next (settled s (mbOk (enablePort b p) k [(1, portState (enablePort b p) p)])))
      ∧ (mbArg m 1 1 = 1 → exec (.port k) s = .next (settled s (mbOk (disablePort b p) k [(1, portState (disablePort b p) p)])))
      ∧ (mbArg m 1 1 = 2 → exec (.port k) s = .next (settled s (mbOk (endQuarantine b p) k [(1, portState (endQuarantine b p) p)])))
      ∧ (3 ≤ mbArg m 1 1 → exec (.port k) s = .next (settled s (mbIllegal b k 1))))
    ∧ (CommandReady s k 0x0708 (fun l => l == 2) → mbArg m 0 2 ≠ 0xFFFF → fabRole b = 2 → liveModule b (mbArg m 0 2) = false →
      ownModule b ≠ BitVec.ofNat 16 (mbArg m 0 2) →
      let sp := getF b (shedReg 0 0) 16 16
      let u := emit (onFab (setFabId (arraysCold b) (mbArg m 0 2) sp 1) (fun f => { f with takeoverSeq := f.takeoverSeq + 1 }))
        (srcShed 0 0x3F) 0x0589 (mbArg m 0 2) sp
      exec (.takeover k) s = .next (settled s (mbOk
        (pumpAll (floodTakeover u (BitVec.ofNat 16 (mbArg m 0 2)) (BitVec.ofNat 16 sp) u.fab.takeoverSeq none)) k [])))

/-! ## Power and the input (14) -/

/-- Derived from 14 R421–R428, R430, R431, R438: the POWER commands: a request for RUN is an exit, a refused one has its status,
a begun entry is carried from abort point to abort point; caps lie between steps 7 and 31. A wake before the fifth abort point
abandons an entry there: the event names the point and the source, the command ends with 0x0603. -/
def Obligations.PowerCommandsComplete : Prop :=
  (∀ (s : State) (k : MbSlot),
    let b := mbBegin s k
    let m := mbOf s k
    (CommandReady s k 0x0801 (fun l => l == 16) → s.power.entry = none →
      (mbArg m 0 1 = 0 → exec (.powerState k) s = .next (settled s (mbOk (exitToRun b true (mbArg m 8 8)) k [(1, 0)])))
      ∧ (∀ t : Fin 4, mbArg m 0 1 = t.val → t ≠ 0 → entryCheck b t.val (mbArg m 8 8) = 0 →
        exec (.powerState k) s = .next (settled s (beginEntry b k t (mbArg m 8 8))))
      ∧ (∀ t : Fin 4, mbArg m 0 1 = t.val → t ≠ 0 → entryCheck b t.val (mbArg m 8 8) ≠ 0 →
        exec (.powerState k) s = .next (settled s (mbFail b k (entryCheck b t.val (mbArg m 8 8))))))
    ∧ (∀ e, poweredUp s = true → s.power.entry = some e → e.slot = k → mbBegun m = true → e.wake = none →
      (getF s pwrState 3 3 = 1 → quiesced s e = false → exec (.powerState k) s = .next (settled s s))
      ∧ (getF s pwrState 3 3 = 1 → quiesced s e = true → exec (.powerState k) s = .next (settled s (setF s pwrState 3 3 2)))
      ∧ (2 ≤ getF s pwrState 3 3 → getF s pwrState 3 3 < 5 →
        exec (.powerState k) s = .next (settled s (setF s pwrState 3 3 (getF s pwrState 3 3 + 1))))
      ∧ (5 ≤ getF s pwrState 3 3 → exec (.powerState k) s = .next (settled s (finishEntry s e))))
    ∧ (CommandReady s k 0x0802 (fun l => decide (1 ≤ l ∧ l ≤ 32)) → exec (.powerCap k) s = .next (settled s (mbOk (settleIslands b
        (each ((List.finRange 32).filter (fun st => st.val < mbLen m)) (fun s st => each (List.finRange 16) (fun s i =>
          setF s (stallReg st (0x100 + 8 * i.val)) 8 5 (max 7 (min 31 (mbArg m st.val 1)))) s) b) allIslands) k [])))
    ∧ (CommandReady s k 0x0803 (fun l => l == 0) → exec (.telemetry k) s = .next (settled s
        (mbOk { b with draws := b.draws + 1 } k ((List.range 8).map (fun i => (8, Config.telemetry i b.draws)))))))
  ∧ (∀ (s : State) (k : MbSlot) (e : PwrEntry) (w : Fin 4), poweredUp s = true → s.power.entry = some e → e.slot = k →
    mbBegun (mbOf s k) = true → e.wake = some w → 2 ≤ getF s pwrState 3 3 → getF s pwrState 3 3 < 5 →
    exec (.powerState k) s = .next (settled s (abandonEntry s e (getF s pwrState 3 3 + 1) 0x0603 w.val))
    ∧ ((abandonEntry s e (getF s pwrState 3 3 + 1) 0x0603 w.val).power.entry = none))
  ∧ (∀ (s : State) (k : MbSlot) (e : PwrEntry) (w : Fin 4), poweredUp s = true → s.power.entry = some e → e.slot = k →
    mbBegun (mbOf s k) = true → e.wake = some w → 5 ≤ getF s pwrState 3 3 →
    (2 ≤ e.target.val → exec (.powerState k) s = .next (settled s (exitToRun (enterState s e) false 0)))
    ∧ (e.target.val < 2 → exec (.powerState k) s = .next (settled s (enterState s e))))

/-- Derived from 02 R53, 14 R426, R427, R429, R431, R432, R434, R435, R436, R437, R438, R439: what the input's voltage does: a
warning holds islands at step 15 until the recovery. Limits of the islands, the wake timer, the quiesce time, and the pads. -/
def Obligations.InputAndLimitsComplete : Prop :=
  ((∀ (s : State) (mv : BitVec 16) (good : Bool), poweredUp s = true → inputWarn s = false →
    (mv.toNat < 4500 ∨ good = false) →
    let u := setF (onPower s (fun p => { p with pwrgd := good })) (shedReg 0 0x300010) 1 1 (flag good)
    let v := onPower (setF (setF u pwrInput 0 16 mv.toNat) pwrInput 48 3 1) (fun p => { p with
      warnSince := some u.time, lowest := BitVec.ofNat 16 mv.toNat, recoverSince := none })
    inputWarn u = false → exec (.inputWarning mv good) s
      = .next (ended s (settleIslands u (emit (satF v pwrCnt 0 16 1) srcAon 0x0682 mv.toNat (flag (!good))) allIslands)))
  ∧ (∀ (s : State) (mv : BitVec 16), poweredUp s = true → inputWarn s = true →
    (4600 < mv.toNat →
      exec (.recoveryRestart mv) s = .next (ended s
        (onPower (setF (setF s pwrInput 0 16 mv.toNat) pwrInput 48 3 2) (fun p => { p with recoverSince := some s.time })))
      ∧ exec (.inputRecovered mv) s = .next (ended s (settleIslands s (emit (setF (onPower
        (setF (setF s pwrInput 0 16 mv.toNat) pwrInput 48 3 0) (fun p => { p with pwrgd := true, warnSince := none, recoverSince := none }))
        (shedReg 0 0x300010) 1 1 1) srcAon 0x0683 s.power.lowest.toNat ((s.time - s.power.warnSince.getD s.time) / 1000)) allIslands)))
    ∧ (mv.toNat ≤ 4600 → exec (.recoveryRestart mv) s = .next (ended s
        (onPower (setF (lower s mv.toNat) pwrInput 48 3 1) (fun p => { p with recoverSince := none })))))
  ∧ (∀ (s : State) (mv : BitVec 16), s.power.on = true →
    (mv.toNat < 4100 → exec (.powerFail mv) s = .next (ended s (powerFailStop s mv.toNat 1)))
    ∧ (6300 < mv.toNat → exec (.overVoltage mv) s = .next (ended s (stopHard s 1 2))))
  ∧ (∀ (s : State) (mv : BitVec 16), poweredUp s = true → 6050 < mv.toNat → s.host.highAt = none →
    exec (.highInput mv) s = .next (ended s (emit
      (onHost (setF s pwrInput 0 16 mv.toNat) (fun h => { h with highAt := some s.time })) srcAon 0x0688 mv.toNat 0)))
  ∧ (∀ (s : State) (mv : BitVec 16) (slot : Fin 8), s.power.on = false →
    (s.power.cause = 1 → 4600 < mv.toNat → exec (.inputRestart mv) s = .next (ended s (startFrom s 1 mv.toNat)))
    ∧ (s.power.cause = 2 → mv.toNat < 6000 → exec (.inputRestart mv) s = .next (ended s (startFrom s 2 mv.toNat)))
    ∧ (4600 < mv.toNat → mv.toNat ≤ 6000 → exec (.coldStart mv slot) s
        = .next (ended s (startFrom (onPower s (fun p => { p with strap := slot })) s.power.cause mv.toNat)))))
  ∧ ((∀ (s : State) (st : Stall) (on : Bool) (x : Fin 32), poweredUp s = true →
    exec (.thermalLimit st on x) s = .next (ended s (setAllLimits s ((List.finRange 16).map (fun i => (st, i)))
      (fun _ _ _ l => { l with thermal := if on then some (asStep x.val) else none }))))
  ∧ (∀ (s : State) (ma : BitVec 16), poweredUp s = true →
    let u := setF s pwrInput 16 16 ma.toNat
    (ma.toNat ≤ 16000 → exec (.overCurrent ma) s = .next (ended s (setAllLimits u allIslands (fun _ _ _ l => { l with current := 31 }))))
    ∧ (16000 < ma.toNat → exec (.overCurrent ma) s = .next (ended s
        (setAllLimits (satF (unstated u 0x40).2 pwrCnt 48 16 1) allIslands (fun s st i l =>
          { l with current := asStep (islandStep s st i - 1 - (unstated u 0x40).1 % max 1 (islandStep s st i)) })))))
  ∧ (∀ (s : State) (w : BitVec 16), poweredUp s = true →
    let u := (unstated (setF s pwrInput 32 16 w.toNat) 0x41).2
    let d := (unstated (setF s pwrInput 32 16 w.toNat) 0x41).1
    (getF u (aonReg 0x18) 0 16 < w.toNat → exec (.powerCapInterval w) s = .next (ended s (setAllLimits u allIslands (fun s st i l =>
      { l with module := asStep (min l.module.val (max 7 (islandStep s st i - 1 - d % 31))) }))))
    ∧ (w.toNat ≤ getF u (aonReg 0x18) 0 16 → exec (.powerCapInterval w) s = .next (ended s (setAllLimits u allIslands
        (fun _ _ _ l => { l with module := asStep (l.module.val + d % 32) })))))
  ∧ (∀ s : State, s.power.on = true → pstate s = 3 → wakeEnabled s 2 = true → getF s (aonReg 0x28) 0 32 ≠ 0 →
    exec .wakeTimer s = .next (ended s (wakeBy s 2))
    ∧ (s.power.entry = none → exec .wakeTimer s = .next (ended s (exitToRun s false 0))))
  ∧ (∀ (s : State) (e : PwrEntry), poweredUp s = true → s.power.entry = some e → getF s pwrState 3 3 = 1 → quiesced s e = false →
    exec .quiesceTimeout s = .next (ended s (abandonEntry (unstated s 0x42).2 e 2 0x0605
      (match e.wake with | some w => w.val | none => (unstated s 0x42).1 % 4))))
  ∧ (∀ (s : State) (w : Word), s.power.on = true →
    exec (.padRelease w) s = .next (ended s (writeReg s (aonReg 0x30) w.toNat (2 ^ 64 - 1)))))

/-- Derived from 14 R416, R433, R434, R435: a stop of the module leaves its flag in the retention latch and its cause, the rails
off, and no command waiting but those that waited. -/
def Obligations.StopsLoseWhatIsVolatile : Prop :=
  (∀ (s : State) (mv : BitVec 16), s.power.on = true → 6300 < mv.toNat →
    ∃ t, exec (.overVoltage mv) s = .next t ∧ t.power.on = false ∧ t.power.cause = 2 ∧ getF t pwrRetain 1 1 = 1
      ∧ t.host.posted = [] ∧ t.homes.table = [] ∧ t.svc.repairs = s.svc.repairs ∧ t.sec.svn = s.sec.svn ∧ t.pending = s.pending)
  ∧ (∀ (s : State) (ma : Nat), s.power.on = true → pstate s = 3 → 40 < ma →
    exec (.brownOut ma) s = .next (ended s (stopHard s 0 3)))
  ∧ (∀ (s : State) (st : Stall), poweredUp s = true → stallState s st ≠ .failed →
    exec (.thermalTrip st) s = .next (ended s (onPower (stopHard s 3 5) (fun p => { p with tripped := true }))))

/-! ## The management bus and the scan port (15) -/

/-- Derived from 15 R448, R451, R452, R453: what the management bus's messages do where the bus is served, and the scan port's
instructions. -/
def Obligations.ManagementBusCompletes : Prop :=
  (∀ s : State, busUp s = true →
    (∀ a, exec (.dynamicAddressAssignment a) s = .next (ended s (onPower s (fun p => { p with dynAddr := some a }))))
    ∧ (∀ e, exec (.mctpControl (.setEid e)) s = .next (ended s (busAnswer (onPower s (fun p => { p with eid := e })) 0 [])))
    ∧ exec (.mctpControl .getEid) s = .next (ended s (busAnswer s 0 [s.power.eid]))
    ∧ (∀ id, id < 3 → exec (.pldmRequest (.sensor id)) s
        = .next (ended s (busAnswer { s with draws := s.draws + 1 } 0 (toBytes 2 (sensorReading s id)))))
    ∧ exec .retain s = .next (ended s (busAnswer s 0
        (toBytes 8 (readReg s pwrRetain) ++ toBytes 8 (readReg s pwrState) ++ toBytes 8 (readReg s (shedReg 0 0x300000)))))
    ∧ (∀ n, n.toNat ≠ serialNumber % 2 ^ 32 → exec (.moduleReset n) s = .next (ended s (busAnswer s 1 [])))
    ∧ (∀ n, n.toNat = serialNumber % 2 ^ 32 → s.power.on = true → exec (.moduleReset n) s
        = .next (ended s (busAnswer (startFrom (powerFailStop s (lastInput s) 4) 4 (lastInput s)) 0 [])))
    ∧ (∀ on, exec (.identifyLed on) s = .next (ended s (busAnswer (setF s (shedReg 0 0x300010) 6 1 (flag on)) 0 [])))
    ∧ (s.power.on = true → wakeEnabled s 0 = true → exec .wake s = .next (ended s (busAnswer (wakeBy s 0) 0 []))
      ∧ (s.power.entry = none → pstate s = 2 ∨ pstate s = 3 →
        exec .wake s = .next (ended s (busAnswer (exitToRun s false 0) 0 []))))
    ∧ (s.power.on = true → wakeEnabled s 0 = false → exec .wake s = .next (ended s (busAnswer s 1 []))))
  ∧ (∀ (s : State) (i : TapInstr), poweredUp s = true →
    let x := tapSelect s i
    let u := send (onPower s (fun p => { p with tapInstr := x })) (.tap x)
    exec (.tapInstruction i) s = .next (ended s (if x = .idcode then send u (.tapIdcode idcode) else u)))

/-! ## Continuity and security (16, 17) -/

/-- Derived from 13 R407, 16 R464, R467, R468, R478, R479, R482, R483, R484, R485, R486, R488: the SELF-TEST commands and what
ends a test; the loss of a stall, rotations and the audit of a unit. -/
def Obligations.SelfTestAndContinuityComplete : Prop :=
  ((∀ (s : State) (k : MbSlot),
    let b := mbBegin s k
    let m := mbOf s k
    (CommandReady s k 0x0A01 (fun l => l == 2) → mbBegun m = false → testing b (mbArg m 0 1) = false →
      (0x30 ≤ mbArg m 0 1 → mbArg m 0 1 ≤ 0x3F → isDie (mbArg m 0 1) = true → mbArg m 1 1 = 1 →
        exec (.bist k) s = .next (settled s (beginTest b (mbArg m 0 1) 1 k true false)))
      ∧ (mbArg m 0 1 = 0xFF → mbArg m 1 1 = 3 → exec (.bist k) s = .next (settled s (shutdownTest b k))))
    ∧ (CommandReady s k 0x0A02 (fun l => l == 4) → isDie (mbArg m 0 1) = true →
      exec (.bistResults k) s = .next (settled s (mbOk b k
        ((((mget b.svc.results [] (mbArg m 0 1)).drop (mbArg m 2 2)).take 64).map (fun f => (16, resultEntry f))))))
    ∧ (CommandReady s k 0x0A03 (fun l => l == 1) → isDie (mbArg m 0 1) = true → inService b (mbArg m 0 1) = false →
      exec (.fuseRepair k) s = .next (settled s
        (mbOk (burnDie b (mbArg m 0 1) (fun _ => true)).2 k [(2, (burnDie b (mbArg m 0 1) (fun _ => true)).1)])))
    ∧ (CommandReady s k 0x0A03 (fun l => l == 1) → isDie (mbArg m 0 1) = true → inService b (mbArg m 0 1) = true →
      b.svc.tests = [] → exec (.fuseRepair k) s = .next (settled s (mbFail b k 0x0A01)))
    ∧ (CommandReady s k 0x0A04 (fun l => l == 4) → isDie (mbArg m 0 1) = true → hasUnit (mbArg m 0 1) (mbArg m 2 2) = true →
      mbArg m 0 1 < 0x20 → exec (.retire k) s = .next (settled s (mbOk (blockFailed b (mbArg m 0 1) (mbArg m 2 2) 7).1 k []))))
  ∧ (∀ (s : State) (die : Byte) (l : List Finding) (t : TestRun), poweredUp s = true →
    s.svc.tests.find? (fun t => t.die.toNat == die.toNat) = some t →
    (t.kind = 3 → exec (.selfTestDone die l) s = .next (settled s (endShutdown s t)))
    ∧ (t.kind ≠ 3 → exec (.selfTestDone die l) s = .next (settled s (endTest (settleFindings s die.toNat l false) t))))
  ∧ (∀ (s : State) (x : Fin 16) (l : List Finding) (t : TestRun), poweredUp s = true →
    s.svc.tests.find? (fun t => t.die.toNat == 0x30 + x.val) = some t →
    let u : TestRun := { t with blocks := t.blocks + 1 }
    let v := onSvc (settleFindings s (0x30 + x.val) l false) (fun v => { v with tests := v.tests.map (fun y => if y = t then u else y) })
    exec (.loftBlockTest x l) s = .next (settled s (if 262144 ≤ u.blocks then endTest v u else v))))
  ∧ ((∀ (s : State) (st : Stall) (cause : Fin 8) (p : Nat), poweredUp s = true → st ∉ s.yard.failed →
    stallState s st = .inService → stallLp s st = some p → s.svc.rotation = none →
    let spare := mkStall (stallRow st) (outColumn s (stallRow st))
    let u := onSvc (addRepair (emit s (srcStall st 0x3F) 0x0B81 (st.val + p <<< 8) cause.val) 9 st.val 0) (fun v => { v with rotation := none })
    let t := if stallState s spare == .relay && !s.yard.relayed.contains spare then shiftLost u st p else loseContinuity u st
    exec (.stallLoss st cause) s = .next (ended s (onYard t (fun y => { y with failed := y.failed ++ [st] }))))
  ∧ (∀ (s : State) (row : Fin 4), poweredUp s = true → getF s bstCfg 0 1 = 1 →
    (nextRotation s = none → exec .rotation s = .next (ended s (rotationDue s (max 1 (getF s bstRot 0 16)))))
    ∧ (nextRotation s = some row → rowAtMark s row = false → exec .rotation s = .next (ended s (rotationDue s 1)))
    ∧ (nextRotation s = some row → rowAtMark s row = true → s.power.entry = none → pstate s = 0 → s.svc.contLost = false →
      stallState (leastTested s row).2 (leastTested s row).1 = .relay →
      let u := onSvc (leastTested s row).2 (fun v => { v with
        rotation := some { row := row, leaving := (leastTested s row).1 }, nextRow := row + 1 })
      exec .rotation s = .next (ended s (rotationDue u (max 1 (getF u bstRot 0 16))))))
  ∧ (∀ (s : State) (r : Rotation) (l : List Finding), poweredUp s = true → s.svc.rotation = some r →
    let u := onSvc s (fun v => { v with rotation := none, results := mdel v.results r.leaving.val })
    let w := heldRepairs (settleFindings u r.leaving.val l true) r.leaving.val true
    exec (.rotationTestDone true l) s = .next (ended s (emit (tested (setF w pwrDom r.leaving.val 1 0) r.leaving.val)
      (srcGroom w) 0x0B86 (r.row.val + r.leaving.val <<< 8) 0)))
  ∧ (∀ (s : State) (st : Stall) (site : Site) (seen again : StatusWord), poweredUp s = true →
    (auditCase s st (unitOf s st site) seen = .agree → exec (.unitAudit st site seen again) s = .next (ended s s))
    ∧ (auditCase s st (unitOf s st site) seen ≠ .agree →
      let low := match again with | some w => w.toNat % 2 ^ 32 | none => 0
      let u := (unstated s 0x51).2
      exec (.unitAudit st site seen again) s = .next (ended s (settleAudit
        (emit u (srcGroom u) 0x0B87 (site.val + st.val <<< 10) (low + ((unstated s 0x51).1 % 2 ^ 16) <<< 32))
        st site (auditCase u st (unitOf s st site) again)))
      ∧ (∀ v : State, settleAudit v st site .agree = v ∧ settleAudit v st site .work = v
        ∧ (∀ l, settleAudit v st site (.inactive l) = reloadUnit v st site (fun c => l.contains c && heldTokens v st site c == 0))
        ∧ (∀ w, cfgOf (unitOf v st site) (unitOf v st site).active = some w →
          settleAudit v st site .active = haltRegion v (asRegion (hdrRegion w)) 0x0B06)
        ∧ (let x : UnitSt := { active := (unitOf v st site).active, cfg := (unitOf v st site).cfg }
          settleAudit v st site .reset = replayStep (reloadUnit (putUnit v st site x) st site (fun _ => true)) 1)
        ∧ settleAudit v st site .failed = failUnit v st site 6))))

/-- Derived from 17 R494, R495, R496, R497, R498, R499, R500, R501, R502, R504, R505, R506: the SECURITY, FIRMWARE and ATTEST
commands, the SVN's advance and the identity. -/
def Obligations.SecurityCommandsComplete : Prop :=
  (∀ (s : State) (k : MbSlot),
    let b := mbBegin s k
    let m := mbOf s k
    (CommandReady s k 0x0901 (fun l => l == 2952) →
      let t := mbBytes m 0 2952
      let seq := ofBytes (cut t 20 4)
      (tokenValid b t = false → exec (.debugUnlock k) s = .next (settled s (refused (unlockEvent b seq 0x0705) k 0x0705)))
      ∧ (tokenValid b t = true → ofBytes (cut t 24 1) = 0 →
        let u := setF (satF (onSec b (fun x => { x with
          tokenSeq := some (BitVec.ofNat 32 seq), tokens := x.tokens ++ [t], scope1 := x.scope1 || false })) secStat 8 8 1) secStat 0 2 1
        exec (.debugUnlock k) s = .next (settled s (mbOk (unlockEvent u seq 0) k []))))
    ∧ (CommandReady s k 0x0902 (fun l => l == 0) →
      (b.sec.scope1 = false → exec (.scanPrepare k) s = .next (settled s (refused b k 0x0709)))
      ∧ (b.sec.scope1 = true → secretsCleared b = false →
        let u := onSec (setF (setF (setF b secStat 2 1 1) secStat 3 1 1) secStat 0 2 2) (fun x => { x with tokens := [] })
        exec (.scanPrepare k) s = .next (settled s (mbOk (emit u (srcGroom u) 0x0784 u.sec.boot 0) k []))))
    ∧ (CommandReady s k 0x0903 (fun l => l == 0) →
      exec (.debugLock k) s = .next (settled s (mbOk (unlockEvent (onSec (setF b secStat 0 2 0) (fun x => { x with scope1 := false })) 0 0) k [])))
    ∧ (CommandReady s k 0x0B01 (fun l => l == 12) → mbArg m 0 8 < 2 ^ 48 → mbArg m 8 4 ≤ 16777216 + 256 + 5836 →
      rangeCode b (mbArg m 0 8) (mbArg m 8 4) = 0 →
      let img := readRange b (mbArg m 0 8) (mbArg m 8 4)
      let u := touchRange b (mbArg m 0 8) (mbArg m 8 4)
      (poisonRange b (mbArg m 0 8) (mbArg m 8 4) = false → imageCheck b img = 0 → exec (.fwStage k) s = .next (settled s (mbOk
        (onSec (putSlot u (!b.sec.running) (some (imageHeader img))) (fun x => { x with staged := some (!b.sec.running) })) k
        [(1, flag (!b.sec.running))])))
      ∧ (poisonRange b (mbArg m 0 8) (mbArg m 8 4) = false → imageCheck b img ≠ 0 →
        let v := onSec (putSlot u (!b.sec.running) none) (fun x => { x with staged := none })
        exec (.fwStage k) s = .next (settled s (mbFail (emit v (srcGroom v) 0x0781 (flag (!b.sec.running)) (imageCheck b img)) k 0x0908))))
    ∧ (CommandReady s k 0x0B02 (fun l => l == 0) →
      (b.groom.a ≠ .standby → b.groom.b ≠ .standby → exec (.fwActivate k) s = .next (settled s (mbFail b k 0x0907)))
      ∧ (∀ i, b.groom.b = .standby → b.sec.staged = some i → imageRuns b (imageOfSlot b i) = true →
        exec (.fwActivate k) s = .next (settled s (activateStaged b k i true))))
    ∧ (CommandReady s k 0x0C01 (fun l => l == 32) →
      (secretsCleared b = true → exec (.attest k) s = .next (settled s (refused b k 0x0708)))
      ∧ (secretsCleared b = false → idReady b = false → exec (.attest k) s = .next (settled s (refused b k 0x0706)))
      ∧ (secretsCleared b = false → idReady b = true → 2 ^ 20 < b.sec.next + 512 → exec (.attest k) s = .next (settled s (refused b k 0x0707)))
      ∧ (∀ n u, secretsCleared b = false → idReady b = true → b.sec.next + 512 ≤ 2 ^ 20 → reportName b = some (n, u) →
        let i := (useIndex u).1
        let v := (useIndex u).2
        let body := reportBody v (mbBytes m 0 32) i
        let a := reportPlace v n
        let d := body ++ signed i body
        let w := onSec v (fun x => { x with reports := (x.reports ++ [a]).drop (x.reports.length - 3) })
        exec (.attest k) s = .next (settled s (mbOk
          (emit (writeMem w .groom a.toNat d false) (srcGroom w) 0x0786 i (ofBytes ((mbBytes m 0 32).take 6))) k
          [(8, a.toNat), (4, d.length)])))))
  ∧ (∀ (s : State) (v : Image), poweredUp s = true → imageOfSlot s s.sec.running = some v → s.sec.svn < min 64 v.svn.toNat →
    s.sec.runSince + 86400000000000 ≤ s.time →
    exec .svnAdvance s = .next (ended s
      (emit (onSec s (fun x => { x with svn := min 64 v.svn.toNat })) (srcGroom s) 0x0782 (min 64 v.svn.toNat) v.version.toNat)))
  ∧ (∀ s : State, poweredUp s = true → secretsCleared s = false →
    exec .identityRebuilt s = .next (ended s (pumpAll (setF s secStat 4 1 1))))

/-- Derived from 17 R493, R496, R498: the security version never falls, and only its own command raises it while the module
runs. -/
def Obligations.SvnNeverFalls : Prop :=
  ∀ s t : State, exec .svnAdvance s = .next t → s.sec.svn ≤ t.sec.svn
    ∧ (t.sec.svn ≠ s.sec.svn → s.sec.runSince + 86400000000000 ≤ s.time ∧ poweredUp s = true)

/-- Derived from 10 R316, R317, R323, 12 R378, 13 R388, R392, R393: CXL ports' links, reads of the control window, configuration
requests, and an extension's refill. -/
def Obligations.PortsAndWindowsComplete : Prop :=
  (∀ (s : State) (p : Fin 8), poweredUp s = true → cxlState s p.val = 2 →
    exec (.cxlLinkRetrain p) s = .next (ended s (onHomes (satF (setF s (cxpReg p.val 0) 0 3 1) (cxpReg p.val 0x10) 32 16 1)
      (fun h => { h with cxlWasUp := p.val :: h.cxlWasUp.filter (fun q => q != p.val), cxlDownSince := mput h.cxlDownSince p.val s.time }))))
  ∧ (∀ (s : State) (p : Fin 8) (width rate : Nat) (flash : Bool) (frames : BitVec 22), poweredUp s = true → cxlState s p.val ≤ 1 →
    let r := cxpReg p.val 0
    let u := setF (setF (setF (setF (setF s r 0 3 2) r 4 4 width) r 8 4 rate) r 12 1 (flag flash)) r 24 22 frames.toNat
    exec (.cxlPortUp p width rate flash frames) s = .next (ended s (releaseHeld
      (onHomes (setF u (cxpReg p.val 8) 8 1 1) (fun h => { h with cxlDownSince := mdel h.cxlDownSince p.val })))))
  ∧ (∀ (s : State) (off : BitVec 26) (size : Nat), poweredUp s = true → s.host.inReset = false →
    (∀ k o, cwPart off.toNat = .slot k o → size ≤ 4096 → o + size ≤ 0x1000 →
      exec (.controlWindowRead off size) s = .next (ended s (send s (.completion .success false (slotBytes (mbOf s k) o size)))))
    ∧ (∀ o, cwPart off.toNat = .status o →
      (wordSized off.toNat size = true →
        exec (.controlWindowRead off size) s = .next (ended s (send s (.completion .success false (statusBytes s o size)))))
      ∧ (wordSized off.toNat size = false →
        exec (.controlWindowRead off size) s = .next (ended s
          (send (accessEvent s off.toNat size false) (.completion .success false (List.replicate size 0))))))
    ∧ (∀ k o, cwPart off.toNat = .slot k o → 4096 < size →
      exec (.controlWindowRead off size) s = .next (ended s (readTooLarge s off.toNat size))))
  ∧ (∀ (s : State) (off : BitVec 12) (data : BitVec 32), poweredUp s = true → s.host.inReset = false →
    ((cfgSuccess s).1 = false → ∀ w, exec (.configurationRequest w off data) s
      = .next (ended s (send (cfgSuccess s).2 (.completion .retry false []))))
    ∧ ((cfgSuccess s).1 = true →
      let u := onHost (cfgSuccess s).2 (fun h => { h with cfgReady := true })
      exec (.configurationRequest false off data) s
        = .next (ended s (send u (.completion .success false (toBytes 4 (cfgWord u (off.toNat / 4))))))
      ∧ exec (.configurationRequest true off data) s = .next (ended s (send (flushPending (onHost u (fun h =>
        { h with cfgSpace := mput h.cfgSpace (off.toNat / 4) data }))) (.completion .success false [])))))
  ∧ (∀ (s : State) (flow : BitVec 16) (p : Port), poweredUp s = true → (elOf s (flowIndex s flow)).halted = false →
    exec (.flowExtensionRefill (feShed (flowEntry s (flowIndex s flow))) flow p) s = .next (ended s
      (pumpReduction (fitExt (refillFrom s flow (flowIndex s flow) p 64) (flowIndex s flow) (flowEntry s (flowIndex s flow)))))
    ∧ (∀ n r v i, (elOf s (flowIndex s flow)).ext.find? (fun e => e.1 == p) = some r →
      r.2.rstep.toNat = feStep (flowEntry s (flowIndex s flow)) →
      acceptAll s flow (flowIndex s flow) (.child p) r.2.first r.2.bales = (v, i, []) →
      let x := elOf v (flowIndex s flow)
      refillFrom s flow (flowIndex s flow) p (n + 1)
        = refillFrom (putEl v (flowIndex s flow) { x with ext := x.ext.erase r }) flow (flowIndex s flow) p n))

/-! ## The block as a whole -/

/-- Derived from 01 R36, 02 R52, R53, 13 R389, R408, 14 R434, R436, 15 R446: the commands that store nothing leave every byte of
memory, its marks, the home table, the objects, the barrows, the engines and the claimers as they were; those on the islands'
limits change, of the registers, only the input's, its counts and the sideband's, and no unit. -/
def Obligations.ControlCommandsStoreNothing : Prop :=
  (∀ (c : Instr) (s t : State), storesNothing c = true → exec c s = .next t →
    (∀ q, readByte t q = readByte s q) ∧ t.poison = s.poison ∧ t.tags = s.tags ∧ t.homes = s.homes ∧ t.sync = s.sync
    ∧ t.barrows = s.barrows ∧ t.upd = s.upd ∧ t.claimers = s.claimers ∧ t.stats = s.stats)
  ∧ (∀ (c : Instr) (s t : State), settlesLimits c = true → exec c s = .next t →
    t.yard.units = s.yard.units ∧ t.seqs = s.seqs
    ∧ ∀ a, a ≠ pwrInput → a ≠ pwrCnt → a ≠ shedReg 0 0x300010 → getReg t a = getReg s a)

/-- Derived from 13 R400, R401 (the queue is the model's, notes/assumptions/1.md): a step runs the command at the front of the
queue on the state with the queue's rest; with nothing waiting 1 ns passes (DESIGN CHOICE, notes/assumptions/2.md). -/
def Obligations.StepRunsTheFront : Prop :=
  (∀ (c : Instr) (rest : List Instr) (s : State), step { s with pending := c :: rest } = exec c { s with pending := rest })
  ∧ ∀ s : State, s.pending = [] → step s = .next { s with time := s.time + 1 }

/-- Derived from 13 R401, R403: every command ends in a next state, in which the commands that wait and the clock stand as they
did and the queue of event records is within its bound, which every step keeps. -/
def Obligations.EveryStepKeepsTheQueues : Prop :=
  (∀ (c : Instr) (s : State), ∃ t, exec c s = .next t ∧ t.pending = s.pending ∧ t.time = s.time ∧ (QueueBounded s → QueueBounded t))
  ∧ ∀ s t : State, QueueBounded s → step s = .next t → QueueBounded t

/-- Derived from 13 R400, R401 (the queue is the model's, notes/assumptions/1.md): as many steps as commands wait bring every
one of them to its end, whatever they are and wherever they begin, with no time passed. -/
def Obligations.WaitingCommandsDrain : Prop :=
  ∀ s : State, ∃ t, Host.Core.run Sys2Proof.core s.pending.length s = .next t ∧ t.pending = [] ∧ t.time = s.time
    ∧ (QueueBounded s → QueueBounded t)

/-- Derived from 14 R416, R420: with the rails off, or in DORM, only what acts on the always-on island, the reset pin, the
management bus and the input does anything. -/
def Obligations.NothingActsWithoutPower : Prop :=
  ∀ (c : Instr) (s : State), poweredUp s = false → QueueBounded s → actsOnAlwaysOn c = false → exec c s = .next s

/-- Derived from 00 R9, 07 R213, 13 R403, R408, 14 R416, R418, 15 R454: what the model's reset leaves; every register that the
supplied update programs do not fill holds its reset value; the bounds that the invariants state hold. The values that the
manual does not state stand in the log entries. -/
def Obligations.ResetLeaves : Prop :=
  (State.reset.host.log = [startRecord] ∧ State.reset.host.evq = [] ∧ State.reset.host.posted = [] ∧ State.reset.groom.a = .active
    ∧ poweredUp State.reset = true ∧ pstate State.reset = 0 ∧ secretsCleared State.reset = false ∧ idReady State.reset = false
    ∧ (∀ st : Stall, ∀ c : Slot, ∀ site : Site, cfgOf (unitOf State.reset st site) c = none))
  ∧ (∀ a : Nat, (∀ e ∈ suppliedPrograms, e.1 ≠ a) → getReg State.reset a = resetOf a)
  ∧ (QueueBounded State.reset ∧ Memory.wf State.reset.mem = true ∧ State.reset.pending = [])
end

