-- ==== Sys2Proof/Laws/State.lean ====
section
/-! SUPPORT. What each update of the state does to each of its fields. -/

namespace Sys2Proof.Machine

/-! ### `onYard` -/

@[simp] theorem onYard_pending (s : State) (f : Yard → Yard) : (onYard s f).pending = s.pending := rfl
@[simp] theorem onYard_time (s : State) (f : Yard → Yard) : (onYard s f).time = s.time := rfl
@[simp] theorem onYard_draws (s : State) (f : Yard → Yard) : (onYard s f).draws = s.draws := rfl
@[simp] theorem onYard_regs (s : State) (f : Yard → Yard) : (onYard s f).regs = s.regs := rfl
@[simp] theorem onYard_mem (s : State) (f : Yard → Yard) : (onYard s f).mem = s.mem := rfl
@[simp] theorem onYard_poison (s : State) (f : Yard → Yard) : (onYard s f).poison = s.poison := rfl
@[simp] theorem onYard_tags (s : State) (f : Yard → Yard) : (onYard s f).tags = s.tags := rfl
@[simp] theorem onYard_satLines (s : State) (f : Yard → Yard) : (onYard s f).satLines = s.satLines := rfl
@[simp] theorem onYard_yard (s : State) (f : Yard → Yard) : (onYard s f).yard = f s.yard := rfl
@[simp] theorem onYard_seqs (s : State) (f : Yard → Yard) : (onYard s f).seqs = s.seqs := rfl
@[simp] theorem onYard_claimers (s : State) (f : Yard → Yard) : (onYard s f).claimers = s.claimers := rfl
@[simp] theorem onYard_stats (s : State) (f : Yard → Yard) : (onYard s f).stats = s.stats := rfl
@[simp] theorem onYard_upd (s : State) (f : Yard → Yard) : (onYard s f).upd = s.upd := rfl
@[simp] theorem onYard_barrows (s : State) (f : Yard → Yard) : (onYard s f).barrows = s.barrows := rfl
@[simp] theorem onYard_homes (s : State) (f : Yard → Yard) : (onYard s f).homes = s.homes := rfl
@[simp] theorem onYard_sync (s : State) (f : Yard → Yard) : (onYard s f).sync = s.sync := rfl
@[simp] theorem onYard_fab (s : State) (f : Yard → Yard) : (onYard s f).fab = s.fab := rfl
@[simp] theorem onYard_host (s : State) (f : Yard → Yard) : (onYard s f).host = s.host := rfl
@[simp] theorem onYard_groom (s : State) (f : Yard → Yard) : (onYard s f).groom = s.groom := rfl
@[simp] theorem onYard_power (s : State) (f : Yard → Yard) : (onYard s f).power = s.power := rfl
@[simp] theorem onYard_svc (s : State) (f : Yard → Yard) : (onYard s f).svc = s.svc := rfl
@[simp] theorem onYard_sec (s : State) (f : Yard → Yard) : (onYard s f).sec = s.sec := rfl
@[simp] theorem onYard_outbox (s : State) (f : Yard → Yard) : (onYard s f).outbox = s.outbox := rfl

/-! ### `onUpd` -/

@[simp] theorem onUpd_pending (s : State) (f : Updates → Updates) : (onUpd s f).pending = s.pending := rfl
@[simp] theorem onUpd_time (s : State) (f : Updates → Updates) : (onUpd s f).time = s.time := rfl
@[simp] theorem onUpd_draws (s : State) (f : Updates → Updates) : (onUpd s f).draws = s.draws := rfl
@[simp] theorem onUpd_regs (s : State) (f : Updates → Updates) : (onUpd s f).regs = s.regs := rfl
@[simp] theorem onUpd_mem (s : State) (f : Updates → Updates) : (onUpd s f).mem = s.mem := rfl
@[simp] theorem onUpd_poison (s : State) (f : Updates → Updates) : (onUpd s f).poison = s.poison := rfl
@[simp] theorem onUpd_tags (s : State) (f : Updates → Updates) : (onUpd s f).tags = s.tags := rfl
@[simp] theorem onUpd_satLines (s : State) (f : Updates → Updates) : (onUpd s f).satLines = s.satLines := rfl
@[simp] theorem onUpd_yard (s : State) (f : Updates → Updates) : (onUpd s f).yard = s.yard := rfl
@[simp] theorem onUpd_seqs (s : State) (f : Updates → Updates) : (onUpd s f).seqs = s.seqs := rfl
@[simp] theorem onUpd_claimers (s : State) (f : Updates → Updates) : (onUpd s f).claimers = s.claimers := rfl
@[simp] theorem onUpd_stats (s : State) (f : Updates → Updates) : (onUpd s f).stats = s.stats := rfl
@[simp] theorem onUpd_upd (s : State) (f : Updates → Updates) : (onUpd s f).upd = f s.upd := rfl
@[simp] theorem onUpd_barrows (s : State) (f : Updates → Updates) : (onUpd s f).barrows = s.barrows := rfl
@[simp] theorem onUpd_homes (s : State) (f : Updates → Updates) : (onUpd s f).homes = s.homes := rfl
@[simp] theorem onUpd_sync (s : State) (f : Updates → Updates) : (onUpd s f).sync = s.sync := rfl
@[simp] theorem onUpd_fab (s : State) (f : Updates → Updates) : (onUpd s f).fab = s.fab := rfl
@[simp] theorem onUpd_host (s : State) (f : Updates → Updates) : (onUpd s f).host = s.host := rfl
@[simp] theorem onUpd_groom (s : State) (f : Updates → Updates) : (onUpd s f).groom = s.groom := rfl
@[simp] theorem onUpd_power (s : State) (f : Updates → Updates) : (onUpd s f).power = s.power := rfl
@[simp] theorem onUpd_svc (s : State) (f : Updates → Updates) : (onUpd s f).svc = s.svc := rfl
@[simp] theorem onUpd_sec (s : State) (f : Updates → Updates) : (onUpd s f).sec = s.sec := rfl
@[simp] theorem onUpd_outbox (s : State) (f : Updates → Updates) : (onUpd s f).outbox = s.outbox := rfl

/-! ### `onHomes` -/

@[simp] theorem onHomes_pending (s : State) (f : Homes → Homes) : (onHomes s f).pending = s.pending := rfl
@[simp] theorem onHomes_time (s : State) (f : Homes → Homes) : (onHomes s f).time = s.time := rfl
@[simp] theorem onHomes_draws (s : State) (f : Homes → Homes) : (onHomes s f).draws = s.draws := rfl
@[simp] theorem onHomes_regs (s : State) (f : Homes → Homes) : (onHomes s f).regs = s.regs := rfl
@[simp] theorem onHomes_mem (s : State) (f : Homes → Homes) : (onHomes s f).mem = s.mem := rfl
@[simp] theorem onHomes_poison (s : State) (f : Homes → Homes) : (onHomes s f).poison = s.poison := rfl
@[simp] theorem onHomes_tags (s : State) (f : Homes → Homes) : (onHomes s f).tags = s.tags := rfl
@[simp] theorem onHomes_satLines (s : State) (f : Homes → Homes) : (onHomes s f).satLines = s.satLines := rfl
@[simp] theorem onHomes_yard (s : State) (f : Homes → Homes) : (onHomes s f).yard = s.yard := rfl
@[simp] theorem onHomes_seqs (s : State) (f : Homes → Homes) : (onHomes s f).seqs = s.seqs := rfl
@[simp] theorem onHomes_claimers (s : State) (f : Homes → Homes) : (onHomes s f).claimers = s.claimers := rfl
@[simp] theorem onHomes_stats (s : State) (f : Homes → Homes) : (onHomes s f).stats = s.stats := rfl
@[simp] theorem onHomes_upd (s : State) (f : Homes → Homes) : (onHomes s f).upd = s.upd := rfl
@[simp] theorem onHomes_barrows (s : State) (f : Homes → Homes) : (onHomes s f).barrows = s.barrows := rfl
@[simp] theorem onHomes_homes (s : State) (f : Homes → Homes) : (onHomes s f).homes = f s.homes := rfl
@[simp] theorem onHomes_sync (s : State) (f : Homes → Homes) : (onHomes s f).sync = s.sync := rfl
@[simp] theorem onHomes_fab (s : State) (f : Homes → Homes) : (onHomes s f).fab = s.fab := rfl
@[simp] theorem onHomes_host (s : State) (f : Homes → Homes) : (onHomes s f).host = s.host := rfl
@[simp] theorem onHomes_groom (s : State) (f : Homes → Homes) : (onHomes s f).groom = s.groom := rfl
@[simp] theorem onHomes_power (s : State) (f : Homes → Homes) : (onHomes s f).power = s.power := rfl
@[simp] theorem onHomes_svc (s : State) (f : Homes → Homes) : (onHomes s f).svc = s.svc := rfl
@[simp] theorem onHomes_sec (s : State) (f : Homes → Homes) : (onHomes s f).sec = s.sec := rfl
@[simp] theorem onHomes_outbox (s : State) (f : Homes → Homes) : (onHomes s f).outbox = s.outbox := rfl

/-! ### `onSync` -/

@[simp] theorem onSync_pending (s : State) (f : SyncSt → SyncSt) : (onSync s f).pending = s.pending := rfl
@[simp] theorem onSync_time (s : State) (f : SyncSt → SyncSt) : (onSync s f).time = s.time := rfl
@[simp] theorem onSync_draws (s : State) (f : SyncSt → SyncSt) : (onSync s f).draws = s.draws := rfl
@[simp] theorem onSync_regs (s : State) (f : SyncSt → SyncSt) : (onSync s f).regs = s.regs := rfl
@[simp] theorem onSync_mem (s : State) (f : SyncSt → SyncSt) : (onSync s f).mem = s.mem := rfl
@[simp] theorem onSync_poison (s : State) (f : SyncSt → SyncSt) : (onSync s f).poison = s.poison := rfl
@[simp] theorem onSync_tags (s : State) (f : SyncSt → SyncSt) : (onSync s f).tags = s.tags := rfl
@[simp] theorem onSync_satLines (s : State) (f : SyncSt → SyncSt) : (onSync s f).satLines = s.satLines := rfl
@[simp] theorem onSync_yard (s : State) (f : SyncSt → SyncSt) : (onSync s f).yard = s.yard := rfl
@[simp] theorem onSync_seqs (s : State) (f : SyncSt → SyncSt) : (onSync s f).seqs = s.seqs := rfl
@[simp] theorem onSync_claimers (s : State) (f : SyncSt → SyncSt) : (onSync s f).claimers = s.claimers := rfl
@[simp] theorem onSync_stats (s : State) (f : SyncSt → SyncSt) : (onSync s f).stats = s.stats := rfl
@[simp] theorem onSync_upd (s : State) (f : SyncSt → SyncSt) : (onSync s f).upd = s.upd := rfl
@[simp] theorem onSync_barrows (s : State) (f : SyncSt → SyncSt) : (onSync s f).barrows = s.barrows := rfl
@[simp] theorem onSync_homes (s : State) (f : SyncSt → SyncSt) : (onSync s f).homes = s.homes := rfl
@[simp] theorem onSync_sync (s : State) (f : SyncSt → SyncSt) : (onSync s f).sync = f s.sync := rfl
@[simp] theorem onSync_fab (s : State) (f : SyncSt → SyncSt) : (onSync s f).fab = s.fab := rfl
@[simp] theorem onSync_host (s : State) (f : SyncSt → SyncSt) : (onSync s f).host = s.host := rfl
@[simp] theorem onSync_groom (s : State) (f : SyncSt → SyncSt) : (onSync s f).groom = s.groom := rfl
@[simp] theorem onSync_power (s : State) (f : SyncSt → SyncSt) : (onSync s f).power = s.power := rfl
@[simp] theorem onSync_svc (s : State) (f : SyncSt → SyncSt) : (onSync s f).svc = s.svc := rfl
@[simp] theorem onSync_sec (s : State) (f : SyncSt → SyncSt) : (onSync s f).sec = s.sec := rfl
@[simp] theorem onSync_outbox (s : State) (f : SyncSt → SyncSt) : (onSync s f).outbox = s.outbox := rfl

/-! ### `onFab` -/

@[simp] theorem onFab_pending (s : State) (f : Fabric → Fabric) : (onFab s f).pending = s.pending := rfl
@[simp] theorem onFab_time (s : State) (f : Fabric → Fabric) : (onFab s f).time = s.time := rfl
@[simp] theorem onFab_draws (s : State) (f : Fabric → Fabric) : (onFab s f).draws = s.draws := rfl
@[simp] theorem onFab_regs (s : State) (f : Fabric → Fabric) : (onFab s f).regs = s.regs := rfl
@[simp] theorem onFab_mem (s : State) (f : Fabric → Fabric) : (onFab s f).mem = s.mem := rfl
@[simp] theorem onFab_poison (s : State) (f : Fabric → Fabric) : (onFab s f).poison = s.poison := rfl
@[simp] theorem onFab_tags (s : State) (f : Fabric → Fabric) : (onFab s f).tags = s.tags := rfl
@[simp] theorem onFab_satLines (s : State) (f : Fabric → Fabric) : (onFab s f).satLines = s.satLines := rfl
@[simp] theorem onFab_yard (s : State) (f : Fabric → Fabric) : (onFab s f).yard = s.yard := rfl
@[simp] theorem onFab_seqs (s : State) (f : Fabric → Fabric) : (onFab s f).seqs = s.seqs := rfl
@[simp] theorem onFab_claimers (s : State) (f : Fabric → Fabric) : (onFab s f).claimers = s.claimers := rfl
@[simp] theorem onFab_stats (s : State) (f : Fabric → Fabric) : (onFab s f).stats = s.stats := rfl
@[simp] theorem onFab_upd (s : State) (f : Fabric → Fabric) : (onFab s f).upd = s.upd := rfl
@[simp] theorem onFab_barrows (s : State) (f : Fabric → Fabric) : (onFab s f).barrows = s.barrows := rfl
@[simp] theorem onFab_homes (s : State) (f : Fabric → Fabric) : (onFab s f).homes = s.homes := rfl
@[simp] theorem onFab_sync (s : State) (f : Fabric → Fabric) : (onFab s f).sync = s.sync := rfl
@[simp] theorem onFab_fab (s : State) (f : Fabric → Fabric) : (onFab s f).fab = f s.fab := rfl
@[simp] theorem onFab_host (s : State) (f : Fabric → Fabric) : (onFab s f).host = s.host := rfl
@[simp] theorem onFab_groom (s : State) (f : Fabric → Fabric) : (onFab s f).groom = s.groom := rfl
@[simp] theorem onFab_power (s : State) (f : Fabric → Fabric) : (onFab s f).power = s.power := rfl
@[simp] theorem onFab_svc (s : State) (f : Fabric → Fabric) : (onFab s f).svc = s.svc := rfl
@[simp] theorem onFab_sec (s : State) (f : Fabric → Fabric) : (onFab s f).sec = s.sec := rfl
@[simp] theorem onFab_outbox (s : State) (f : Fabric → Fabric) : (onFab s f).outbox = s.outbox := rfl

/-! ### `onHost` -/

@[simp] theorem onHost_pending (s : State) (f : HostPort → HostPort) : (onHost s f).pending = s.pending := rfl
@[simp] theorem onHost_time (s : State) (f : HostPort → HostPort) : (onHost s f).time = s.time := rfl
@[simp] theorem onHost_draws (s : State) (f : HostPort → HostPort) : (onHost s f).draws = s.draws := rfl
@[simp] theorem onHost_regs (s : State) (f : HostPort → HostPort) : (onHost s f).regs = s.regs := rfl
@[simp] theorem onHost_mem (s : State) (f : HostPort → HostPort) : (onHost s f).mem = s.mem := rfl
@[simp] theorem onHost_poison (s : State) (f : HostPort → HostPort) : (onHost s f).poison = s.poison := rfl
@[simp] theorem onHost_tags (s : State) (f : HostPort → HostPort) : (onHost s f).tags = s.tags := rfl
@[simp] theorem onHost_satLines (s : State) (f : HostPort → HostPort) : (onHost s f).satLines = s.satLines := rfl
@[simp] theorem onHost_yard (s : State) (f : HostPort → HostPort) : (onHost s f).yard = s.yard := rfl
@[simp] theorem onHost_seqs (s : State) (f : HostPort → HostPort) : (onHost s f).seqs = s.seqs := rfl
@[simp] theorem onHost_claimers (s : State) (f : HostPort → HostPort) : (onHost s f).claimers = s.claimers := rfl
@[simp] theorem onHost_stats (s : State) (f : HostPort → HostPort) : (onHost s f).stats = s.stats := rfl
@[simp] theorem onHost_upd (s : State) (f : HostPort → HostPort) : (onHost s f).upd = s.upd := rfl
@[simp] theorem onHost_barrows (s : State) (f : HostPort → HostPort) : (onHost s f).barrows = s.barrows := rfl
@[simp] theorem onHost_homes (s : State) (f : HostPort → HostPort) : (onHost s f).homes = s.homes := rfl
@[simp] theorem onHost_sync (s : State) (f : HostPort → HostPort) : (onHost s f).sync = s.sync := rfl
@[simp] theorem onHost_fab (s : State) (f : HostPort → HostPort) : (onHost s f).fab = s.fab := rfl
@[simp] theorem onHost_host (s : State) (f : HostPort → HostPort) : (onHost s f).host = f s.host := rfl
@[simp] theorem onHost_groom (s : State) (f : HostPort → HostPort) : (onHost s f).groom = s.groom := rfl
@[simp] theorem onHost_power (s : State) (f : HostPort → HostPort) : (onHost s f).power = s.power := rfl
@[simp] theorem onHost_svc (s : State) (f : HostPort → HostPort) : (onHost s f).svc = s.svc := rfl
@[simp] theorem onHost_sec (s : State) (f : HostPort → HostPort) : (onHost s f).sec = s.sec := rfl
@[simp] theorem onHost_outbox (s : State) (f : HostPort → HostPort) : (onHost s f).outbox = s.outbox := rfl

/-! ### `onGroom` -/

@[simp] theorem onGroom_pending (s : State) (f : Grooms → Grooms) : (onGroom s f).pending = s.pending := rfl
@[simp] theorem onGroom_time (s : State) (f : Grooms → Grooms) : (onGroom s f).time = s.time := rfl
@[simp] theorem onGroom_draws (s : State) (f : Grooms → Grooms) : (onGroom s f).draws = s.draws := rfl
@[simp] theorem onGroom_regs (s : State) (f : Grooms → Grooms) : (onGroom s f).regs = s.regs := rfl
@[simp] theorem onGroom_mem (s : State) (f : Grooms → Grooms) : (onGroom s f).mem = s.mem := rfl
@[simp] theorem onGroom_poison (s : State) (f : Grooms → Grooms) : (onGroom s f).poison = s.poison := rfl
@[simp] theorem onGroom_tags (s : State) (f : Grooms → Grooms) : (onGroom s f).tags = s.tags := rfl
@[simp] theorem onGroom_satLines (s : State) (f : Grooms → Grooms) : (onGroom s f).satLines = s.satLines := rfl
@[simp] theorem onGroom_yard (s : State) (f : Grooms → Grooms) : (onGroom s f).yard = s.yard := rfl
@[simp] theorem onGroom_seqs (s : State) (f : Grooms → Grooms) : (onGroom s f).seqs = s.seqs := rfl
@[simp] theorem onGroom_claimers (s : State) (f : Grooms → Grooms) : (onGroom s f).claimers = s.claimers := rfl
@[simp] theorem onGroom_stats (s : State) (f : Grooms → Grooms) : (onGroom s f).stats = s.stats := rfl
@[simp] theorem onGroom_upd (s : State) (f : Grooms → Grooms) : (onGroom s f).upd = s.upd := rfl
@[simp] theorem onGroom_barrows (s : State) (f : Grooms → Grooms) : (onGroom s f).barrows = s.barrows := rfl
@[simp] theorem onGroom_homes (s : State) (f : Grooms → Grooms) : (onGroom s f).homes = s.homes := rfl
@[simp] theorem onGroom_sync (s : State) (f : Grooms → Grooms) : (onGroom s f).sync = s.sync := rfl
@[simp] theorem onGroom_fab (s : State) (f : Grooms → Grooms) : (onGroom s f).fab = s.fab := rfl
@[simp] theorem onGroom_host (s : State) (f : Grooms → Grooms) : (onGroom s f).host = s.host := rfl
@[simp] theorem onGroom_groom (s : State) (f : Grooms → Grooms) : (onGroom s f).groom = f s.groom := rfl
@[simp] theorem onGroom_power (s : State) (f : Grooms → Grooms) : (onGroom s f).power = s.power := rfl
@[simp] theorem onGroom_svc (s : State) (f : Grooms → Grooms) : (onGroom s f).svc = s.svc := rfl
@[simp] theorem onGroom_sec (s : State) (f : Grooms → Grooms) : (onGroom s f).sec = s.sec := rfl
@[simp] theorem onGroom_outbox (s : State) (f : Grooms → Grooms) : (onGroom s f).outbox = s.outbox := rfl

/-! ### `onPower` -/

@[simp] theorem onPower_pending (s : State) (f : Power → Power) : (onPower s f).pending = s.pending := rfl
@[simp] theorem onPower_time (s : State) (f : Power → Power) : (onPower s f).time = s.time := rfl
@[simp] theorem onPower_draws (s : State) (f : Power → Power) : (onPower s f).draws = s.draws := rfl
@[simp] theorem onPower_regs (s : State) (f : Power → Power) : (onPower s f).regs = s.regs := rfl
@[simp] theorem onPower_mem (s : State) (f : Power → Power) : (onPower s f).mem = s.mem := rfl
@[simp] theorem onPower_poison (s : State) (f : Power → Power) : (onPower s f).poison = s.poison := rfl
@[simp] theorem onPower_tags (s : State) (f : Power → Power) : (onPower s f).tags = s.tags := rfl
@[simp] theorem onPower_satLines (s : State) (f : Power → Power) : (onPower s f).satLines = s.satLines := rfl
@[simp] theorem onPower_yard (s : State) (f : Power → Power) : (onPower s f).yard = s.yard := rfl
@[simp] theorem onPower_seqs (s : State) (f : Power → Power) : (onPower s f).seqs = s.seqs := rfl
@[simp] theorem onPower_claimers (s : State) (f : Power → Power) : (onPower s f).claimers = s.claimers := rfl
@[simp] theorem onPower_stats (s : State) (f : Power → Power) : (onPower s f).stats = s.stats := rfl
@[simp] theorem onPower_upd (s : State) (f : Power → Power) : (onPower s f).upd = s.upd := rfl
@[simp] theorem onPower_barrows (s : State) (f : Power → Power) : (onPower s f).barrows = s.barrows := rfl
@[simp] theorem onPower_homes (s : State) (f : Power → Power) : (onPower s f).homes = s.homes := rfl
@[simp] theorem onPower_sync (s : State) (f : Power → Power) : (onPower s f).sync = s.sync := rfl
@[simp] theorem onPower_fab (s : State) (f : Power → Power) : (onPower s f).fab = s.fab := rfl
@[simp] theorem onPower_host (s : State) (f : Power → Power) : (onPower s f).host = s.host := rfl
@[simp] theorem onPower_groom (s : State) (f : Power → Power) : (onPower s f).groom = s.groom := rfl
@[simp] theorem onPower_power (s : State) (f : Power → Power) : (onPower s f).power = f s.power := rfl
@[simp] theorem onPower_svc (s : State) (f : Power → Power) : (onPower s f).svc = s.svc := rfl
@[simp] theorem onPower_sec (s : State) (f : Power → Power) : (onPower s f).sec = s.sec := rfl
@[simp] theorem onPower_outbox (s : State) (f : Power → Power) : (onPower s f).outbox = s.outbox := rfl

/-! ### `onSvc` -/

@[simp] theorem onSvc_pending (s : State) (f : Service → Service) : (onSvc s f).pending = s.pending := rfl
@[simp] theorem onSvc_time (s : State) (f : Service → Service) : (onSvc s f).time = s.time := rfl
@[simp] theorem onSvc_draws (s : State) (f : Service → Service) : (onSvc s f).draws = s.draws := rfl
@[simp] theorem onSvc_regs (s : State) (f : Service → Service) : (onSvc s f).regs = s.regs := rfl
@[simp] theorem onSvc_mem (s : State) (f : Service → Service) : (onSvc s f).mem = s.mem := rfl
@[simp] theorem onSvc_poison (s : State) (f : Service → Service) : (onSvc s f).poison = s.poison := rfl
@[simp] theorem onSvc_tags (s : State) (f : Service → Service) : (onSvc s f).tags = s.tags := rfl
@[simp] theorem onSvc_satLines (s : State) (f : Service → Service) : (onSvc s f).satLines = s.satLines := rfl
@[simp] theorem onSvc_yard (s : State) (f : Service → Service) : (onSvc s f).yard = s.yard := rfl
@[simp] theorem onSvc_seqs (s : State) (f : Service → Service) : (onSvc s f).seqs = s.seqs := rfl
@[simp] theorem onSvc_claimers (s : State) (f : Service → Service) : (onSvc s f).claimers = s.claimers := rfl
@[simp] theorem onSvc_stats (s : State) (f : Service → Service) : (onSvc s f).stats = s.stats := rfl
@[simp] theorem onSvc_upd (s : State) (f : Service → Service) : (onSvc s f).upd = s.upd := rfl
@[simp] theorem onSvc_barrows (s : State) (f : Service → Service) : (onSvc s f).barrows = s.barrows := rfl
@[simp] theorem onSvc_homes (s : State) (f : Service → Service) : (onSvc s f).homes = s.homes := rfl
@[simp] theorem onSvc_sync (s : State) (f : Service → Service) : (onSvc s f).sync = s.sync := rfl
@[simp] theorem onSvc_fab (s : State) (f : Service → Service) : (onSvc s f).fab = s.fab := rfl
@[simp] theorem onSvc_host (s : State) (f : Service → Service) : (onSvc s f).host = s.host := rfl
@[simp] theorem onSvc_groom (s : State) (f : Service → Service) : (onSvc s f).groom = s.groom := rfl
@[simp] theorem onSvc_power (s : State) (f : Service → Service) : (onSvc s f).power = s.power := rfl
@[simp] theorem onSvc_svc (s : State) (f : Service → Service) : (onSvc s f).svc = f s.svc := rfl
@[simp] theorem onSvc_sec (s : State) (f : Service → Service) : (onSvc s f).sec = s.sec := rfl
@[simp] theorem onSvc_outbox (s : State) (f : Service → Service) : (onSvc s f).outbox = s.outbox := rfl

/-! ### `onSec` -/

@[simp] theorem onSec_pending (s : State) (f : Security → Security) : (onSec s f).pending = s.pending := rfl
@[simp] theorem onSec_time (s : State) (f : Security → Security) : (onSec s f).time = s.time := rfl
@[simp] theorem onSec_draws (s : State) (f : Security → Security) : (onSec s f).draws = s.draws := rfl
@[simp] theorem onSec_regs (s : State) (f : Security → Security) : (onSec s f).regs = s.regs := rfl
@[simp] theorem onSec_mem (s : State) (f : Security → Security) : (onSec s f).mem = s.mem := rfl
@[simp] theorem onSec_poison (s : State) (f : Security → Security) : (onSec s f).poison = s.poison := rfl
@[simp] theorem onSec_tags (s : State) (f : Security → Security) : (onSec s f).tags = s.tags := rfl
@[simp] theorem onSec_satLines (s : State) (f : Security → Security) : (onSec s f).satLines = s.satLines := rfl
@[simp] theorem onSec_yard (s : State) (f : Security → Security) : (onSec s f).yard = s.yard := rfl
@[simp] theorem onSec_seqs (s : State) (f : Security → Security) : (onSec s f).seqs = s.seqs := rfl
@[simp] theorem onSec_claimers (s : State) (f : Security → Security) : (onSec s f).claimers = s.claimers := rfl
@[simp] theorem onSec_stats (s : State) (f : Security → Security) : (onSec s f).stats = s.stats := rfl
@[simp] theorem onSec_upd (s : State) (f : Security → Security) : (onSec s f).upd = s.upd := rfl
@[simp] theorem onSec_barrows (s : State) (f : Security → Security) : (onSec s f).barrows = s.barrows := rfl
@[simp] theorem onSec_homes (s : State) (f : Security → Security) : (onSec s f).homes = s.homes := rfl
@[simp] theorem onSec_sync (s : State) (f : Security → Security) : (onSec s f).sync = s.sync := rfl
@[simp] theorem onSec_fab (s : State) (f : Security → Security) : (onSec s f).fab = s.fab := rfl
@[simp] theorem onSec_host (s : State) (f : Security → Security) : (onSec s f).host = s.host := rfl
@[simp] theorem onSec_groom (s : State) (f : Security → Security) : (onSec s f).groom = s.groom := rfl
@[simp] theorem onSec_power (s : State) (f : Security → Security) : (onSec s f).power = s.power := rfl
@[simp] theorem onSec_svc (s : State) (f : Security → Security) : (onSec s f).svc = s.svc := rfl
@[simp] theorem onSec_sec (s : State) (f : Security → Security) : (onSec s f).sec = f s.sec := rfl
@[simp] theorem onSec_outbox (s : State) (f : Security → Security) : (onSec s f).outbox = s.outbox := rfl

/-! ### `setReg` -/

@[simp] theorem setReg_pending (s : State) (a : Nat) (v : Word) : (setReg s a v).pending = s.pending := rfl
@[simp] theorem setReg_time (s : State) (a : Nat) (v : Word) : (setReg s a v).time = s.time := rfl
@[simp] theorem setReg_draws (s : State) (a : Nat) (v : Word) : (setReg s a v).draws = s.draws := rfl
@[simp] theorem setReg_regs (s : State) (a : Nat) (v : Word) : (setReg s a v).regs = mset s.regs (resetOf a) a v := rfl
@[simp] theorem setReg_mem (s : State) (a : Nat) (v : Word) : (setReg s a v).mem = s.mem := rfl
@[simp] theorem setReg_poison (s : State) (a : Nat) (v : Word) : (setReg s a v).poison = s.poison := rfl
@[simp] theorem setReg_tags (s : State) (a : Nat) (v : Word) : (setReg s a v).tags = s.tags := rfl
@[simp] theorem setReg_satLines (s : State) (a : Nat) (v : Word) : (setReg s a v).satLines = s.satLines := rfl
@[simp] theorem setReg_yard (s : State) (a : Nat) (v : Word) : (setReg s a v).yard = s.yard := rfl
@[simp] theorem setReg_seqs (s : State) (a : Nat) (v : Word) : (setReg s a v).seqs = s.seqs := rfl
@[simp] theorem setReg_claimers (s : State) (a : Nat) (v : Word) : (setReg s a v).claimers = s.claimers := rfl
@[simp] theorem setReg_stats (s : State) (a : Nat) (v : Word) : (setReg s a v).stats = s.stats := rfl
@[simp] theorem setReg_upd (s : State) (a : Nat) (v : Word) : (setReg s a v).upd = s.upd := rfl
@[simp] theorem setReg_barrows (s : State) (a : Nat) (v : Word) : (setReg s a v).barrows = s.barrows := rfl
@[simp] theorem setReg_homes (s : State) (a : Nat) (v : Word) : (setReg s a v).homes = s.homes := rfl
@[simp] theorem setReg_sync (s : State) (a : Nat) (v : Word) : (setReg s a v).sync = s.sync := rfl
@[simp] theorem setReg_fab (s : State) (a : Nat) (v : Word) : (setReg s a v).fab = s.fab := rfl
@[simp] theorem setReg_host (s : State) (a : Nat) (v : Word) : (setReg s a v).host = s.host := rfl
@[simp] theorem setReg_groom (s : State) (a : Nat) (v : Word) : (setReg s a v).groom = s.groom := rfl
@[simp] theorem setReg_power (s : State) (a : Nat) (v : Word) : (setReg s a v).power = s.power := rfl
@[simp] theorem setReg_svc (s : State) (a : Nat) (v : Word) : (setReg s a v).svc = s.svc := rfl
@[simp] theorem setReg_sec (s : State) (a : Nat) (v : Word) : (setReg s a v).sec = s.sec := rfl
@[simp] theorem setReg_outbox (s : State) (a : Nat) (v : Word) : (setReg s a v).outbox = s.outbox := rfl

/-! ### `setF` -/

@[simp] theorem setF_pending (s : State) (a lo len v : Nat) : (setF s a lo len v).pending = s.pending := rfl
@[simp] theorem setF_time (s : State) (a lo len v : Nat) : (setF s a lo len v).time = s.time := rfl
@[simp] theorem setF_draws (s : State) (a lo len v : Nat) : (setF s a lo len v).draws = s.draws := rfl
@[simp] theorem setF_mem (s : State) (a lo len v : Nat) : (setF s a lo len v).mem = s.mem := rfl
@[simp] theorem setF_poison (s : State) (a lo len v : Nat) : (setF s a lo len v).poison = s.poison := rfl
@[simp] theorem setF_tags (s : State) (a lo len v : Nat) : (setF s a lo len v).tags = s.tags := rfl
@[simp] theorem setF_satLines (s : State) (a lo len v : Nat) : (setF s a lo len v).satLines = s.satLines := rfl
@[simp] theorem setF_yard (s : State) (a lo len v : Nat) : (setF s a lo len v).yard = s.yard := rfl
@[simp] theorem setF_seqs (s : State) (a lo len v : Nat) : (setF s a lo len v).seqs = s.seqs := rfl
@[simp] theorem setF_claimers (s : State) (a lo len v : Nat) : (setF s a lo len v).claimers = s.claimers := rfl
@[simp] theorem setF_stats (s : State) (a lo len v : Nat) : (setF s a lo len v).stats = s.stats := rfl
@[simp] theorem setF_upd (s : State) (a lo len v : Nat) : (setF s a lo len v).upd = s.upd := rfl
@[simp] theorem setF_barrows (s : State) (a lo len v : Nat) : (setF s a lo len v).barrows = s.barrows := rfl
@[simp] theorem setF_homes (s : State) (a lo len v : Nat) : (setF s a lo len v).homes = s.homes := rfl
@[simp] theorem setF_sync (s : State) (a lo len v : Nat) : (setF s a lo len v).sync = s.sync := rfl
@[simp] theorem setF_fab (s : State) (a lo len v : Nat) : (setF s a lo len v).fab = s.fab := rfl
@[simp] theorem setF_host (s : State) (a lo len v : Nat) : (setF s a lo len v).host = s.host := rfl
@[simp] theorem setF_groom (s : State) (a lo len v : Nat) : (setF s a lo len v).groom = s.groom := rfl
@[simp] theorem setF_power (s : State) (a lo len v : Nat) : (setF s a lo len v).power = s.power := rfl
@[simp] theorem setF_svc (s : State) (a lo len v : Nat) : (setF s a lo len v).svc = s.svc := rfl
@[simp] theorem setF_sec (s : State) (a lo len v : Nat) : (setF s a lo len v).sec = s.sec := rfl
@[simp] theorem setF_outbox (s : State) (a lo len v : Nat) : (setF s a lo len v).outbox = s.outbox := rfl

/-! ### `satF` -/

@[simp] theorem satF_pending (s : State) (a lo len v : Nat) : (satF s a lo len v).pending = s.pending := rfl
@[simp] theorem satF_time (s : State) (a lo len v : Nat) : (satF s a lo len v).time = s.time := rfl
@[simp] theorem satF_draws (s : State) (a lo len v : Nat) : (satF s a lo len v).draws = s.draws := rfl
@[simp] theorem satF_mem (s : State) (a lo len v : Nat) : (satF s a lo len v).mem = s.mem := rfl
@[simp] theorem satF_poison (s : State) (a lo len v : Nat) : (satF s a lo len v).poison = s.poison := rfl
@[simp] theorem satF_tags (s : State) (a lo len v : Nat) : (satF s a lo len v).tags = s.tags := rfl
@[simp] theorem satF_satLines (s : State) (a lo len v : Nat) : (satF s a lo len v).satLines = s.satLines := rfl
@[simp] theorem satF_yard (s : State) (a lo len v : Nat) : (satF s a lo len v).yard = s.yard := rfl
@[simp] theorem satF_seqs (s : State) (a lo len v : Nat) : (satF s a lo len v).seqs = s.seqs := rfl
@[simp] theorem satF_claimers (s : State) (a lo len v : Nat) : (satF s a lo len v).claimers = s.claimers := rfl
@[simp] theorem satF_stats (s : State) (a lo len v : Nat) : (satF s a lo len v).stats = s.stats := rfl
@[simp] theorem satF_upd (s : State) (a lo len v : Nat) : (satF s a lo len v).upd = s.upd := rfl
@[simp] theorem satF_barrows (s : State) (a lo len v : Nat) : (satF s a lo len v).barrows = s.barrows := rfl
@[simp] theorem satF_homes (s : State) (a lo len v : Nat) : (satF s a lo len v).homes = s.homes := rfl
@[simp] theorem satF_sync (s : State) (a lo len v : Nat) : (satF s a lo len v).sync = s.sync := rfl
@[simp] theorem satF_fab (s : State) (a lo len v : Nat) : (satF s a lo len v).fab = s.fab := rfl
@[simp] theorem satF_host (s : State) (a lo len v : Nat) : (satF s a lo len v).host = s.host := rfl
@[simp] theorem satF_groom (s : State) (a lo len v : Nat) : (satF s a lo len v).groom = s.groom := rfl
@[simp] theorem satF_power (s : State) (a lo len v : Nat) : (satF s a lo len v).power = s.power := rfl
@[simp] theorem satF_svc (s : State) (a lo len v : Nat) : (satF s a lo len v).svc = s.svc := rfl
@[simp] theorem satF_sec (s : State) (a lo len v : Nat) : (satF s a lo len v).sec = s.sec := rfl
@[simp] theorem satF_outbox (s : State) (a lo len v : Nat) : (satF s a lo len v).outbox = s.outbox := rfl

/-! ### `addF` -/

@[simp] theorem addF_pending (s : State) (a lo len v : Nat) : (addF s a lo len v).pending = s.pending := rfl
@[simp] theorem addF_time (s : State) (a lo len v : Nat) : (addF s a lo len v).time = s.time := rfl
@[simp] theorem addF_draws (s : State) (a lo len v : Nat) : (addF s a lo len v).draws = s.draws := rfl
@[simp] theorem addF_mem (s : State) (a lo len v : Nat) : (addF s a lo len v).mem = s.mem := rfl
@[simp] theorem addF_poison (s : State) (a lo len v : Nat) : (addF s a lo len v).poison = s.poison := rfl
@[simp] theorem addF_tags (s : State) (a lo len v : Nat) : (addF s a lo len v).tags = s.tags := rfl
@[simp] theorem addF_satLines (s : State) (a lo len v : Nat) : (addF s a lo len v).satLines = s.satLines := rfl
@[simp] theorem addF_yard (s : State) (a lo len v : Nat) : (addF s a lo len v).yard = s.yard := rfl
@[simp] theorem addF_seqs (s : State) (a lo len v : Nat) : (addF s a lo len v).seqs = s.seqs := rfl
@[simp] theorem addF_claimers (s : State) (a lo len v : Nat) : (addF s a lo len v).claimers = s.claimers := rfl
@[simp] theorem addF_stats (s : State) (a lo len v : Nat) : (addF s a lo len v).stats = s.stats := rfl
@[simp] theorem addF_upd (s : State) (a lo len v : Nat) : (addF s a lo len v).upd = s.upd := rfl
@[simp] theorem addF_barrows (s : State) (a lo len v : Nat) : (addF s a lo len v).barrows = s.barrows := rfl
@[simp] theorem addF_homes (s : State) (a lo len v : Nat) : (addF s a lo len v).homes = s.homes := rfl
@[simp] theorem addF_sync (s : State) (a lo len v : Nat) : (addF s a lo len v).sync = s.sync := rfl
@[simp] theorem addF_fab (s : State) (a lo len v : Nat) : (addF s a lo len v).fab = s.fab := rfl
@[simp] theorem addF_host (s : State) (a lo len v : Nat) : (addF s a lo len v).host = s.host := rfl
@[simp] theorem addF_groom (s : State) (a lo len v : Nat) : (addF s a lo len v).groom = s.groom := rfl
@[simp] theorem addF_power (s : State) (a lo len v : Nat) : (addF s a lo len v).power = s.power := rfl
@[simp] theorem addF_svc (s : State) (a lo len v : Nat) : (addF s a lo len v).svc = s.svc := rfl
@[simp] theorem addF_sec (s : State) (a lo len v : Nat) : (addF s a lo len v).sec = s.sec := rfl
@[simp] theorem addF_outbox (s : State) (a lo len v : Nat) : (addF s a lo len v).outbox = s.outbox := rfl

/-! ### `putBytes` -/

@[simp] theorem putBytes_pending (s : State) (p : Nat) (d : List Byte) : (putBytes s p d).pending = s.pending := rfl
@[simp] theorem putBytes_time (s : State) (p : Nat) (d : List Byte) : (putBytes s p d).time = s.time := rfl
@[simp] theorem putBytes_draws (s : State) (p : Nat) (d : List Byte) : (putBytes s p d).draws = s.draws := rfl
@[simp] theorem putBytes_regs (s : State) (p : Nat) (d : List Byte) : (putBytes s p d).regs = s.regs := rfl
@[simp] theorem putBytes_mem (s : State) (p : Nat) (d : List Byte) : (putBytes s p d).mem = memWrite s.mem p d := rfl
@[simp] theorem putBytes_poison (s : State) (p : Nat) (d : List Byte) : (putBytes s p d).poison = s.poison := rfl
@[simp] theorem putBytes_tags (s : State) (p : Nat) (d : List Byte) : (putBytes s p d).tags = s.tags := rfl
@[simp] theorem putBytes_satLines (s : State) (p : Nat) (d : List Byte) : (putBytes s p d).satLines = s.satLines := rfl
@[simp] theorem putBytes_yard (s : State) (p : Nat) (d : List Byte) : (putBytes s p d).yard = s.yard := rfl
@[simp] theorem putBytes_seqs (s : State) (p : Nat) (d : List Byte) : (putBytes s p d).seqs = s.seqs := rfl
@[simp] theorem putBytes_claimers (s : State) (p : Nat) (d : List Byte) : (putBytes s p d).claimers = s.claimers := rfl
@[simp] theorem putBytes_stats (s : State) (p : Nat) (d : List Byte) : (putBytes s p d).stats = s.stats := rfl
@[simp] theorem putBytes_upd (s : State) (p : Nat) (d : List Byte) : (putBytes s p d).upd = s.upd := rfl
@[simp] theorem putBytes_barrows (s : State) (p : Nat) (d : List Byte) : (putBytes s p d).barrows = s.barrows := rfl
@[simp] theorem putBytes_homes (s : State) (p : Nat) (d : List Byte) : (putBytes s p d).homes = s.homes := rfl
@[simp] theorem putBytes_sync (s : State) (p : Nat) (d : List Byte) : (putBytes s p d).sync = s.sync := rfl
@[simp] theorem putBytes_fab (s : State) (p : Nat) (d : List Byte) : (putBytes s p d).fab = s.fab := rfl
@[simp] theorem putBytes_host (s : State) (p : Nat) (d : List Byte) : (putBytes s p d).host = s.host := rfl
@[simp] theorem putBytes_groom (s : State) (p : Nat) (d : List Byte) : (putBytes s p d).groom = s.groom := rfl
@[simp] theorem putBytes_power (s : State) (p : Nat) (d : List Byte) : (putBytes s p d).power = s.power := rfl
@[simp] theorem putBytes_svc (s : State) (p : Nat) (d : List Byte) : (putBytes s p d).svc = s.svc := rfl
@[simp] theorem putBytes_sec (s : State) (p : Nat) (d : List Byte) : (putBytes s p d).sec = s.sec := rfl
@[simp] theorem putBytes_outbox (s : State) (p : Nat) (d : List Byte) : (putBytes s p d).outbox = s.outbox := rfl

/-! ### `send` -/

@[simp] theorem send_pending (s : State) (o : Out) : (send s o).pending = s.pending := rfl
@[simp] theorem send_time (s : State) (o : Out) : (send s o).time = s.time := rfl
@[simp] theorem send_draws (s : State) (o : Out) : (send s o).draws = s.draws := rfl
@[simp] theorem send_regs (s : State) (o : Out) : (send s o).regs = s.regs := rfl
@[simp] theorem send_mem (s : State) (o : Out) : (send s o).mem = s.mem := rfl
@[simp] theorem send_poison (s : State) (o : Out) : (send s o).poison = s.poison := rfl
@[simp] theorem send_tags (s : State) (o : Out) : (send s o).tags = s.tags := rfl
@[simp] theorem send_satLines (s : State) (o : Out) : (send s o).satLines = s.satLines := rfl
@[simp] theorem send_yard (s : State) (o : Out) : (send s o).yard = s.yard := rfl
@[simp] theorem send_seqs (s : State) (o : Out) : (send s o).seqs = s.seqs := rfl
@[simp] theorem send_claimers (s : State) (o : Out) : (send s o).claimers = s.claimers := rfl
@[simp] theorem send_stats (s : State) (o : Out) : (send s o).stats = s.stats := rfl
@[simp] theorem send_upd (s : State) (o : Out) : (send s o).upd = s.upd := rfl
@[simp] theorem send_barrows (s : State) (o : Out) : (send s o).barrows = s.barrows := rfl
@[simp] theorem send_homes (s : State) (o : Out) : (send s o).homes = s.homes := rfl
@[simp] theorem send_sync (s : State) (o : Out) : (send s o).sync = s.sync := rfl
@[simp] theorem send_fab (s : State) (o : Out) : (send s o).fab = s.fab := rfl
@[simp] theorem send_host (s : State) (o : Out) : (send s o).host = s.host := rfl
@[simp] theorem send_groom (s : State) (o : Out) : (send s o).groom = s.groom := rfl
@[simp] theorem send_power (s : State) (o : Out) : (send s o).power = s.power := rfl
@[simp] theorem send_svc (s : State) (o : Out) : (send s o).svc = s.svc := rfl
@[simp] theorem send_sec (s : State) (o : Out) : (send s o).sec = s.sec := rfl
@[simp] theorem send_outbox (s : State) (o : Out) : (send s o).outbox = s.outbox ++ [o] := rfl

/-! ### `emitRec` -/

@[simp] theorem emitRec_pending (s : State) (e : Event) : (emitRec s e).pending = s.pending := rfl
@[simp] theorem emitRec_time (s : State) (e : Event) : (emitRec s e).time = s.time := rfl
@[simp] theorem emitRec_draws (s : State) (e : Event) : (emitRec s e).draws = s.draws := rfl
@[simp] theorem emitRec_regs (s : State) (e : Event) : (emitRec s e).regs = s.regs := rfl
@[simp] theorem emitRec_mem (s : State) (e : Event) : (emitRec s e).mem = s.mem := rfl
@[simp] theorem emitRec_poison (s : State) (e : Event) : (emitRec s e).poison = s.poison := rfl
@[simp] theorem emitRec_tags (s : State) (e : Event) : (emitRec s e).tags = s.tags := rfl
@[simp] theorem emitRec_satLines (s : State) (e : Event) : (emitRec s e).satLines = s.satLines := rfl
@[simp] theorem emitRec_yard (s : State) (e : Event) : (emitRec s e).yard = s.yard := rfl
@[simp] theorem emitRec_seqs (s : State) (e : Event) : (emitRec s e).seqs = s.seqs := rfl
@[simp] theorem emitRec_claimers (s : State) (e : Event) : (emitRec s e).claimers = s.claimers := rfl
@[simp] theorem emitRec_stats (s : State) (e : Event) : (emitRec s e).stats = s.stats := rfl
@[simp] theorem emitRec_upd (s : State) (e : Event) : (emitRec s e).upd = s.upd := rfl
@[simp] theorem emitRec_barrows (s : State) (e : Event) : (emitRec s e).barrows = s.barrows := rfl
@[simp] theorem emitRec_homes (s : State) (e : Event) : (emitRec s e).homes = s.homes := rfl
@[simp] theorem emitRec_sync (s : State) (e : Event) : (emitRec s e).sync = s.sync := rfl
@[simp] theorem emitRec_fab (s : State) (e : Event) : (emitRec s e).fab = s.fab := rfl
@[simp] theorem emitRec_groom (s : State) (e : Event) : (emitRec s e).groom = s.groom := rfl
@[simp] theorem emitRec_power (s : State) (e : Event) : (emitRec s e).power = s.power := rfl
@[simp] theorem emitRec_svc (s : State) (e : Event) : (emitRec s e).svc = s.svc := rfl
@[simp] theorem emitRec_sec (s : State) (e : Event) : (emitRec s e).sec = s.sec := rfl
@[simp] theorem emitRec_outbox (s : State) (e : Event) : (emitRec s e).outbox = s.outbox := rfl

/-! ### `emit` -/

@[simp] theorem emit_pending (s : State) (src : BitVec 16) (code a b : Nat) : (emit s src code a b).pending = s.pending := rfl
@[simp] theorem emit_time (s : State) (src : BitVec 16) (code a b : Nat) : (emit s src code a b).time = s.time := rfl
@[simp] theorem emit_draws (s : State) (src : BitVec 16) (code a b : Nat) : (emit s src code a b).draws = s.draws := rfl
@[simp] theorem emit_regs (s : State) (src : BitVec 16) (code a b : Nat) : (emit s src code a b).regs = s.regs := rfl
@[simp] theorem emit_mem (s : State) (src : BitVec 16) (code a b : Nat) : (emit s src code a b).mem = s.mem := rfl
@[simp] theorem emit_poison (s : State) (src : BitVec 16) (code a b : Nat) : (emit s src code a b).poison = s.poison := rfl
@[simp] theorem emit_tags (s : State) (src : BitVec 16) (code a b : Nat) : (emit s src code a b).tags = s.tags := rfl
@[simp] theorem emit_satLines (s : State) (src : BitVec 16) (code a b : Nat) : (emit s src code a b).satLines = s.satLines := rfl
@[simp] theorem emit_yard (s : State) (src : BitVec 16) (code a b : Nat) : (emit s src code a b).yard = s.yard := rfl
@[simp] theorem emit_seqs (s : State) (src : BitVec 16) (code a b : Nat) : (emit s src code a b).seqs = s.seqs := rfl
@[simp] theorem emit_claimers (s : State) (src : BitVec 16) (code a b : Nat) : (emit s src code a b).claimers = s.claimers := rfl
@[simp] theorem emit_stats (s : State) (src : BitVec 16) (code a b : Nat) : (emit s src code a b).stats = s.stats := rfl
@[simp] theorem emit_upd (s : State) (src : BitVec 16) (code a b : Nat) : (emit s src code a b).upd = s.upd := rfl
@[simp] theorem emit_barrows (s : State) (src : BitVec 16) (code a b : Nat) : (emit s src code a b).barrows = s.barrows := rfl
@[simp] theorem emit_homes (s : State) (src : BitVec 16) (code a b : Nat) : (emit s src code a b).homes = s.homes := rfl
@[simp] theorem emit_sync (s : State) (src : BitVec 16) (code a b : Nat) : (emit s src code a b).sync = s.sync := rfl
@[simp] theorem emit_fab (s : State) (src : BitVec 16) (code a b : Nat) : (emit s src code a b).fab = s.fab := rfl
@[simp] theorem emit_groom (s : State) (src : BitVec 16) (code a b : Nat) : (emit s src code a b).groom = s.groom := rfl
@[simp] theorem emit_power (s : State) (src : BitVec 16) (code a b : Nat) : (emit s src code a b).power = s.power := rfl
@[simp] theorem emit_svc (s : State) (src : BitVec 16) (code a b : Nat) : (emit s src code a b).svc = s.svc := rfl
@[simp] theorem emit_sec (s : State) (src : BitVec 16) (code a b : Nat) : (emit s src code a b).sec = s.sec := rfl
@[simp] theorem emit_outbox (s : State) (src : BitVec 16) (code a b : Nat) : (emit s src code a b).outbox = s.outbox := rfl

end Sys2Proof.Machine
end

