-- ==== Sys2Proof/Laws/Store.lean ====
section
/-! SUPPORT. Laws of sparse maps and of memory: what a read finds after a write, and the canonical form. -/

namespace Sys2Proof.Machine

/-! ### Reading after an update -/

@[simp] theorem mfind_mput_same {α : Type} (m : Map α) (k : Nat) (v : α) : mfind (mput m k v) k = some v := by
  induction m with
  | nil => simp [mput, mfind]
  | cons e t ih =>
    obtain ⟨j, w⟩ := e
    unfold mput
    split
    · simp [mfind]
    · split
      · simp [mfind]
      · rename_i h; simp [mfind, h, ih]

theorem mfind_mput_other {α : Type} (m : Map α) (k i : Nat) (v : α) (h : i ≠ k) : mfind (mput m k v) i = mfind m i := by
  induction m with
  | nil => simp [mput, mfind, Ne.symm h]
  | cons e t ih =>
    obtain ⟨j, w⟩ := e
    unfold mput
    split
    · simp [mfind, Ne.symm h]
    · split
      · rename_i hj; subst hj; simp [mfind, Ne.symm h]
      · simp only [mfind, ih]

theorem mfind_filter {α : Type} (m : Map α) (p : Nat → Bool) (i : Nat) :
    mfind (m.filter (fun e => p e.1)) i = if p i then mfind m i else none := by
  induction m with
  | nil => simp [mfind]
  | cons e t ih =>
    obtain ⟨j, w⟩ := e
    by_cases hp : p j = true
    · rw [List.filter_cons_of_pos (by simpa using hp)]
      by_cases hj : j = i
      · subst hj; simp [mfind, hp]
      · simp only [mfind, hj, if_false, ih]
    · rw [List.filter_cons_of_neg (by simpa using hp), ih]
      by_cases hj : j = i
      · subst hj; simp [hp]
      · simp only [mfind, hj, if_false]

@[simp] theorem mfind_mdel_same {α : Type} (m : Map α) (k : Nat) : mfind (mdel m k) k = none := by
  have := mfind_filter m (fun j => decide (j ≠ k)) k
  simpa [mdel] using this

theorem mfind_mdel_other {α : Type} (m : Map α) (k i : Nat) (h : i ≠ k) : mfind (mdel m k) i = mfind m i := by
  have := mfind_filter m (fun j => decide (j ≠ k)) i
  simpa [mdel, h] using this

@[simp] theorem mget_mset_same {α : Type} [DecidableEq α] (m : Map α) (d : α) (k : Nat) (v : α) :
    mget (mset m d k v) d k = v := by
  unfold mset
  split
  · rename_i h; simp [mget, h]
  · simp [mget]

theorem mget_mset_other {α : Type} [DecidableEq α] (m : Map α) (d e : α) (k i : Nat) (v : α) (h : i ≠ k) :
    mget (mset m d k v) e i = mget m e i := by
  unfold mset
  split
  · simp only [mget, mfind_mdel_other m k i h]
  · simp only [mget, mfind_mput_other m k i v h]

/-! ### The canonical form -/

theorem risingFrom_mono (a b : Nat) (l : List Nat) (h : a ≤ b) (hb : risingFrom b l = true) : risingFrom a l = true := by
  cases l with
  | nil => rfl
  | cons k t =>
    simp only [risingFrom, Bool.and_eq_true, decide_eq_true_eq] at hb ⊢
    exact ⟨Nat.le_trans h hb.1, hb.2⟩

theorem risingFrom_filter {α : Type} (p : Nat × α → Bool) (m : Map α) (a : Nat) (h : risingFrom a (m.map Prod.fst) = true) :
    risingFrom a ((m.filter p).map Prod.fst) = true := by
  induction m generalizing a with
  | nil => rfl
  | cons e t ih =>
    simp only [List.map_cons, risingFrom, Bool.and_eq_true, decide_eq_true_eq] at h
    by_cases hp : p e = true
    · rw [List.filter_cons_of_pos hp]
      simp only [List.map_cons, risingFrom, Bool.and_eq_true, decide_eq_true_eq]
      exact ⟨h.1, ih _ h.2⟩
    · rw [List.filter_cons_of_neg hp]
      exact ih _ (risingFrom_mono _ _ _ (Nat.le_succ_of_le h.1) h.2)

theorem risingFrom_mput {α : Type} (m : Map α) (k : Nat) (v : α) (a : Nat) (ha : a ≤ k)
    (h : risingFrom a (m.map Prod.fst) = true) : risingFrom a ((mput m k v).map Prod.fst) = true := by
  induction m generalizing a with
  | nil => simp [mput, risingFrom, ha]
  | cons e t ih =>
    obtain ⟨j, w⟩ := e
    simp only [List.map_cons, risingFrom, Bool.and_eq_true, decide_eq_true_eq] at h
    unfold mput
    split
    · rename_i hk
      simp only [List.map_cons, risingFrom, Bool.and_eq_true, decide_eq_true_eq]
      exact ⟨ha, hk, h.2⟩
    · split
      · rename_i hj; subst hj
        simp only [List.map_cons, risingFrom, Bool.and_eq_true, decide_eq_true_eq]
        exact h
      · rename_i h1 h2
        simp only [List.map_cons, risingFrom, Bool.and_eq_true, decide_eq_true_eq]
        exact ⟨h.1, ih _ (by omega) h.2⟩

theorem all_mput {α : Type} (m : Map α) (k : Nat) (v : α) (p : Nat × α → Bool) (hv : p (k, v) = true) (h : m.all p = true) :
    (mput m k v).all p = true := by
  induction m with
  | nil => simp [mput, hv]
  | cons e t ih =>
    obtain ⟨j, w⟩ := e
    simp only [List.all_cons, Bool.and_eq_true] at h
    unfold mput
    split
    · simp only [List.all_cons, Bool.and_eq_true]; exact ⟨hv, h.1, h.2⟩
    · split
      · simp only [List.all_cons, Bool.and_eq_true]; exact ⟨hv, h.2⟩
      · simp only [List.all_cons, Bool.and_eq_true]; exact ⟨h.1, ih h.2⟩

/-- Taking entries out keeps the canonical form. -/
theorem mcanon_filter {α : Type} [DecidableEq α] (d : α) (m : Map α) (p : Nat × α → Bool) (h : mcanon d m = true) :
    mcanon d (m.filter p) = true := by
  simp only [mcanon, Bool.and_eq_true] at h ⊢
  refine ⟨risingFrom_filter p m 0 h.1, ?_⟩
  rw [List.all_eq_true] at *
  intro x hx
  exact h.2 x (List.mem_filter.mp hx).1

/-- Setting a key keeps the canonical form. -/
theorem mcanon_mset {α : Type} [DecidableEq α] (d : α) (m : Map α) (k : Nat) (v : α) (h : mcanon d m = true) :
    mcanon d (mset m d k v) = true := by
  unfold mset
  split
  · exact mcanon_filter d m _ h
  · rename_i hv
    simp only [mcanon, Bool.and_eq_true] at h ⊢
    exact ⟨risingFrom_mput m k v 0 (Nat.zero_le _) h.1, all_mput m k v _ (by simpa using hv) h.2⟩

theorem memPut_wf (m : List Host.Cell) (p : Nat) (b : Byte) (h : Memory.wf m = true) : Memory.wf (memPut m p b) = true :=
  mcanon_mset 0 m p b h

theorem memWrite_wf (m : List Host.Cell) (p : Nat) (d : List Byte) (h : Memory.wf m = true) : Memory.wf (memWrite m p d) = true := by
  induction d generalizing m p with
  | nil => exact h
  | cons b t ih => exact ih _ _ (memPut_wf m p b h)

theorem mem_filter_wf (m : List Host.Cell) (p : Host.Cell → Bool) (h : Memory.wf m = true) : Memory.wf (m.filter p) = true :=
  mcanon_filter 0 m p h

theorem putBytes_wf (s : State) (p : Nat) (d : List Byte) (h : Memory.wf s.mem = true) : Memory.wf (putBytes s p d).mem = true :=
  memWrite_wf s.mem p d h

theorem reset_mem_wf : Memory.wf State.reset.mem = true := rfl

/-! ### Bytes after a store -/

theorem mget_memWrite_before (m : List Host.Cell) (p q : Nat) (d : List Byte) (h : q < p) :
    mget (memWrite m p d) 0 q = mget m 0 q := by
  induction d generalizing m p with
  | nil => rfl
  | cons b t ih =>
    simp only [memWrite]
    rw [ih _ _ (Nat.lt_succ_of_lt h)]
    exact mget_mset_other m 0 0 p q b (Nat.ne_of_lt h)

/-- A byte inside a store reads as stored, one outside reads as before. -/
theorem mget_memWrite (m : List Host.Cell) (p q : Nat) (d : List Byte) :
    mget (memWrite m p d) 0 q = if p ≤ q ∧ q < p + d.length then d.getD (q - p) 0 else mget m 0 q := by
  induction d generalizing m p with
  | nil =>
    simp only [memWrite, List.length_nil, Nat.add_zero]
    rw [if_neg (by omega)]
  | cons b t ih =>
    simp only [memWrite, List.length_cons]
    rw [ih]
    by_cases hq : q = p
    · subst hq
      rw [if_neg (by omega), if_pos (by omega)]
      simp [memPut]
    · have ho : mget (memPut m p b) 0 q = mget m 0 q := mget_mset_other m 0 0 p q b hq
      rw [ho]
      by_cases hin : p + 1 ≤ q ∧ q < p + 1 + t.length
      · rw [if_pos hin, if_pos (by omega)]
        have hs : q - p = (q - (p + 1)) + 1 := by omega
        rw [hs, List.getD_cons_succ]
      · rw [if_neg hin, if_neg (by omega)]

theorem readByte_putBytes (s : State) (p q : Nat) (d : List Byte) :
    readByte (putBytes s p d) q = if p ≤ q ∧ q < p + d.length then d.getD (q - p) 0 else readByte s q :=
  mget_memWrite s.mem p q d

end Sys2Proof.Machine
end

