-- ==== Sys2Proof/Laws/Registers.lean ====
section
/-! SUPPORT. Laws of bit fields and of the registers' fields. -/

namespace Sys2Proof.Machine

theorem field_testBit (w lo len i : Nat) : (field w lo len).testBit i = (decide (i < len) && w.testBit (lo + i)) := by
  simp only [field, Nat.testBit_mod_two_pow, Nat.testBit_shiftRight]

theorem field_lt (w lo len : Nat) : field w lo len < 2 ^ len := Nat.mod_lt _ (Nat.two_pow_pos len)

theorem setBits_eq (w lo len v : Nat) :
    setBits w lo len v = 2 ^ lo * (2 ^ len * (w / 2 ^ lo / 2 ^ len) + v % 2 ^ len) + w % 2 ^ lo := by
  have h1 : w = 2 ^ lo * (w / 2 ^ lo) + w % 2 ^ lo := (Nat.div_add_mod w (2 ^ lo)).symm
  have h2 : w / 2 ^ lo = 2 ^ len * (w / 2 ^ lo / 2 ^ len) + w / 2 ^ lo % 2 ^ len := (Nat.div_add_mod _ _).symm
  simp only [setBits, field, Nat.shiftRight_eq_div_pow, Nat.shiftLeft_eq]
  generalize hq : w / 2 ^ lo / 2 ^ len = q at *
  generalize hr : w / 2 ^ lo % 2 ^ len = r at *
  generalize w / 2 ^ lo = u at *
  generalize w % 2 ^ lo = z at *
  rw [h2] at h1
  have e1 : 2 ^ lo * (2 ^ len * q + r) = 2 ^ lo * (2 ^ len * q) + r * 2 ^ lo := by rw [Nat.mul_add, Nat.mul_comm r]
  have e2 : 2 ^ lo * (2 ^ len * q + v % 2 ^ len) = 2 ^ lo * (2 ^ len * q) + v % 2 ^ len * 2 ^ lo := by
    rw [Nat.mul_add, Nat.mul_comm (v % 2 ^ len)]
  rw [e1] at h1
  rw [e2, h1]
  omega

theorem setBits_testBit (w lo len v i : Nat) :
    (setBits w lo len v).testBit i = if lo ≤ i ∧ i < lo + len then v.testBit (i - lo) else w.testBit i := by
  rw [setBits_eq, Nat.testBit_two_pow_mul_add _ (Nat.mod_lt _ (Nat.two_pow_pos lo)), Nat.testBit_mod_two_pow]
  by_cases h : i < lo
  · simp [h, Nat.not_le.mpr h]
  · rw [if_neg h, Nat.testBit_two_pow_mul_add _ (Nat.mod_lt _ (Nat.two_pow_pos len)), Nat.testBit_mod_two_pow]
    by_cases h2 : i - lo < len
    · rw [if_pos h2, if_pos (by omega)]; simp [h2]
    · rw [if_neg h2, if_neg (by omega), Nat.testBit_div_two_pow, Nat.testBit_div_two_pow]
      congr 1; omega

theorem setBits_lt (w lo len v : Nat) (hw : w < 2 ^ 64) (h : lo + len ≤ 64) : setBits w lo len v < 2 ^ 64 := by
  refine Nat.lt_pow_two_of_testBit _ (fun i hi => ?_)
  rw [setBits_testBit, if_neg (by omega)]
  exact Nat.testBit_lt_two_pow (Nat.lt_of_lt_of_le hw (Nat.pow_le_pow_right (by decide) hi))

@[simp] theorem field_setBits_same (w lo len v : Nat) : field (setBits w lo len v) lo len = v % 2 ^ len := by
  refine Nat.eq_of_testBit_eq (fun i => ?_)
  rw [field_testBit, setBits_testBit, Nat.testBit_mod_two_pow]
  by_cases h : i < len
  · rw [if_pos (by omega)]; simp [h]
  · simp [h]

/-- Fields that share no bit do not disturb each other. -/
theorem field_setBits_other (w lo len v a n : Nat) (h : a + n ≤ lo ∨ lo + len ≤ a) :
    field (setBits w lo len v) a n = field w a n := by
  refine Nat.eq_of_testBit_eq (fun i => ?_)
  rw [field_testBit, field_testBit, setBits_testBit]
  by_cases hi : i < n
  · rw [if_neg (by omega)]
  · simp [hi]

/-! ### Registers -/

@[simp] theorem getReg_setReg_same (s : State) (a : Nat) (v : Word) : getReg (setReg s a v) a = v :=
  mget_mset_same s.regs (resetOf a) a v

theorem getReg_setReg_other (s : State) (a b : Nat) (v : Word) (h : b ≠ a) : getReg (setReg s a v) b = getReg s b :=
  mget_mset_other s.regs (resetOf a) (resetOf b) a b v h

theorem getReg_setF_same (s : State) (a lo len v : Nat) (h : lo + len ≤ 64) :
    (getReg (setF s a lo len v) a).toNat = setBits (getReg s a).toNat lo len v := by
  simp only [setF, getReg_setReg_same, BitVec.toNat_ofNat]
  exact Nat.mod_eq_of_lt (setBits_lt _ _ _ _ (getReg s a).isLt h)

theorem getReg_setF_other (s : State) (a b lo len v : Nat) (h : b ≠ a) : getReg (setF s a lo len v) b = getReg s b :=
  getReg_setReg_other s a b _ h

/-- A field reads as it was written, cut to its width. -/
theorem getF_setF_same (s : State) (a lo len v : Nat) (h : lo + len ≤ 64) : getF (setF s a lo len v) a lo len = v % 2 ^ len := by
  simp only [getF, getReg_setF_same s a lo len v h, field_setBits_same]

/-- Another field of the register stays. -/
theorem getF_setF_field (s : State) (a lo len v b n : Nat) (hw : lo + len ≤ 64) (h : b + n ≤ lo ∨ lo + len ≤ b) :
    getF (setF s a lo len v) a b n = getF s a b n := by
  simp only [getF, getReg_setF_same s a lo len v hw, field_setBits_other _ _ _ _ _ _ h]

/-- Fields of other registers stay. -/
theorem getF_setF_other (s : State) (a c lo len v b n : Nat) (h : c ≠ a) : getF (setF s a lo len v) c b n = getF s c b n := by
  simp only [getF, getReg_setF_other s a c lo len v h]

/-- A saturating counter. -/
theorem getF_satF_same (s : State) (a lo len n : Nat) (h : lo + len ≤ 64) :
    getF (satF s a lo len n) a lo len = min (getF s a lo len + n) (2 ^ len - 1) := by
  have h2 := Nat.two_pow_pos len
  rw [satF, getF_setF_same s a lo len _ h]
  exact Nat.mod_eq_of_lt (by omega)

theorem getF_satF_other (s : State) (a c lo len n b k : Nat) (h : c ≠ a) : getF (satF s a lo len n) c b k = getF s c b k :=
  getF_setF_other s a c lo len _ b k h

/-- Only the registers list decides what a register reads as. -/
theorem getReg_of_regs (s t : State) (a : Nat) (h : t.regs = s.regs) : getReg t a = getReg s a := by
  simp only [getReg, h]

theorem getF_of_regs (s t : State) (a lo len : Nat) (h : t.regs = s.regs) : getF t a lo len = getF s a lo len := by
  simp only [getF, getReg_of_regs s t a h]

end Sys2Proof.Machine
end

