-- ==== Sys2Proof/Laws/Ops.lean ====
section
/-! SUPPORT. Laws of the end of a command and of event records. -/

namespace Sys2Proof.Machine

/-! ### The end of a command -/

@[simp] theorem capEvents_pending (s : State) : (capEvents s).pending = s.pending := by unfold capEvents; split <;> rfl
@[simp] theorem capEvents_time (s : State) : (capEvents s).time = s.time := by unfold capEvents; split <;> rfl
@[simp] theorem capEvents_draws (s : State) : (capEvents s).draws = s.draws := by unfold capEvents; split <;> rfl
@[simp] theorem capEvents_regs (s : State) : (capEvents s).regs = s.regs := by unfold capEvents; split <;> rfl
@[simp] theorem capEvents_mem (s : State) : (capEvents s).mem = s.mem := by unfold capEvents; split <;> rfl
@[simp] theorem capEvents_poison (s : State) : (capEvents s).poison = s.poison := by unfold capEvents; split <;> rfl
@[simp] theorem capEvents_tags (s : State) : (capEvents s).tags = s.tags := by unfold capEvents; split <;> rfl
@[simp] theorem capEvents_satLines (s : State) : (capEvents s).satLines = s.satLines := by unfold capEvents; split <;> rfl
@[simp] theorem capEvents_yard (s : State) : (capEvents s).yard = s.yard := by unfold capEvents; split <;> rfl
@[simp] theorem capEvents_seqs (s : State) : (capEvents s).seqs = s.seqs := by unfold capEvents; split <;> rfl
@[simp] theorem capEvents_claimers (s : State) : (capEvents s).claimers = s.claimers := by unfold capEvents; split <;> rfl
@[simp] theorem capEvents_stats (s : State) : (capEvents s).stats = s.stats := by unfold capEvents; split <;> rfl
@[simp] theorem capEvents_upd (s : State) : (capEvents s).upd = s.upd := by unfold capEvents; split <;> rfl
@[simp] theorem capEvents_barrows (s : State) : (capEvents s).barrows = s.barrows := by unfold capEvents; split <;> rfl
@[simp] theorem capEvents_homes (s : State) : (capEvents s).homes = s.homes := by unfold capEvents; split <;> rfl
@[simp] theorem capEvents_sync (s : State) : (capEvents s).sync = s.sync := by unfold capEvents; split <;> rfl
@[simp] theorem capEvents_fab (s : State) : (capEvents s).fab = s.fab := by unfold capEvents; split <;> rfl
@[simp] theorem capEvents_groom (s : State) : (capEvents s).groom = s.groom := by unfold capEvents; split <;> rfl
@[simp] theorem capEvents_power (s : State) : (capEvents s).power = s.power := by unfold capEvents; split <;> rfl
@[simp] theorem capEvents_svc (s : State) : (capEvents s).svc = s.svc := by unfold capEvents; split <;> rfl
@[simp] theorem capEvents_sec (s : State) : (capEvents s).sec = s.sec := by unfold capEvents; split <;> rfl
@[simp] theorem capEvents_outbox (s : State) : (capEvents s).outbox = s.outbox := by unfold capEvents; split <;> rfl

@[simp] theorem capEvents_host_slots (s : State) : (capEvents s).host.slots = s.host.slots := by unfold capEvents; split <;> rfl
@[simp] theorem capEvents_host_posted (s : State) : (capEvents s).host.posted = s.host.posted := by unfold capEvents; split <;> rfl
@[simp] theorem capEvents_host_msix (s : State) : (capEvents s).host.msix = s.host.msix := by unfold capEvents; split <;> rfl
@[simp] theorem capEvents_host_pba (s : State) : (capEvents s).host.pba = s.host.pba := by unfold capEvents; split <;> rfl
@[simp] theorem capEvents_host_log (s : State) : (capEvents s).host.log = s.host.log := by unfold capEvents; split <;> rfl
@[simp] theorem capEvents_host_nextSeq (s : State) : (capEvents s).host.nextSeq = s.host.nextSeq := by unfold capEvents; split <;> rfl
@[simp] theorem capEvents_host_evSeq (s : State) : (capEvents s).host.evSeq = s.host.evSeq := by unfold capEvents; split <;> rfl
@[simp] theorem capEvents_host_logDropped (s : State) : (capEvents s).host.logDropped = s.host.logDropped := by unfold capEvents; split <;> rfl
@[simp] theorem capEvents_host_ring (s : State) : (capEvents s).host.ring = s.host.ring := by unfold capEvents; split <;> rfl
@[simp] theorem capEvents_host_filter (s : State) : (capEvents s).host.filter = s.host.filter := by unfold capEvents; split <;> rfl
@[simp] theorem capEvents_host_lastRaise (s : State) : (capEvents s).host.lastRaise = s.host.lastRaise := by unfold capEvents; split <;> rfl
@[simp] theorem capEvents_host_deferred (s : State) : (capEvents s).host.deferred = s.host.deferred := by unfold capEvents; split <;> rfl
@[simp] theorem capEvents_host_heartbeat (s : State) : (capEvents s).host.heartbeat = s.host.heartbeat := by unfold capEvents; split <;> rfl
@[simp] theorem capEvents_host_accessMb (s : State) : (capEvents s).host.accessMb = s.host.accessMb := by unfold capEvents; split <;> rfl
@[simp] theorem capEvents_host_accessCw (s : State) : (capEvents s).host.accessCw = s.host.accessCw := by unfold capEvents; split <;> rfl
@[simp] theorem capEvents_host_highAt (s : State) : (capEvents s).host.highAt = s.host.highAt := by unfold capEvents; split <;> rfl
@[simp] theorem capEvents_host_ready (s : State) : (capEvents s).host.ready = s.host.ready := by unfold capEvents; split <;> rfl
@[simp] theorem capEvents_host_cfgReady (s : State) : (capEvents s).host.cfgReady = s.host.cfgReady := by unfold capEvents; split <;> rfl
@[simp] theorem capEvents_host_cfgFrom (s : State) : (capEvents s).host.cfgFrom = s.host.cfgFrom := by unfold capEvents; split <;> rfl
@[simp] theorem capEvents_host_inReset (s : State) : (capEvents s).host.inReset = s.host.inReset := by unfold capEvents; split <;> rfl
@[simp] theorem capEvents_host_cfgSpace (s : State) : (capEvents s).host.cfgSpace = s.host.cfgSpace := by unfold capEvents; split <;> rfl
@[simp] theorem capEvents_host_heldWrites (s : State) : (capEvents s).host.heldWrites = s.host.heldWrites := by unfold capEvents; split <;> rfl
@[simp] theorem capEvents_host_pendingReads (s : State) : (capEvents s).host.pendingReads = s.host.pendingReads := by unfold capEvents; split <;> rfl

@[simp] theorem ended_pending (s t : State) : (ended s t).pending = s.pending := by simp only [ended, capEvents_pending]
@[simp] theorem ended_time (s t : State) : (ended s t).time = s.time := by simp only [ended, capEvents_time]
@[simp] theorem ended_draws (s t : State) : (ended s t).draws = t.draws := by simp only [ended, capEvents_draws]
@[simp] theorem ended_regs (s t : State) : (ended s t).regs = t.regs := by simp only [ended, capEvents_regs]
@[simp] theorem ended_mem (s t : State) : (ended s t).mem = t.mem := by simp only [ended, capEvents_mem]
@[simp] theorem ended_poison (s t : State) : (ended s t).poison = t.poison := by simp only [ended, capEvents_poison]
@[simp] theorem ended_tags (s t : State) : (ended s t).tags = t.tags := by simp only [ended, capEvents_tags]
@[simp] theorem ended_satLines (s t : State) : (ended s t).satLines = t.satLines := by simp only [ended, capEvents_satLines]
@[simp] theorem ended_yard (s t : State) : (ended s t).yard = t.yard := by simp only [ended, capEvents_yard]
@[simp] theorem ended_seqs (s t : State) : (ended s t).seqs = t.seqs := by simp only [ended, capEvents_seqs]
@[simp] theorem ended_claimers (s t : State) : (ended s t).claimers = t.claimers := by simp only [ended, capEvents_claimers]
@[simp] theorem ended_stats (s t : State) : (ended s t).stats = t.stats := by simp only [ended, capEvents_stats]
@[simp] theorem ended_upd (s t : State) : (ended s t).upd = t.upd := by simp only [ended, capEvents_upd]
@[simp] theorem ended_barrows (s t : State) : (ended s t).barrows = t.barrows := by simp only [ended, capEvents_barrows]
@[simp] theorem ended_homes (s t : State) : (ended s t).homes = t.homes := by simp only [ended, capEvents_homes]
@[simp] theorem ended_sync (s t : State) : (ended s t).sync = t.sync := by simp only [ended, capEvents_sync]
@[simp] theorem ended_fab (s t : State) : (ended s t).fab = t.fab := by simp only [ended, capEvents_fab]
@[simp] theorem ended_groom (s t : State) : (ended s t).groom = t.groom := by simp only [ended, capEvents_groom]
@[simp] theorem ended_power (s t : State) : (ended s t).power = t.power := by simp only [ended, capEvents_power]
@[simp] theorem ended_svc (s t : State) : (ended s t).svc = t.svc := by simp only [ended, capEvents_svc]
@[simp] theorem ended_sec (s t : State) : (ended s t).sec = t.sec := by simp only [ended, capEvents_sec]
@[simp] theorem ended_outbox (s t : State) : (ended s t).outbox = t.outbox := by simp only [ended, capEvents_outbox]
@[simp] theorem ended_host_slots (s t : State) : (ended s t).host.slots = t.host.slots := by simp only [ended, capEvents_host_slots]
@[simp] theorem ended_host_posted (s t : State) : (ended s t).host.posted = t.host.posted := by simp only [ended, capEvents_host_posted]
@[simp] theorem ended_host_msix (s t : State) : (ended s t).host.msix = t.host.msix := by simp only [ended, capEvents_host_msix]
@[simp] theorem ended_host_pba (s t : State) : (ended s t).host.pba = t.host.pba := by simp only [ended, capEvents_host_pba]
@[simp] theorem ended_host_log (s t : State) : (ended s t).host.log = t.host.log := by simp only [ended, capEvents_host_log]
@[simp] theorem ended_host_nextSeq (s t : State) : (ended s t).host.nextSeq = t.host.nextSeq := by simp only [ended, capEvents_host_nextSeq]
@[simp] theorem ended_host_evSeq (s t : State) : (ended s t).host.evSeq = t.host.evSeq := by simp only [ended, capEvents_host_evSeq]
@[simp] theorem ended_host_logDropped (s t : State) : (ended s t).host.logDropped = t.host.logDropped := by simp only [ended, capEvents_host_logDropped]
@[simp] theorem ended_host_ring (s t : State) : (ended s t).host.ring = t.host.ring := by simp only [ended, capEvents_host_ring]
@[simp] theorem ended_host_filter (s t : State) : (ended s t).host.filter = t.host.filter := by simp only [ended, capEvents_host_filter]
@[simp] theorem ended_host_lastRaise (s t : State) : (ended s t).host.lastRaise = t.host.lastRaise := by simp only [ended, capEvents_host_lastRaise]
@[simp] theorem ended_host_deferred (s t : State) : (ended s t).host.deferred = t.host.deferred := by simp only [ended, capEvents_host_deferred]
@[simp] theorem ended_host_heartbeat (s t : State) : (ended s t).host.heartbeat = t.host.heartbeat := by simp only [ended, capEvents_host_heartbeat]
@[simp] theorem ended_host_accessMb (s t : State) : (ended s t).host.accessMb = t.host.accessMb := by simp only [ended, capEvents_host_accessMb]
@[simp] theorem ended_host_accessCw (s t : State) : (ended s t).host.accessCw = t.host.accessCw := by simp only [ended, capEvents_host_accessCw]
@[simp] theorem ended_host_highAt (s t : State) : (ended s t).host.highAt = t.host.highAt := by simp only [ended, capEvents_host_highAt]
@[simp] theorem ended_host_ready (s t : State) : (ended s t).host.ready = t.host.ready := by simp only [ended, capEvents_host_ready]
@[simp] theorem ended_host_cfgReady (s t : State) : (ended s t).host.cfgReady = t.host.cfgReady := by simp only [ended, capEvents_host_cfgReady]
@[simp] theorem ended_host_cfgFrom (s t : State) : (ended s t).host.cfgFrom = t.host.cfgFrom := by simp only [ended, capEvents_host_cfgFrom]
@[simp] theorem ended_host_inReset (s t : State) : (ended s t).host.inReset = t.host.inReset := by simp only [ended, capEvents_host_inReset]
@[simp] theorem ended_host_cfgSpace (s t : State) : (ended s t).host.cfgSpace = t.host.cfgSpace := by simp only [ended, capEvents_host_cfgSpace]
@[simp] theorem ended_host_heldWrites (s t : State) : (ended s t).host.heldWrites = t.host.heldWrites := by simp only [ended, capEvents_host_heldWrites]
@[simp] theorem ended_host_pendingReads (s t : State) : (ended s t).host.pendingReads = t.host.pendingReads := by simp only [ended, capEvents_host_pendingReads]

/-- The input queue holds at most 4,096 records after every command. -/
theorem capEvents_evq_le (s : State) : (capEvents s).host.evq.length ≤ 4096 := by
  unfold capEvents
  split
  · assumption
  · simp only [List.length_take]; omega

theorem ended_evq_le (s t : State) : (ended s t).host.evq.length ≤ 4096 := capEvents_evq_le _

theorem capEvents_short (s : State) (h : s.host.evq.length ≤ 4096) : capEvents s = s := by
  unfold capEvents; rw [if_pos h]

/-- While the queue has room nothing is dropped. -/
theorem ended_short (s t : State) (h : t.host.evq.length ≤ 4096) : ended s t = { t with pending := s.pending, time := s.time } :=
  capEvents_short _ h

theorem ended_self (s : State) (h : s.host.evq.length ≤ 4096) : ended s s = s := by
  rw [ended_short s s h]

theorem finish_on (s t : State) (h : poweredUp s = true) : finish s t = .next (ended s t) := by
  simp only [finish, finishAon, h, if_true]

theorem finish_off (s t : State) (h : poweredUp s = false) : finish s t = .next (ended s s) := by
  simp only [finish, finishAon, h, Bool.false_eq_true, if_false]

/-- Every command ends in a next state: with the queue and the clock as they were, and at most 4,096 records waiting. -/
theorem finishAon_next (s t : State) : ∃ u, finishAon s t = .next u ∧ u.pending = s.pending ∧ u.time = s.time ∧ u.host.evq.length ≤ 4096 :=
  ⟨ended s t, rfl, ended_pending s t, ended_time s t, ended_evq_le s t⟩

theorem finish_next (s t : State) : ∃ u, finish s t = .next u ∧ u.pending = s.pending ∧ u.time = s.time ∧ u.host.evq.length ≤ 4096 :=
  finishAon_next s _

theorem getReg_ended (s t : State) (a : Nat) : getReg (ended s t) a = getReg t a := getReg_of_regs t _ a (ended_regs s t)
theorem getF_ended (s t : State) (a lo len : Nat) : getF (ended s t) a lo len = getF t a lo len := getF_of_regs t _ a lo len (ended_regs s t)
theorem readByte_ended (s t : State) (p : Nat) : readByte (ended s t) p = readByte t p := by simp only [readByte, ended_mem]

/-! ### Event records -/

@[simp] theorem emitRec_host_slots (s : State) (e : Event) : (emitRec s e).host.slots = s.host.slots := rfl
@[simp] theorem emitRec_host_posted (s : State) (e : Event) : (emitRec s e).host.posted = s.host.posted := rfl
@[simp] theorem emitRec_host_msix (s : State) (e : Event) : (emitRec s e).host.msix = s.host.msix := rfl
@[simp] theorem emitRec_host_pba (s : State) (e : Event) : (emitRec s e).host.pba = s.host.pba := rfl
@[simp] theorem emitRec_host_log (s : State) (e : Event) : (emitRec s e).host.log = s.host.log := rfl
@[simp] theorem emitRec_host_nextSeq (s : State) (e : Event) : (emitRec s e).host.nextSeq = s.host.nextSeq := rfl
@[simp] theorem emitRec_host_evSeq (s : State) (e : Event) : (emitRec s e).host.evSeq = s.host.evSeq := rfl
@[simp] theorem emitRec_host_evLost (s : State) (e : Event) : (emitRec s e).host.evLost = s.host.evLost := rfl
@[simp] theorem emitRec_host_logDropped (s : State) (e : Event) : (emitRec s e).host.logDropped = s.host.logDropped := rfl
@[simp] theorem emitRec_host_ring (s : State) (e : Event) : (emitRec s e).host.ring = s.host.ring := rfl
@[simp] theorem emitRec_host_filter (s : State) (e : Event) : (emitRec s e).host.filter = s.host.filter := rfl
@[simp] theorem emitRec_host_lastRaise (s : State) (e : Event) : (emitRec s e).host.lastRaise = s.host.lastRaise := rfl
@[simp] theorem emitRec_host_deferred (s : State) (e : Event) : (emitRec s e).host.deferred = s.host.deferred := rfl
@[simp] theorem emitRec_host_heartbeat (s : State) (e : Event) : (emitRec s e).host.heartbeat = s.host.heartbeat := rfl
@[simp] theorem emitRec_host_accessMb (s : State) (e : Event) : (emitRec s e).host.accessMb = s.host.accessMb := rfl
@[simp] theorem emitRec_host_accessCw (s : State) (e : Event) : (emitRec s e).host.accessCw = s.host.accessCw := rfl
@[simp] theorem emitRec_host_highAt (s : State) (e : Event) : (emitRec s e).host.highAt = s.host.highAt := rfl
@[simp] theorem emitRec_host_ready (s : State) (e : Event) : (emitRec s e).host.ready = s.host.ready := rfl
@[simp] theorem emitRec_host_cfgReady (s : State) (e : Event) : (emitRec s e).host.cfgReady = s.host.cfgReady := rfl
@[simp] theorem emitRec_host_cfgFrom (s : State) (e : Event) : (emitRec s e).host.cfgFrom = s.host.cfgFrom := rfl
@[simp] theorem emitRec_host_inReset (s : State) (e : Event) : (emitRec s e).host.inReset = s.host.inReset := rfl
@[simp] theorem emitRec_host_cfgSpace (s : State) (e : Event) : (emitRec s e).host.cfgSpace = s.host.cfgSpace := rfl
@[simp] theorem emitRec_host_heldWrites (s : State) (e : Event) : (emitRec s e).host.heldWrites = s.host.heldWrites := rfl
@[simp] theorem emitRec_host_pendingReads (s : State) (e : Event) : (emitRec s e).host.pendingReads = s.host.pendingReads := rfl
@[simp] theorem emit_host_slots (s : State) (src : BitVec 16) (c a b : Nat) : (emit s src c a b).host.slots = s.host.slots := rfl
@[simp] theorem emit_host_posted (s : State) (src : BitVec 16) (c a b : Nat) : (emit s src c a b).host.posted = s.host.posted := rfl
@[simp] theorem emit_host_msix (s : State) (src : BitVec 16) (c a b : Nat) : (emit s src c a b).host.msix = s.host.msix := rfl
@[simp] theorem emit_host_pba (s : State) (src : BitVec 16) (c a b : Nat) : (emit s src c a b).host.pba = s.host.pba := rfl
@[simp] theorem emit_host_log (s : State) (src : BitVec 16) (c a b : Nat) : (emit s src c a b).host.log = s.host.log := rfl
@[simp] theorem emit_host_nextSeq (s : State) (src : BitVec 16) (c a b : Nat) : (emit s src c a b).host.nextSeq = s.host.nextSeq := rfl
@[simp] theorem emit_host_evSeq (s : State) (src : BitVec 16) (c a b : Nat) : (emit s src c a b).host.evSeq = s.host.evSeq := rfl
@[simp] theorem emit_host_evLost (s : State) (src : BitVec 16) (c a b : Nat) : (emit s src c a b).host.evLost = s.host.evLost := rfl
@[simp] theorem emit_host_logDropped (s : State) (src : BitVec 16) (c a b : Nat) : (emit s src c a b).host.logDropped = s.host.logDropped := rfl
@[simp] theorem emit_host_ring (s : State) (src : BitVec 16) (c a b : Nat) : (emit s src c a b).host.ring = s.host.ring := rfl
@[simp] theorem emit_host_filter (s : State) (src : BitVec 16) (c a b : Nat) : (emit s src c a b).host.filter = s.host.filter := rfl
@[simp] theorem emit_host_lastRaise (s : State) (src : BitVec 16) (c a b : Nat) : (emit s src c a b).host.lastRaise = s.host.lastRaise := rfl
@[simp] theorem emit_host_deferred (s : State) (src : BitVec 16) (c a b : Nat) : (emit s src c a b).host.deferred = s.host.deferred := rfl
@[simp] theorem emit_host_heartbeat (s : State) (src : BitVec 16) (c a b : Nat) : (emit s src c a b).host.heartbeat = s.host.heartbeat := rfl
@[simp] theorem emit_host_accessMb (s : State) (src : BitVec 16) (c a b : Nat) : (emit s src c a b).host.accessMb = s.host.accessMb := rfl
@[simp] theorem emit_host_accessCw (s : State) (src : BitVec 16) (c a b : Nat) : (emit s src c a b).host.accessCw = s.host.accessCw := rfl
@[simp] theorem emit_host_highAt (s : State) (src : BitVec 16) (c a b : Nat) : (emit s src c a b).host.highAt = s.host.highAt := rfl
@[simp] theorem emit_host_ready (s : State) (src : BitVec 16) (c a b : Nat) : (emit s src c a b).host.ready = s.host.ready := rfl
@[simp] theorem emit_host_cfgReady (s : State) (src : BitVec 16) (c a b : Nat) : (emit s src c a b).host.cfgReady = s.host.cfgReady := rfl
@[simp] theorem emit_host_cfgFrom (s : State) (src : BitVec 16) (c a b : Nat) : (emit s src c a b).host.cfgFrom = s.host.cfgFrom := rfl
@[simp] theorem emit_host_inReset (s : State) (src : BitVec 16) (c a b : Nat) : (emit s src c a b).host.inReset = s.host.inReset := rfl
@[simp] theorem emit_host_cfgSpace (s : State) (src : BitVec 16) (c a b : Nat) : (emit s src c a b).host.cfgSpace = s.host.cfgSpace := rfl
@[simp] theorem emit_host_heldWrites (s : State) (src : BitVec 16) (c a b : Nat) : (emit s src c a b).host.heldWrites = s.host.heldWrites := rfl
@[simp] theorem emit_host_pendingReads (s : State) (src : BitVec 16) (c a b : Nat) : (emit s src c a b).host.pendingReads = s.host.pendingReads := rfl

/-- The record that `emit` queues. -/
theorem emit_evq (s : State) (src : BitVec 16) (c a b : Nat) : ∃ e : Event, (emit s src c a b).host.evq = s.host.evq ++ [e]
    ∧ e.source = src ∧ e.code = BitVec.ofNat 16 c ∧ e.arg0 = BitVec.ofNat 48 a ∧ e.arg1 = BitVec.ofNat 48 b
    ∧ e.severity = severityOf c ∧ e.cycles = BitVec.ofNat 48 (eventCycles s src) ∧ e.lost = s.host.dropped :=
  ⟨_, rfl, rfl, rfl, rfl, rfl, rfl, rfl, rfl⟩

theorem getReg_emit (s : State) (src : BitVec 16) (c a b r : Nat) : getReg (emit s src c a b) r = getReg s r := rfl
theorem getF_emit (s : State) (src : BitVec 16) (c a b r lo len : Nat) : getF (emit s src c a b) r lo len = getF s r lo len := rfl
theorem readByte_emit (s : State) (src : BitVec 16) (c a b p : Nat) : readByte (emit s src c a b) p = readByte s p := rfl

end Sys2Proof.Machine
end

