-- ==== Sys2Proof/Laws/Mailbox.lean ====
section
/-! SUPPORT. Laws of mailbox slots: what completing a command changes, and what settling the queue behind it leaves. -/

namespace Sys2Proof.Machine

/-! ### Slots -/

@[simp] theorem mbOf_putMb_same (s : State) (k : MbSlot) (m : MbSt) : mbOf (putMb s k m) k = m :=
  mget_mset_same s.host.slots {} k.val m

theorem mbOf_putMb_other (s : State) (k j : MbSlot) (m : MbSt) (h : j ≠ k) : mbOf (putMb s k m) j = mbOf s j :=
  mget_mset_other s.host.slots {} {} k.val j.val m (fun e => h (Fin.ext e))

/-- Only the slots decide what a slot holds. -/
theorem mbOf_of_slots (s t : State) (k : MbSlot) (h : t.host.slots = s.host.slots) : mbOf t k = mbOf s k := by
  simp only [mbOf, h]

theorem mbOf_ended (s t : State) (k : MbSlot) : mbOf (ended s t) k = mbOf t k := mbOf_of_slots t _ k (ended_host_slots s t)
theorem mbOf_emit (s : State) (src : BitVec 16) (c a b : Nat) (k : MbSlot) : mbOf (emit s src c a b) k = mbOf s k := rfl
theorem mbOf_setF (s : State) (a lo len v : Nat) (k : MbSlot) : mbOf (setF s a lo len v) k = mbOf s k := rfl
theorem mbOf_satF (s : State) (a lo len v : Nat) (k : MbSlot) : mbOf (satF s a lo len v) k = mbOf s k := rfl

/-! ### Vectors -/

/-- Raising a vector changes pending bits or sends a message, nothing else. -/
theorem raiseVector_shape (s : State) (v : Nat) :
    ∃ p o, raiseVector s v = { s with host := { s.host with pba := p }, outbox := o } := by
  unfold raiseVector
  split
  · exact ⟨s.host.pba, s.outbox, rfl⟩
  · split
    · exact ⟨_, s.outbox, rfl⟩
    · exact ⟨s.host.pba, _, rfl⟩

/-! ### What a completion leaves -/

theorem OnlyMailbox_refl (s : State) : OnlyMailbox s s := ⟨⟨_, _, _, _, _, _, rfl⟩, fun _ _ => rfl⟩

theorem OnlyMailbox_trans {s t u : State} (h : OnlyMailbox s t) (g : OnlyMailbox t u) : OnlyMailbox s u := by
  obtain ⟨⟨r, sl, po, pb, jo, ou, rfl⟩, hr⟩ := h
  obtain ⟨⟨r', sl', po', pb', jo', ou', rfl⟩, gr⟩ := g
  exact ⟨⟨r', sl', po', pb', jo', ou', rfl⟩, fun a ha => (gr a ha).trans (hr a ha)⟩

theorem OnlyMailbox_getF {s t : State} (h : OnlyMailbox s t) (a lo len : Nat) (ha : a ≠ shedReg 0 0x200018) :
    getF t a lo len = getF s a lo len := by
  simp only [getF, h.2 a ha]

theorem putMb_only (s : State) (k : MbSlot) (m : MbSt) : OnlyMailbox s (putMb s k m) :=
  ⟨⟨s.regs, _, s.host.posted, s.host.pba, s.groom.journal, s.outbox, rfl⟩, fun _ _ => rfl⟩

theorem raiseVector_only (s : State) (v : Nat) : OnlyMailbox s (raiseVector s v) := by
  obtain ⟨p, o, h⟩ := raiseVector_shape s v
  rw [h]
  exact ⟨⟨s.regs, s.host.slots, s.host.posted, p, s.groom.journal, o, rfl⟩, fun _ _ => rfl⟩

theorem mbstat_only (s : State) (lo len n : Nat) : OnlyMailbox s (satF s (shedReg 0 0x200018) lo len n) :=
  ⟨⟨_, s.host.slots, s.host.posted, s.host.pba, s.groom.journal, s.outbox, rfl⟩,
    fun a ha => getReg_setF_other s _ a lo len _ ha⟩

theorem journal_only (s : State) (f : List MbSlot → List MbSlot) :
    OnlyMailbox s (onGroom s (fun g => { g with journal := f g.journal })) :=
  ⟨⟨s.regs, s.host.slots, s.host.posted, s.host.pba, _, s.outbox, rfl⟩, fun _ _ => rfl⟩

theorem posted_only (s : State) (f : List MbSlot → List MbSlot) :
    OnlyMailbox s (onHost s (fun h => { h with posted := f h.posted })) :=
  ⟨⟨s.regs, s.host.slots, _, s.host.pba, s.groom.journal, s.outbox, rfl⟩, fun _ _ => rfl⟩

theorem mbReturn_only (s : State) (k : MbSlot) (st : Nat) (fs : List (Nat × Nat)) (wh : Nat) :
    OnlyMailbox s (mbReturn s k st fs wh) := by
  have a := putMb_only s k (completedSlot (mbOf s k) st fs wh)
  have b := mbstat_only (putMb s k (completedSlot (mbOf s k) st fs wh)) 32 32 1
  have c := journal_only (satF (putMb s k (completedSlot (mbOf s k) st fs wh)) (shedReg 0 0x200018) 32 32 1)
    (fun l => l.filter (fun j => j != k))
  exact OnlyMailbox_trans (OnlyMailbox_trans a b) c

theorem mbComplete_only (s : State) (k : MbSlot) (st : Nat) (fs : List (Nat × Nat)) (wh : Nat) :
    OnlyMailbox s (mbComplete s k st fs wh) := by
  unfold mbComplete
  split
  · exact mbReturn_only s k st fs wh
  · exact OnlyMailbox_trans (mbReturn_only s k st fs wh) (raiseVector_only _ _)

theorem mbFail_only (s : State) (k : MbSlot) (st : Nat) : OnlyMailbox s (mbFail s k st) := mbComplete_only s k st [] _

theorem mbBegin_only (s : State) (k : MbSlot) : OnlyMailbox s (mbBegin s k) := by
  unfold mbBegin updMb
  exact OnlyMailbox_trans (OnlyMailbox_trans (posted_only s (fun l => l.drop 1)) (journal_only _ (fun l => l ++ [k]))) (putMb_only _ k _)

theorem refuseUnknown_only (n : Nat) (s : State) : OnlyMailbox s (refuseUnknown n s) := by
  induction n generalizing s with
  | zero => exact OnlyMailbox_refl s
  | succ n ih =>
    unfold refuseUnknown
    split
    · exact OnlyMailbox_refl s
    · split
      · exact OnlyMailbox_refl s
      · exact OnlyMailbox_trans (OnlyMailbox_trans (mbBegin_only s _) (mbFail_only _ _ _)) (ih _)

theorem settlePosted_only (s : State) : OnlyMailbox s (settlePosted s) := refuseUnknown_only _ s

/-! ### The slot completed -/

theorem slots_raiseVector (s : State) (v : Nat) : (raiseVector s v).host.slots = s.host.slots := by
  obtain ⟨p, o, h⟩ := raiseVector_shape s v
  rw [h]

theorem posted_raiseVector (s : State) (v : Nat) : (raiseVector s v).host.posted = s.host.posted := by
  obtain ⟨p, o, h⟩ := raiseVector_shape s v
  rw [h]

theorem slots_mbComplete (s : State) (k : MbSlot) (st : Nat) (fs : List (Nat × Nat)) (wh : Nat) :
    (mbComplete s k st fs wh).host.slots = (putMb s k (completedSlot (mbOf s k) st fs wh)).host.slots := by
  unfold mbComplete
  split
  · rfl
  · rw [slots_raiseVector]; rfl

theorem mbOf_mbComplete_same (s : State) (k : MbSlot) (st : Nat) (fs : List (Nat × Nat)) (wh : Nat) :
    mbOf (mbComplete s k st fs wh) k = completedSlot (mbOf s k) st fs wh := by
  rw [mbOf_of_slots _ _ k (slots_mbComplete s k st fs wh), mbOf_putMb_same]

theorem mbOf_mbComplete_other (s : State) (k j : MbSlot) (st : Nat) (fs : List (Nat × Nat)) (wh : Nat) (h : j ≠ k) :
    mbOf (mbComplete s k st fs wh) j = mbOf s j := by
  rw [mbOf_of_slots _ _ j (slots_mbComplete s k st fs wh), mbOf_putMb_other s k j _ h]

theorem posted_mbComplete (s : State) (k : MbSlot) (st : Nat) (fs : List (Nat × Nat)) (wh : Nat) :
    (mbComplete s k st fs wh).host.posted = s.host.posted := by
  unfold mbComplete
  split
  · rfl
  · rw [posted_raiseVector]; rfl

/-! ### Settling the queue -/

theorem mbHead_mem (s : State) (k : MbSlot) (h : mbHead s = some k) : ∃ t, s.host.posted = k :: t := by
  unfold mbHead at h
  split at h
  · cases h
  · split at h
    · rename_i j t hp _
      cases h
      exact ⟨t, hp⟩
    · cases h

theorem mbOf_mbBegin_other (s : State) (k j : MbSlot) (h : j ≠ k) : mbOf (mbBegin s k) j = mbOf s j := by
  unfold mbBegin updMb
  rw [mbOf_putMb_other _ _ _ _ h]
  rfl

theorem posted_mbBegin (s : State) (k : MbSlot) : (mbBegin s k).host.posted = s.host.posted.drop 1 := rfl

/-- A slot that is not posted is not touched as the queue settles. -/
theorem mbOf_refuseUnknown (n : Nat) (s : State) (j : MbSlot) (h : j ∉ s.host.posted) : mbOf (refuseUnknown n s) j = mbOf s j := by
  induction n generalizing s with
  | zero => rfl
  | succ n ih =>
    unfold refuseUnknown
    split
    · rfl
    · rename_i k hk
      obtain ⟨t, ht⟩ := mbHead_mem s k hk
      have hjk : j ≠ k := by intro e; subst e; exact h (by rw [ht]; exact List.mem_cons_self)
      split
      · rfl
      · rw [ih, mbFail, mbOf_mbComplete_other _ _ _ _ _ _ hjk, mbOf_mbBegin_other _ _ _ hjk]
        rw [mbFail, posted_mbComplete, posted_mbBegin, ht]
        intro hm
        exact h (by rw [ht]; exact List.mem_cons_of_mem _ (by simpa using hm))

theorem mbOf_settlePosted (s : State) (j : MbSlot) (h : j ∉ s.host.posted) : mbOf (settlePosted s) j = mbOf s j :=
  mbOf_refuseUnknown _ s j h

/-- With nothing posted there is nothing to settle. -/
theorem settlePosted_empty (s : State) (h : s.host.posted = []) : settlePosted s = s := by
  unfold settlePosted
  rw [h]
  rfl

/-- The checks made whatever the arguments do not depend on the slot's own begin. -/
theorem mbGate_mbBegin (s : State) (k : MbSlot) (m : MbSt) : mbGate (mbBegin s k) m = mbGate s m := rfl

/-- A command that is ready runs. -/
theorem runCommand_ready (s : State) (k : MbSlot) (code : Nat) (len : MbSt → Nat → Bool) (body : State → MbSlot → MbSt → State)
    (h : CommandReady s k code (len (mbOf s k))) :
    runCommand s k code len body = settlePosted (body (mbBegin s k) k (mbOf s k)) := by
  obtain ⟨_, h1, h2, h3, h4, _⟩ := h
  unfold runCommand
  rw [if_pos ⟨h1, h2⟩]
  simp only [mbGate_mbBegin, h3, h4, ne_eq, not_true_eq_false, Bool.not_true, Bool.false_eq_true, if_false]

/-- A body that leaves the queue behind it alone and completes the slot. -/
theorem finish_runCommand (s : State) (k : MbSlot) (code : Nat) (len : MbSt → Nat → Bool) (body : State → MbSlot → MbSt → State)
    (h : CommandReady s k code (len (mbOf s k))) :
    finish s (runCommand s k code len body) = .next (ended s (settlePosted (body (mbBegin s k) k (mbOf s k)))) := by
  rw [finish_on _ _ h.1, runCommand_ready s k code len body h]

/-- The slot after its command has settled. -/
theorem mbOf_end (s u : State) (k : MbSlot) (h : u.host.posted = (mbBegin s k).host.posted) (hk : k ∉ s.host.posted.drop 1) :
    mbOf (ended s (settlePosted u)) k = mbOf u k := by
  rw [mbOf_ended, mbOf_settlePosted]
  rw [h]
  exact hk

end Sys2Proof.Machine
end

