-- ==== Sys2Proof/Laws/Parts.lean ====
section
/-! SUPPORT. Laws of the parts of the state that stand in a table of their own (units, crossings, sequencers, claimers, engines,
barrows, objects, ports, flow elements): a part reads as it was put, and the other parts of its kind as before. -/

namespace Sys2Proof.Machine

@[simp] theorem unitOf_putUnit (s : State) (st : Stall) (site : Site) (x : UnitSt) : unitOf (putUnit s st site x) st site = x := mget_mset_same _ _ _ _
theorem unitOf_putUnit_other (s : State) (st st2 : Stall) (site site2 : Site) (x : UnitSt) (h : unitKey st2 site2 ≠ unitKey st site) : unitOf (putUnit s st site x) st2 site2 = unitOf s st2 site2 :=
  mget_mset_other _ _ _ _ _ _ h
@[simp] theorem crossOf_putCross (s : State) (st : Stall) (e : Fin 4) (i : Fin 24) (x : Crossing) : crossOf (putCross s st e i x) st e i = x := mget_mset_same _ _ _ _
theorem crossOf_putCross_other (s : State) (st st2 : Stall) (e e2 : Fin 4) (i i2 : Fin 24) (x : Crossing) (h : crossKey st2 e2 i2 ≠ crossKey st e i) : crossOf (putCross s st e i x) st2 e2 i2 = crossOf s st2 e2 i2 :=
  mget_mset_other _ _ _ _ _ _ h
@[simp] theorem seqOf_putSeq (s : State) (r : Region) (x : SeqSt) : seqOf (putSeq s r x) r = x := mget_mset_same _ _ _ _
theorem seqOf_putSeq_other (s : State) (r r2 : Region) (x : SeqSt) (h : r2 ≠ r) : seqOf (putSeq s r x) r2 = seqOf s r2 :=
  mget_mset_other _ _ _ _ _ _ (fun e => h (Fin.ext e))
@[simp] theorem claimerOf_putClaimer (s : State) (st : Stall) (b : Fin 32) (x : Claimer) : claimerOf (putClaimer s st b x) st b = x := mget_mset_same _ _ _ _
theorem claimerOf_putClaimer_other (s : State) (st st2 : Stall) (b b2 : Fin 32) (x : Claimer) (h : claimerKey st2 b2 ≠ claimerKey st b) : claimerOf (putClaimer s st b x) st2 b2 = claimerOf s st2 b2 :=
  mget_mset_other _ _ _ _ _ _ h
@[simp] theorem engOf_putEng (s : State) (e : Fin 16) (x : EngSt) : engOf (putEng s e x) e = x := mget_mset_same _ _ _ _
theorem engOf_putEng_other (s : State) (e e2 : Fin 16) (x : EngSt) (h : e2 ≠ e) : engOf (putEng s e x) e2 = engOf s e2 :=
  mget_mset_other _ _ _ _ _ _ (fun e => h (Fin.ext e))
@[simp] theorem brwOf_putBrw (s : State) (b : BrwId) (x : BrwSt) : brwOf (putBrw s b x) b = x := mget_mset_same _ _ _ _
theorem brwOf_putBrw_other (s : State) (b b2 : BrwId) (x : BrwSt) (h : brwKey b2 ≠ brwKey b) : brwOf (putBrw s b x) b2 = brwOf s b2 :=
  mget_mset_other _ _ _ _ _ _ h
@[simp] theorem objOf_putObj (s : State) (k : Nat) (x : SyncObj) : objOf (putObj s k x) k = x := mget_mset_same _ _ _ _
theorem objOf_putObj_other (s : State) (k k2 : Nat) (x : SyncObj) (h : k2 ≠ k) : objOf (putObj s k x) k2 = objOf s k2 :=
  mget_mset_other _ _ _ _ _ _ h
/-- Keeping the most blocks in use changes nothing else of the fabric. -/
@[simp] theorem notePool_ports (s : State) (x : Shed) : (notePool s x).fab.ports = s.fab.ports := by
  unfold notePool; dsimp only; split <;> rfl
@[simp] theorem notePool_flows (s : State) (x : Shed) : (notePool s x).fab.flows = s.fab.flows := by
  unfold notePool; dsimp only; split <;> rfl
@[simp] theorem notePool_regs (s : State) (x : Shed) : (notePool s x).regs = s.regs := by
  unfold notePool; dsimp only; split <;> rfl
theorem putPort_ports (s : State) (p : Port) (x : PortSt) : (putPort s p x).fab.ports = mset s.fab.ports {} p.val x := by
  simp [putPort, onFab]
theorem putEl_flows (s : State) (k : Nat) (x : FlowEl) : (putEl s k x).fab.flows = mset s.fab.flows {} k x := by
  simp [putEl, onFab]
@[simp] theorem portOf_putPort (s : State) (p : Port) (x : PortSt) : portOf (putPort s p x) p = x := by
  rw [portOf, putPort_ports]; exact mget_mset_same _ _ _ _
theorem portOf_putPort_other (s : State) (p p2 : Port) (x : PortSt) (h : p2 ≠ p) : portOf (putPort s p x) p2 = portOf s p2 := by
  rw [portOf, putPort_ports]; exact mget_mset_other _ _ _ _ _ _ (fun e => h (Fin.ext e))
@[simp] theorem elOf_putEl (s : State) (k : Nat) (x : FlowEl) : elOf (putEl s k x) k = x := by
  rw [elOf, putEl_flows]; exact mget_mset_same _ _ _ _
theorem elOf_putEl_other (s : State) (k k2 : Nat) (x : FlowEl) (h : k2 ≠ k) : elOf (putEl s k x) k2 = elOf s k2 := by
  rw [elOf, putEl_flows]; exact mget_mset_other _ _ _ _ _ _ h

end Sys2Proof.Machine
end

