-- ==== Sys2Proof/Machine/Flags.lean ====
section
/-! DEFINITION. The flags that the module shows on its outputs (15 R446, R447). How they are computed stands in `Views`. -/

namespace Sys2Proof.Machine

/-- WAKE# asserted. -/
def wakeAsserted (s : State) : Bool := getF s (shedReg 0 0x300010) 2 1 = 1
/-- THERMTRIP# asserted: from the trip to the next start. -/
def tripAsserted (s : State) : Bool := s.power.tripped
/-- ALERT# asserted. -/
def alertAsserted (s : State) : Bool := alertNow s
/-- SVC_LED on or blinking. -/
def ledOn (s : State) : Bool := decide (ledState s ≠ 0)
/-- The TAP is not locked. -/
def tapUnlocked (s : State) : Bool := decide (tapState s ≠ 0)

end Sys2Proof.Machine
end

