-- ==== Sys2Proof/WellFormed.lean ====
section
/-! DEFINITION. Commands whose operands have the form that the spec gives the thing they stand for. Most operands are bounded
by their types; the checks here are the rest. What the block does with an ill-formed operand that can reach it is in its
meaning (an access event, a refusal status), so no meaning rests on this. -/

namespace Sys2Proof

/-- A register access: 4 or 8 B, aligned (00 R6). -/
def wordAccess (a size : Nat) : Bool := (size == 4 || size == 8) && a % size == 0

/-- An access: a write brings as many bytes as it has; a read brings none. -/
def accessWf (a : Access) : Bool := if a.write then a.data.length == a.size else a.data.isEmpty

/-- A packet's data fill the length its header gives (12 R359). -/
def dataWf (k : Packet) : Bool := decide (k.len.toNat ≤ 128) && decide (k.data.length ≤ 32 * k.len.toNat)

/-- A packet of one kind (12 R358). -/
def packetWf (k : Packet) (kind : BitVec 4) : Bool := k.kind == kind && dataWf k

/-- At most 62 bales, those with elements of one width (12 R359). -/
def balesWf (l : List Bale) : Bool := decide (l.length ≤ 62) && l.all (fun b => decide (b.elems.length ≤ 128))

/-- A die of the module, where an instruction names one (00 R14). -/
def dieWf (d : Byte) : Bool := decide (d.toNat < 0x24) || (decide (0x30 ≤ d.toNat) && decide (d.toNat < 0x40)) || (decide (0x28 ≤ d.toNat) && decide (d.toNat < 0x2C))

def tapWf : TapInstr → Bool
  | .internalScan d => dieWf d
  | .selfTest d => dieWf d
  | _ => true

def Instr.wf : Instr → Bool
  | .registerWrite addr size data => wordAccess addr.toNat size && decide (data.toNat < 2 ^ (8 * size))
  | .linkServe _ _ _ _ | .tokenArrival _ _ _ _ _ | .memEntry _ _ _ _ | .crossingCrcError _ _ _ | .spareCrossingTakeover _ _ _ => true
  | .frequencyChange _ _ vf _ => decide (7 ≤ vf.val)
  | .unitFire _ _ _ _ | .steerForward _ _ _ | .contextSwitchRequest _ _ _ | .unitSwitch _ _ => true
  | .contextLoad _ _ | .flushOnly _ _ | .laneOpen _ _ _ | .progressWatchExpiry _ | .extensionRefill _ _ _ _ _ => true
  | .matIssue _ _ _ | .tileEnd _ _ _ | .matRetire _ _ | .matTakeover _ _ | .statisticsFold _ _ => true
  | .ldgFold _ | .ledgerAdvance | .prePassReturn _ _ | .seqNop _ | .seqRun _ => true
  | .seqWaitsMet _ | .seqDoneMet _ | .seqDrain _ | .seqMap _ | .mapLoadRetry _ _ => true
  | .mapStalled _ | .seqAdvance _ | .seqJump _ | .seqEnd _ | .seqCtlGo _ _ _ => true
  | .seqCtlStop _ _ _ | .sequencerWaitLimit _ | .claim _ _ | .claimComplete _ _ | .triggerPush _ _ _ => true
  | .updateTrigger _ _ | .blockCommit _ _ | .normExchange _ | .updGnClose | .normWaitTimeout _ => true
  | .shardFetch _ _ | .regenerateTrigger _ _ | .resumeTrigger _ _ | .engineStop _ _ | .engineResume _ _ => true
  | .engineFault _ _ | .moveUpRetry _ _ | .pinRefill _ _ | .barrowNop _ | .barrowCopy _ => true
  | .barrowGather _ | .barrowScatter _ | .barrowScatterAdd _ | .barrowClose _ | .queueTailWrite _ _ => true
  | .descriptorFetch _ | .tileAccepted _ | .writesLanded _ | .barrowStop _ | .barrowResume _ => true
  | .barrowSkip _ | .barrowFault _ _ => true
  | .memoryAccess a => accessWf a
  | .peerSeekResult _ _ found master state => found || (master.isEmpty && state.isEmpty)
  | .segmentCacheMiss _ _ | .moveRingRequest _ | .moveCutOver _ _ | .epochTick _ | .ageSweep _ => true
  | .patrolScrub _ line errs => decide (line.toNat < 0xF000000) && decide ((errs.map Prod.fst).Nodup)
  | .interfaceLost _ | .cxlPortFailed _ => true
  | .slowAccess a => accessWf a
  | .windowFill _ | .loftWake _ | .loftSelfRefresh _ | .signal _ _ | .arrive _ _ => true
  | .arriveWait _ _ | .add _ _ _ | .sub _ _ _ | .fetchAdd _ _ _ | .waitGe _ _ _ => true
  | .take _ _ _ | .read _ _ | .waiterWake | .waitRetry | .flitReceive _ _ => true
  | .ackTimeout _ => true
  | .retrainComplete _ _ lanes _ => decide (lanes.map Prod.fst).Nodup
  | .portTrainingTimeout _ | .laneFailure _ _ => true
  | .bootRecordReceive _ r => r.signature.length == 2820
  | .fabricRead k => packetWf k 0x1
  | .fabricWrite k => packetWf k 0x2
  | .fabricSyncOp k => packetWf k 0x3
  | .readData k => packetWf k 0x4
  | .writeAck k => packetWf k 0x5
  | .syncReply k => packetWf k 0x6
  | .reductionUp _ _ _ _ bales => balesWf bales
  | .reductionDown _ _ _ bales => balesWf bales
  | .linkManagement _ k => packetWf k 0x9
  | .takeoverRecord _ _ _ _ => true
  | .packetForward _ k => dataWf k
  | .routeWaitTimeout _ | .fabricTimeout _ | .shedWatchExpiry _ | .mailboxPost _ _ => true
  | .controlWindowWrite _ data => !data.isEmpty
  | .dataWindowRead _ size => decide (0 < size)
  | .dataWindowWrite _ data _ => !data.isEmpty
  | .dataWindowReadTimeout _ => true
  | .hostLinkChange width gen _ _ => ([0, 1, 2, 4, 8, 16] : List Nat).contains width && decide (gen ≤ 6)
  | .functionLevelReset | .hotReset | .perstAssert | .perstRelease | .hostTlpError _ _ _ => true
  | .groomHeartbeat | .lockstepMismatch _ | .groomTakeover | .standbyReload _ | .eventRecordEntry => true
  | .eventVectorDelay | .identify _ | .status _ | .distance _ | .regRead _ => true
  | .regWrite _ | .imageLoad _ | .imageOpen _ | .seqStart _ | .seqStop _ => true
  | .taskCreate _ | .taskStart _ | .taskEnd _ | .taskDestroy _ | .nameCreate _ => true
  | .nameDelete _ | .move _ | .hostwinSet _ | .hostwinClear _ | .loftMode _ => true
  | .bands _ | .tierMode _ | .quota _ | .spillAreas _ | .setTable _ => true
  | .restoreList _ | .regenerate _ | .program _ | .securePoint _ | .securePointSetRead _ => true
  | .restore _ | .syncConfig _ | .syncFree _ | .syncSet _ | .fabId _ => true
  | .admitPeer _ | .route _ | .flow _ | .flowSelect _ | .flowFlush _ => true
  | .port _ | .takeover _ | .powerState _ | .powerCap _ | .telemetry _ => true
  | .debugUnlock _ | .scanPrepare _ | .debugLock _ | .bist _ | .bistResults _ => true
  | .fuseRepair _ | .retire _ | .fwStage _ | .fwActivate _ | .attest _ => true
  | .eventRing _ | .eventRead _ | .eventFilter _ | .inputWarning _ _ | .inputRecovered _ => true
  | .powerFail _ | .highInput _ | .overVoltage _ | .inputRestart _ | .brownOut _ => true
  | .thermalLimit _ inForce step => !inForce || decide (7 ≤ step.val)
  | .thermalTrip _ | .overCurrent _ | .powerCapInterval _ | .wakeTimer => true
  | .quiesceTimeout | .padRelease _ | .dynamicAddressAssignment _ | .mctpControl _ | .pldmRequest _ => true
  | .wake | .retain | .moduleReset _ | .identifyLed _ | .coldStart _ _ => true
  | .stallLoss _ _ | .rotation | .rotationTestDone _ _ | .unitAudit _ _ _ _ | .svnAdvance => true
  | .identityRebuilt | .cxlLinkRetrain _ => true
  | .cxlPortUp _ width rate _ _ => ([2, 3, 4] : List Nat).contains width && ([5, 6] : List Nat).contains rate
  | .tapInstruction i => tapWf i
  | .controlWindowRead _ size => decide (0 < size)
  | .configurationRequest _ off _ => off.toNat % 4 == 0
  | .recoveryRestart _ | .flowExtensionRefill _ _ _ | .selfTestDone _ _ | .loftBlockTest _ _ => true

end Sys2Proof
end

