-- ==== Sys2Proof/Tests/Slice0.lean ====
section
/-! SUPPORT. Tests: an ill-formed command for each check of WellFormed, and for each statement of Obligations.lean small
states and operands that meet the hypotheses of each of its clauses, and that show what a few commands do. -/

namespace Sys2Proof.Machine

set_option Elab.async false

/-! ### Building small states -/

/-- A state in which nothing is held: every register at its reset value, no command of a unit. -/
def w0 : State := {}

/-- Fields of registers put into a state: address, lowest bit, length, value. -/
def wF (l : List (Nat × Nat × Nat × Nat)) (s : State) : State := each l (fun s f => setF s f.1 f.2.1 f.2.2.1 f.2.2.2) s

/-- A record from bits at places. -/
def wBits (l : List (Nat × Nat)) : Nat := (l.map (fun e => e.2 <<< e.1)).foldl (· + ·) 0

/-- A configuration record. -/
def wCfg (l : List (Nat × Nat)) : BitVec 4096 := BitVec.ofNat 4096 (wBits l)

/-- A record of `n` bytes stored at an address of stall SRAM. -/
def wPut (l : List (Nat × Nat × Nat)) (s : State) : State := each l (fun s e => putNat s e.1 e.2.1 e.2.2) s

/-- An address of ST00's first MEM. -/
def wA (o : Nat) : Nat := 0xF00000000000 + o

def wTok (c : Slot) (tag : BitVec 16) : Token := { route := 0, ctx := c, tag := tag, fmt := 2, inp := 0 }

/-- What holds of the next state. -/
def wNext (o : Host.Outcome State Fault Refusal) (f : State → Bool) : Bool :=
  match o with
  | .next t => f t
  | _ => false

/-! ### Ill-formed commands -/

theorem test_wf_register_size : Instr.wf (.registerWrite 0xFF0000000400 2 0) = false := by decide +kernel
theorem test_wf_register_aligned : Instr.wf (.registerWrite 0xFF0000000404 8 0) = false := by decide +kernel
theorem test_wf_register_data : Instr.wf (.registerWrite 0xFF0000000404 4 0x100000000) = false := by decide +kernel
theorem test_wf_register_good : Instr.wf (.registerWrite 0xFF0000000404 4 0xFFFFFFFF) = true := by decide +kernel
theorem test_wf_access_write : Instr.wf (.memoryAccess { agent := .host, addr := 0, write := true, size := 2, data := [1] }) = false := by
  decide +kernel
theorem test_wf_access_read : Instr.wf (.slowAccess { agent := .host, addr := 0, write := false, size := 1, data := [1] }) = false := by
  decide +kernel
theorem test_wf_seek : Instr.wf (.peerSeekResult 0 0 false [1] []) = false := by decide +kernel
theorem test_wf_patrol_line : Instr.wf (.patrolScrub 0 0xF000000 []) = false := by decide +kernel
theorem test_wf_patrol_pins : Instr.wf (.patrolScrub 0 0 [(3, 1), (3, 2)]) = false := by decide +kernel
theorem test_wf_step : Instr.wf (.frequencyChange 0 0 6 false) = false ∧ Instr.wf (.thermalLimit 0 true 6) = false := by decide +kernel
theorem test_wf_lanes : Instr.wf (.retrainComplete 0 true [(1, false), (1, true)] false) = false := by decide +kernel
theorem test_wf_boot_record : Instr.wf (.bootRecordReceive 0
    { serial := 0, stepping := 0, measurement := 0, bootCounter := 0, c0 := 0, pubKey := 0, signature := [], k := 0, ck := 0, claimed := 0 })
    = false := by decide +kernel
theorem test_wf_packet_kind : Instr.wf (.fabricRead { kind := 2, dmod := 0, smod := 0 }) = false := by decide +kernel
theorem test_wf_packet_data : Instr.wf (.packetForward 0 { kind := 2, dmod := 0, smod := 0, data := [1] }) = false := by decide +kernel
theorem test_wf_packet_len : Instr.wf (.packetForward 0 { kind := 2, dmod := 0, smod := 0, len := 129 }) = false := by decide +kernel
theorem test_wf_bales : Instr.wf (.reductionUp 0 (.own 0) 0 0 (List.replicate 63 { e := 0 })) = false := by decide +kernel
theorem test_wf_bale_elems : Instr.wf (.reductionDown 0 0 0 [{ e := 0, elems := List.replicate 129 0 }]) = false := by decide +kernel
theorem test_wf_control_write : Instr.wf (.controlWindowWrite 0 []) = false := by decide +kernel
theorem test_wf_data_read : Instr.wf (.dataWindowRead 0 0) = false := by decide +kernel
theorem test_wf_data_write : Instr.wf (.dataWindowWrite 0 [] false) = false := by decide +kernel
theorem test_wf_control_read : Instr.wf (.controlWindowRead 0 0) = false := by decide +kernel
theorem test_wf_link_width : Instr.wf (.hostLinkChange 3 6 false true) = false := by decide +kernel
theorem test_wf_link_gen : Instr.wf (.hostLinkChange 16 7 false true) = false := by decide +kernel
theorem test_wf_cxl_width : Instr.wf (.cxlPortUp 0 1 5 false 0) = false := by decide +kernel
theorem test_wf_cxl_rate : Instr.wf (.cxlPortUp 0 2 7 false 0) = false := by decide +kernel
theorem test_wf_tap_die : Instr.wf (.tapInstruction (.internalScan 0x24)) = false := by decide +kernel
theorem test_wf_config_offset : Instr.wf (.configurationRequest false 2 0) = false := by decide +kernel

/-! ### Registers -/

theorem wit_registerWrite_shed : poweredUp w0 = true ∧ regLegal 0xFF8000000010 4 = true
    ∧ regPlace (0xFF8000000010 / 8 * 8) = some (.shed 0 0x10) ∧ placeSpec (.shed 0 0x10) = some [rw 0 18 0x18000]
    ∧ regOff w0 (.shed 0 0x10) = false ∧ (RegPlace.shed 0 0x10).writable = true := by decide +kernel
theorem wit_registerWrite_fsel : poweredUp w0 = true ∧ (0xFF8000000038 : Addr).toNat % 8 = 0 ∧ regPlace (0xFF8000000038 : Addr).toNat = some (.shed 0 0x38)
    ∧ (placeSpec (.shed 0 0x38)).isSome = true ∧ regOff w0 (.shed 0 0x38) = false ∧ arr 0x38 0x30 8 4 = some 1
    ∧ (∀ k < 16, field (0x20 : Word).toNat (4 * k) 4 ≠ getF w0 (shedReg 0 0x38) (4 * k) 4 ↔ k = 1)
    ∧ arr 0x10 0x30 8 4 = none := by decide +kernel
theorem wit_registerIllegal : poweredUp w0 = true ∧ regLegal 0xFF0000000438 2 = false ∧ regLegal 0xFF000000043C 8 = false := by decide +kernel
theorem wit_normReg : ∀ w, normReg (.stall 0 0x438) w = w := fun _ => rfl

/-! ### The yard -/

/-- Column 1, row 1 of every stall is an SFN, column 0, row 1 a MAT, column 0, row 0 a MEM, column 2, row 0 the IOU of barrow 0. -/
def wSfn : Site := 25
def wMem : Site := 0
def wIou : Site := 2
def wMat : Site := 24

theorem test_sites : siteType wSfn = .sfn ∧ siteType wMem = .mem ∧ siteType wIou = .iou ∧ siteType wMat = .mat
    ∧ matSite 0 = 1 ∧ iouSite 0 = wIou := by decide +kernel

theorem wit_positions : lpStall w0 27 = some 30 ∧ stallLp w0 30 = some 27 ∧ lpStall w0 28 = none ∧ stallLp w0 31 = none := by decide +kernel

/-- A unit at `site` of ST00. -/
def wUnit (site : Site) (u : UnitSt) (s : State) : State := putUnit s 0 site u

/-- A record of region 0 with the route entry 0 to the east, and more. -/
def wRec (l : List (Nat × Nat)) : BitVec 4096 := wCfg ([(0, 0x22)] ++ l)

/-- A pass-through token at the head of the west queue. -/
def wPass (high : Bool) : UnitSt :=
  { cfg := [(0, wRec [])], queues := [(queueKey .west 0 high, [{ wTok 0 5 with kind := if high then .control else .data }])] }

theorem wit_linkServe : poweredUp w0 = true ∧ unitsRun (wUnit wSfn (wPass false) w0) 0 = true
    ∧ (∀ e ∈ askers (wPass false) .east, movable (wUnit wSfn (wPass false) w0) 0 wSfn (wPass false) e = true)
    ∧ unitOf (wUnit wSfn (wPass false) w0) 0 wSfn = wPass false
    ∧ askers (wPass false) .east = [(.queue (queueKey .west 0 false), wTok 0 5)] := by decide +kernel

theorem wit_chooseServe (n : Nat) :
    chooseServe (wPass false) .east n [(.queue (queueKey .west 0 false), wTok 0 5)] = some (.queue (queueKey .west 0 false), wTok 0 5) := by
  have h : n % 1 = 0 := Nat.mod_one n
  simp [chooseServe, highPriority, isPass, laneOrder, wTok, wPass, mget, mfind, dirCode, flag, h]

/-- One candidate is chosen, whichever number breaks ties; the way east leads to no port. -/
theorem serveChoice_one (s : State) (st : Stall) (site : Site) (d : Dir) (n : Nat) (l : List (Source × Token))
    (h : (askers (unitOf s st site) d).filter (fun e => movable s st site (unitOf s st site) e && !yields s st site (unitOf s st site) d e) = l) :
    serveChoice s st site d n = chooseServe (unitOf s st site) d n l := by
  subst h; rfl
theorem wit_serveChoice (n : Nat) :
    serveChoice (wUnit wSfn (wPass false) w0) 0 wSfn .east n = some (.queue (queueKey .west 0 false), wTok 0 5) := by
  have hu : unitOf (wUnit wSfn (wPass false) w0) 0 wSfn = wPass false := by decide +kernel
  rw [serveChoice_one _ _ _ _ n [(.queue (queueKey .west 0 false), wTok 0 5)] (by decide +kernel), hu]
  exact wit_chooseServe n
theorem wit_portsGrant (ws : Fin 8 → List (Nat × Bool)) : portsGrant (wUnit wSfn (wPass false) w0) ws 0 wSfn (wTok 0 5) [.east] = true
    ∧ (tokenOuts (unitOf (wUnit wSfn (wPass false) w0) 0 wSfn) (wTok 0 5)).getD [] = [.east] := by
  have h : hopOf (wUnit wSfn (wPass false) w0) 0 wSfn .east = .unit 0 26 := by decide +kernel
  refine ⟨?_, by decide +kernel⟩
  simp only [portsGrant, List.all_cons, List.all_nil, h, Bool.and_true]
/-- A token for the unit itself, with the record that takes it at input 0. -/
def wLocal (w : BitVec 4096) : UnitSt := { cfg := [(0, w)], queues := [(queueKey .loc 0 false, [wTok 0 5])] }
def wIn0 : BitVec 4096 := wRec [(512, 1), (1536, 2)]

theorem wit_tokenArrival : poweredUp (wUnit wSfn (wLocal wIn0) w0) = true ∧ unitsRun (wUnit wSfn (wLocal wIn0) w0) 0 = true
    ∧ unitOf (wUnit wSfn (wLocal wIn0) w0) 0 wSfn = wLocal wIn0 ∧ (queueOf (wLocal wIn0) (queueKey .loc 0 false)).head? = some (wTok 0 5)
    ∧ cfgOf (wLocal wIn0) 0 = some wIn0 ∧ signalsOnAccept .sfn wIn0 (wTok 0 5) = false
    ∧ settleArrival .sfn (wLocal wIn0) wIn0 (wTok 0 5) = .accept := by decide +kernel
theorem wit_tokenArrival_noRoute : (queueOf { wLocal wIn0 with cfg := [] } (queueKey .loc 0 false)).head? = some (wTok 0 5)
    ∧ cfgOf { wLocal wIn0 with cfg := [] } 0 = none ∧ queueKey .loc 0 false ∉ ({ wLocal wIn0 with cfg := [] } : UnitSt).faulted
    ∧ unitsRun (wUnit wSfn { wLocal wIn0 with cfg := [] } w0) 0 = true := by decide +kernel

theorem wit_tokenArrival_open : laneHalted (wLocal wIn0) 0 = false ∧ laneHalted { wLocal wIn0 with cfg := [] } 0 = false
    ∧ matClosed (wUnit wSfn (wLocal wIn0) w0) 0 wSfn = false ∧ (wTok 0 5).kind ≠ .signal ∧ (wTok 0 5).fmt ≠ 0xF ∧ siteType wSfn ≠ .mat := by
  decide +kernel
theorem wit_crossing : poweredUp w0 = true ∧ (crossOf w0 0 1 23).failed = false ∧ (crossOf w0 0 1 23).replays < 3 := by decide +kernel
theorem wit_crossing_last : (crossOf (putCross w0 0 1 23 { replays := 3 }) 0 1 23).failed = false
    ∧ 3 ≤ (crossOf (putCross w0 0 1 23 { replays := 3 }) 0 1 23).replays ∧ poweredUp (putCross w0 0 1 23 { replays := 3 }) = true := by decide +kernel
theorem wit_spareCrossing : (crossOf (putCross w0 0 1 23 { failed := true }) 0 1 23).failed = true
    ∧ getF (putCross w0 0 1 23 { failed := true }) (edgeReg 0 1) 24 2 < 2 ∧ w0.svc.repairs.length < 16384
    ∧ getF (wF [(edgeReg 0 1, 24, 2, 1)] (putCross w0 0 1 23 { failed := true })) (edgeReg 0 1) 24 2 = 1 := by decide +kernel

theorem test_crossing : wNext (exec (.crossingCrcError 0 1 23) w0) (fun t =>
    getF t (edgeReg 0 1) 32 16 == 1 && getF t (edgeReg 0 1) 48 16 == 1) = true := by decide +kernel

/-! ### Firing -/

/-- An entry of one token at input `i` of slot 0, already stored where a MEM stores it. -/
def wHeld (l : List (Nat × Token)) (w : BitVec 4096) : UnitSt :=
  { cfg := [(0, w)], inputs := l.map (fun e => (e.1, [{ tag := e.2.tag, toks := [e.2], written := 1, ready := 1 }])) }

def wFire (site : Site) (u : UnitSt) (t : SiteType) (tag : BitVec 16) : Bool :=
  match cfgOf u u.active with
  | some w => poweredUp (wUnit site u w0) && (unitOf (wUnit site u w0) 0 site == u) && unitGo (wUnit site u w0) 0 u u.active && !hdrSteer w
      && siteType site == t && outputsRoom t u w u.active
      && (if hdrSource w then sourceReady (wUnit site u w0) t u w u.active tag else firstTag t u w u.active (enabledIn w) == some tag)
  | none => false

theorem wit_fireSfn : wFire wSfn (wHeld [(0, wTok 0 5)] wIn0) .sfn 5 = true := by decide +kernel
theorem wit_fireMem : wFire wMem (wHeld [(0, wTok 0 5)] (wRec [(512, 1), (1536, 1)])) .mem 5 = true := by decide +kernel
theorem wit_fireIou : wFire wIou (wHeld [(0, wTok 0 5)] (wRec [(512, 1), (1536, 3)])) .iou 5 = true
    ∧ feedDesc (wUnit wIou (wHeld [(0, wTok 0 5)] (wRec [(512, 1), (1536, 3)])) w0) 0 (wRec [(512, 1), (1536, 3)]) 5 = none := by decide +kernel
/-- A source unit fires where free is set. -/
def wFree : State := wF [(stallReg 0 0xC00, 3, 1, 1)] w0
theorem wit_fireSource : (let u : UnitSt := { cfg := [(0, wRec [(1536, 2), (1547, 1)])] }
    sourceReady (putUnit wFree 0 wSfn u) .sfn u (wRec [(1536, 2), (1547, 1)]) 0 0 && unitGo (putUnit wFree 0 wSfn u) 0 u 0
    && outputsRoom .sfn u (wRec [(1536, 2), (1547, 1)]) 0) = true := by decide +kernel

/-- An issued instruction: a 32 by 32 tile of one step over FP32. -/
def wIssue : MatIssue :=
  { instr := 1, m := 32, n := 32, k := 32, bigM := 32, bigN := 32, bigK := 32, outer := 1, fa := 1, fb := 1, fc := 1, baleA := 0, baleB := 0
    baleC := 0, ueA := false, ueB := false, ueC := false, inner := false, lselA := false, lselB := false, lselC := false, layer := 0, stats := false, brec := 0 }
def wMatU (step : Nat) (w : BitVec 4096) : UnitSt := { cfg := [(0, w)], mat := [(0, { tag := 5, step := step, issue := some wIssue })] }
def wMatW : BitVec 4096 := wRec [(1536, 0)]

theorem wit_fireMat : poweredUp (wUnit wMat (wMatU 0 wMatW) w0) = true ∧ unitGo (wUnit wMat (wMatU 0 wMatW) w0) 0 (wMatU 0 wMatW) 0 = true
    ∧ unitOf (wUnit wMat (wMatU 0 wMatW) w0) 0 wMat = wMatU 0 wMatW ∧ cfgOf (wMatU 0 wMatW) 0 = some wMatW ∧ hdrSteer wMatW = false
    ∧ siteType wMat = .mat ∧ mfind (wMatU 0 wMatW).mat 0 = some { tag := 5, step := 0, issue := some wIssue } := by decide +kernel

/-- A 16-element INT32 tensor, and a COPY of it to output 0 of the yard, as the 256 blocks of a feed unit's list. -/
def wTen (addr fmt n : Nat) : Nat := wBits [(0, addr), (48, 1), (51, fmt), (64, n)]
def wFeedW : BitVec 4096 := wCfg [(0, 0x22), (1536, 3), (1547, 1), (1600, wA 0x1000), (1664, 256)]
def wFeed : State :=
  wUnit wIou { cfg := [(0, wFeedW)] } (wPut [(wA 0x1000, 64, wBits [(0, 1), (6, 1), (64, wA 0x400), (112, wA 0x480)]), (wA 0x400, 64, wTen (wA 0) 0xB 16)] wFree)

theorem wit_feed : poweredUp wFeed = true ∧ cfgOf (unitOf wFeed 0 wIou) 0 = some wFeedW ∧ unitGo wFeed 0 (unitOf wFeed 0 wIou) 0 = true
    ∧ hdrSteer wFeedW = false ∧ outputsRoom .iou (unitOf wFeed 0 wIou) wFeedW 0 = true ∧ (feedDesc wFeed 0 wFeedW 0).isSome = true
    ∧ mayOriginate wFeed (unitOf wFeed 0 wIou) 0 0 = true := by decide +kernel
theorem wit_iouRoom : iouRoom (wUnit wIou (wHeld [(0, wTok 0 5)] (wRec [(512, 1), (1536, 3)])) w0) (wHeld [(0, wTok 0 5)] (wRec [(512, 1), (1536, 3)]))
    (wRec [(512, 1), (1536, 3)]) 5 = true ∧ iouRoom wFeed (unitOf wFeed 0 wIou) wFeedW 0 = true := by decide +kernel

/-! ### Steering -/

/-- A steering unit: output 0 of two tokens an iteration, output 7 of one, input 0 of two tokens. -/
def wStW (ovf : Nat) : BitVec 4096 :=
  wRec [(512, 1), (513, 1), (576, 1), (585, 1), (1024, 1), (1025, 2), (1472, 1), (1473, 1), (1536, 2), (1544, 1), (1546, ovf)]
def wIter (sels : List Byte) (emitted : List Nat) : SteerIter := { slot := 0, tag := 5, sels := sels, ctl := 1, bad := [false], emitted := emitted }
def wSteer (ovf : Nat) (x : SteerIter) (toks : List Token) : UnitSt :=
  { cfg := [(0, wStW ovf)], steer := [x], inputs := [(0, [{ tag := 5, toks := toks }])] }

def wSteers (ovf : Nat) (x : SteerIter) (t : Token) (r : Steered) : Bool :=
  let u := wSteer ovf x [t]
  let s := wUnit wSfn u w0
  poweredUp s && (unitOf s 0 wSfn == u) && unitGo s 0 u 0 && (cfgOf u 0 == some (wStW ovf)) && (iterOf u 0 5 == some x) && hdrSteer (wStW ovf)
    && ((entryOf u 0 0 5).bind (fun e => e.toks.head?) == some t) && (steerOf u (wStW ovf) 0 x t == r) && !t.sig

theorem wit_steer_forward : wSteers 0 (wIter [0] []) (wTok 0 5) (.forward 0) = true := by decide +kernel
theorem wit_steer_last : wSteers 0 (wIter [0] [1]) (wTok 0 5) (.forward 0) = true := by decide +kernel
theorem wit_steer_full : wSteers 0 (wIter [0] [2]) (wTok 0 5) (.drop false) = true := by decide +kernel
theorem wit_steer_overflow : wSteers 1 (wIter [0] [2]) (wTok 0 5) (.forward 7) = true := by decide +kernel
theorem wit_steer_overflowFull : wSteers 1 (wIter [0] [2, 0, 0, 0, 0, 0, 0, 1]) (wTok 0 5) (.drop false) = true := by decide +kernel
theorem wit_steer_seven : wSteers 1 (wIter [7] []) (wTok 0 5) (.forward 7) = true := by decide +kernel
theorem wit_steer_consume : wSteers 0 (wIter [0] []) { wTok 0 5 with void := true } .consume = true := by decide +kernel
theorem wit_steer_close : (let x := { wIter [0, 0] [2] with settled := 2 }
    let u := wSteer 0 x []
    let s := wUnit wSfn u w0
    poweredUp s && unitGo s 0 u 0 && (iterOf u 0 5 == some x) && ((entryOf u 0 0 5).bind (fun e => e.toks.head?)).isNone
      && x.settled == inTake (wStW 0) 0 && decide (ctlNeed (wStW 0) ≤ x.ctl)) = true := by decide +kernel
theorem wit_steer_selector : ((wIter [0x87] []).sels[(wIter [0x87] []).settled]? == some 0x87) = true ∧ wSteers 0 (wIter [0x87] []) (wTok 0 5) (.drop false) = true
    ∧ bitOf (0x07 : Byte).toNat 7 = false ∧ field (0x07 : Byte).toNat 3 4 = 0 ∧ outEn (wStW 0) 7 = true := by decide +kernel

/-! ### MEM entries -/

/-- Record 0 writes input 0: 1 row of 1 line. -/
def wMemW : BitVec 4096 := wRec [(512, 1), (1536, 1), (1600, 1), (1664 + 52, 1), (1664 + 84, 1)]
theorem wit_memEntry : (let u : UnitSt := { cfg := [(0, wMemW)], inputs := [(0, [{ tag := 5, toks := [wTok 0 5] }])] }
    let s := wUnit wMem u w0
    poweredUp s && siteType wMem == .mem && unitGo s 0 u 0 && (unitOf s 0 wMem == u) && (cfgOf u 0 == some wMemW) && !hdrSteer wMemW
      && ((entryOf u 0 0 5).bind (fun e => e.toks[e.written]?) == some (wTok 0 5)) && (writeRec wMemW 0).any (fun r => mrMode r != 1)
      && !isScale (wTok 0 5)) = true := by decide +kernel

/-! ### Context slots -/

def wRgn (l : List (Nat × Nat × Nat)) (s : State) : State := wF (l.map (fun e => (rgnReg 0 0, e))) s
/-- A unit with region 0's record in slots 0 and 1. -/
def wTwo : UnitSt := { cfg := [(0, wRec [(1536, 2)]), (1, wRec [(1536, 2)])] }

theorem wit_switch_halted : poweredUp (wRgn [(12, 1, 1)] w0) = true ∧ rgnHalted (wRgn [(12, 1, 1)] w0) 0 0 = true := by decide +kernel
theorem wit_switch_unloaded : rgnHalted w0 0 0 = false ∧ rgnLoaded w0 0 0 0 = false := by decide +kernel
theorem wit_switch : (let s := wRgn [(3, 1, 1)] (wUnit wSfn wTwo w0)
    poweredUp s && !rgnHalted s 0 0 && rgnLoaded s 0 0 1 && rgnActive s 0 0 != 1
    && stallUnits s 0 0 == [wSfn] && (stallUnits s 0 0).all (fun site => slotRegion (unitOf s 0 site) 1 0)) = true := by decide +kernel
theorem wit_unitSwitch : (let u := { wTwo with pendSwitch := some 1 }
    let s := wUnit wSfn u w0
    poweredUp s && (unitOf s 0 wSfn).pendSwitch == some 1 && !midFiring s 0 wSfn u && unitRegion u 1 == some 0) = true := by decide +kernel
theorem wit_unitSwitch_clear : (let u := { wTwo with pendSwitch := some 2 }
    let s := wUnit wSfn u w0
    poweredUp s && (unitOf s 0 wSfn).pendSwitch == some 2 && !midFiring s 0 wSfn u && unitRegion u 2 == none) = true := by decide +kernel

/-- A slot image of one SFN record, for slot 1 of region 0. -/
def wImage : State := wF [(stallReg 0 0x410, 0, 48, wA 0x2000)]
  (wPut [(wA 0x2000, 64, 1 + 2 ^ 24), (wA 0x2040, 64, 25), (wA 0x2080, 512, (wRec [(1536, 2)]).toNat)] w0)
theorem wit_contextLoad : (let w : Word := BitVec.ofNat 64 (2 ^ 8 + 2 ^ 16)
    let u := setReg wImage (ctxReg 0) (BitVec.ofNat 64 (field w.toNat 0 6 + field w.toNat 8 2 * 2 ^ 8 + field w.toNat 12 3 * 2 ^ 12
      + getF wImage (ctxReg 0) 32 16 * 2 ^ 32))
    poweredUp wImage && bitOf w.toNat 16 && !bitOf w.toNat 13 && !rgnLoaded u 0 0 1 && laneSum u 0 0 1 == 0
      && getF u (stallReg 0 0x410) 0 48 == wA 0x2000
      && (match checkImage u 0 0 1 (getF u (stallReg 0 0x410) 0 48) with | .ok es => es.length == 1 | .error _ => false)) = true := by decide +kernel
theorem wit_flushOnly : (let w : Word := BitVec.ofNat 64 (2 ^ 8 + 2 ^ 13 + 2 ^ 16)
    let u := setReg w0 (ctxReg 0) (BitVec.ofNat 64 (field w.toNat 0 6 + field w.toNat 8 2 * 2 ^ 8 + field w.toNat 12 3 * 2 ^ 12
      + getF w0 (ctxReg 0) 32 16 * 2 ^ 32))
    bitOf w.toNat 16 && bitOf w.toNat 13 && !rgnLoaded u 0 0 1) = true := by decide +kernel

/-! ### Watch and extensions -/

def wWatch : State := { wUnit wSfn (wPass false) w0 with time := 10000000 }
theorem wit_watch : poweredUp wWatch = true ∧ regionHome wWatch 0 = some 0 ∧ rgnActive wWatch 0 0 = 0 ∧ watchDue wWatch 0 0 0 = true
    ∧ (watched wWatch 0).filter (fun k => slotRegion (keyUnit wWatch k) 0 0) = [25] ∧ waitsOf wWatch 0 0 25 = ([], []) := by decide +kernel
/-- An extension of one block, whose tokens have come back from it. -/
def wExt (n : Nat) : Extension := { blocks := [0], head := List.replicate n (wTok 0 5) }
theorem wit_extension : (let u : UnitSt := { exts := [(queueKey .west 0 false, wExt 5)] }
    poweredUp (wUnit wSfn u w0) = true ∧ extOf (unitOf (wUnit wSfn u w0) 0 wSfn) (queueKey .west 0 false) = some (wExt 5) ∧ extCount (wExt 5) ≠ 0) := by
  decide +kernel
theorem test_extensionRefill : (let u : UnitSt := { exts := [(queueKey .west 0 false, wExt 5)] }
    wNext (exec (.extensionRefill 0 wSfn .west 0 false) (wUnit wSfn u w0)) (fun t =>
      (queueOf (unitOf t 0 wSfn) (queueKey .west 0 false)).length == 4 && ((extOf (unitOf t 0 wSfn) (queueKey .west 0 false)).map extCount == some 1)))
    = true := by decide +kernel

/-! ### Matrix units and the ledger -/

def wSq (addr : Nat) : Nat := wBits [(0, addr), (48, 2), (51, 1), (64, 32), (96, 32), (256, 32)]
/-- MMUL of a 32 by 32 tile over 32, of three FP32 tensors in ST00's first MEM. -/
def wMmul : BitVec 4096 :=
  wCfg [(0, 0x22), (512, 1), (513, 63), (576, 1), (577, 63), (1024, 1), (1025, 16), (1600, 1), (1664, 1), (1664 + 8, 32), (1664 + 16, 32),
    (1664 + 24, 32), (1664 + 64, wA 0x400), (1664 + 112, wA 0x440), (1664 + 160, wA 0x480)]
def wIssueS : State := wUnit 1 { cfg := [(0, wMmul)] } (wPut [(wA 0x400, 64, wSq (wA 0x4000)), (wA 0x440, 64, wSq (wA 0x5000)), (wA 0x480, 64, wSq (wA 0x6000))] w0)
theorem wit_matIssue : (let s := wIssueS
    let u := unitOf s 0 (matSite 0)
    let r := matInstr wMmul 0
    let s1 := each (matDescs r) (fun s d => noteDesc s (.unit 0 (matSite 0)) d.1) (setF (setF s (matReg 0 0 0) 3 2 0) (matReg 0 0 0) 5 2 0)
    poweredUp s && cfgOf u u.active == some wMmul && unitGo s 0 u u.active && getF s (matReg 0 0 0) 0 3 == 0 && !hdrSource wMmul
      && issuable u wMmul u.active 5 == some 0 && recordLegal r && issueCode s1 wMmul r == 0
      && (match matOps s1 r with
        | .ok o => tilesOf (latch (noteLayer (setF s1 (matReg 0 0 0) 32 16 0) (srcIsland 0 (matSite 0)) o.c) r o) == 1
        | .error _ => false)) = true := by decide +kernel
theorem wit_tileEnd : (let s := wUnit 1 (wMatU 1 wMatW) w0
    let u := unitOf s 0 (matSite 0)
    poweredUp s && cfgOf u u.active == some wMatW && (mfind u.mat 0 == some { tag := 5, step := 1, issue := some wIssue }) && unitGo s 0 u 0
      && stepsOf wIssue == 1) = true := by decide +kernel
theorem wit_matRetire : getF (wF [(matReg 0 255 0, 0, 3, 2)] w0) (matReg 0 255 0) 0 3 < 3 := by decide +kernel
theorem wit_matTakeover : (let s := wF [(matReg 0 255 0, 0, 3, 3)] w0
    poweredUp s && getF s (matReg 0 255 0) 0 3 == 3 && tileDone s 0 (matSite 255)
      && (chooseSpare s 0 (islandOf (matSite 255)).val).1 == some (islandOf (matSite 255)).val) = true := by decide +kernel

/-- An accumulator of layer 1 in a ledger of two layers. -/
def wAcc : StatAcc := { layer := 1, step := 0, used := 1, elems := 32, uf4 := 1 }
def wLedger : State := { wF [(mangerReg 0 0x200000, 0, 48, wA 0x8000), (mangerReg 0 0x200000, 48, 12, 1), (mangerReg 0 0x200000, 60, 1, 1)] w0 with stats := [(15, wAcc)] }
theorem wit_statisticsFold : poweredUp wLedger = true ∧ mfind wLedger.stats (0 * 16 + 15) = some wAcc
    ∧ layerAddr (satF { wLedger with stats := [] } (stallReg 0 0x140088) 0 32 1) 1 = some (wA 0x8100)
    ∧ rangeCode (satF { wLedger with stats := [] } (stallReg 0 0x140088) 0 32 1) (wA 0x8100) 256 = 0 := by decide +kernel
theorem test_statisticsFold : wNext (exec (.statisticsFold 0 15) wLedger) (fun t =>
    t.stats == [] && readNat t (wA 0x8110) 8 == 32 && readNat t (wA 0x8120) 8 == 1 && getF t (stallReg 0 0x140088) 0 32 == 1) = true := by decide +kernel
theorem test_ledgerAdvance : wNext (exec .ledgerAdvance wLedger) (fun t =>
    getF t (mangerReg 0 0x200008) 0 48 == 1 && field (readNat t (wA 0x8100) 8) 0 4 == 4 && field (readNat t (wA 0x8100) 8) 6 1 == 1) = true := by
  decide +kernel
theorem wit_ledgerFormat : (let hi := BitVec.ofNat 32 (field (getReg w0 (mangerReg 0 0x200020)).toNat 32 32)
    let lo := BitVec.ofNat 32 (field (getReg w0 (mangerReg 0 0x200020)).toNat 0 32)
    overRate 1 32 hi && !overRate 0 32 hi && withinRate 0 32 lo && !withinRate 1 32 lo) = true := by decide +kernel
/-- A barrow job of ST00's barrow 31, in its pre-pass. -/
def wB : BrwId := ⟨0, 31⟩
def wJob (d : Desc) : BrwJob := { desc := d, addr := 0, firing := none, waitMet := true }
theorem wit_prePass : poweredUp (putBrw w0 wB { job := some { wJob 0 with prepass := some [] } }) = true
    ∧ (brwOf (putBrw w0 wB { job := some { wJob 0 with prepass := some [] } }) wB).job = some { wJob 0 with prepass := some [] } := by decide +kernel

/-! ### Sequencers -/

/-- Region 0, whose home is ST00, with a schedule table of one entry and a sequencer. -/
def wHome : State := wUnit wSfn { cfg := [(0, wRec [(1536, 2)]), (1, wRec [(1536, 2)])] } w0
def wSeq (e : List (Nat × Nat)) (q : SeqSt) : State :=
  { wF [(stallReg 0 0xA00, 0, 48, wA 0x3000), (stallReg 0 0xC00, 0, 1, 1), (stallReg 0 0xC00, 8, 5, 4)] (wPut [(wA 0x3000, 32, wBits e)] wHome)
    with seqs := [(0, q)] }
def wEnt (e : List (Nat × Nat)) : Sched := BitVec.ofNat 256 (wBits e)
def wAt : SeqSt := { phase := .waiting }

theorem wit_seqReads (op : Fin 7) : SeqReads (wSeq [(0, op.val)] wAt) 0 ∧ poweredUp (wSeq [(0, op.val)] wAt) = true
    ∧ readRec (wSeq [(0, op.val)] wAt) (seqGet (wSeq [(0, op.val)] wAt) 0 0xA00 0 48 + 32 * seqEntry (wSeq [(0, op.val)] wAt) 0) 32
      = some (wEnt [(0, op.val)]).toNat
    ∧ schedLegal (wEnt [(0, op.val)]) = true ∧ seOp (wEnt [(0, op.val)]) = op.val := by
  unfold SeqReads; revert op; decide +kernel
theorem wit_entryWords (op : Fin 7) : entryWords (wSeq [(0, op.val)] wAt) 0 = some (wEnt [(0, op.val)]).toNat
    ∧ (seqOf (wSeq [(0, op.val)] wAt) 0).ahead = none := by revert op; decide +kernel
theorem wit_seqReads_unreadable : (let s := wF [(stallReg 0 0xA00, 0, 48, 2 ^ 47)] (wSeq [] wAt)
    seqLive (seqOf s 0) && (regionHome s 0).isSome && seqGet s 0 0xC00 0 1 == 1 && (entryWords s 0).isNone) = true := by decide +kernel
theorem wit_seqReads_noCount : schedLegal (wEnt [(0, 1), (160, 2)]) = false ∧ 2 ≤ seKind (wEnt [(0, 1), (160, 2)]) 0 ∧ seNa (wEnt [(0, 1), (160, 2)]) = 0
    ∧ 2 ≤ seKind (wEnt [(0, 1), (164, 2)]) 2 ∧ seNd (wEnt [(0, 1), (164, 2)]) = 0 := by decide +kernel

/-- An object of ST00's unit. -/
def wObj (i : Nat) (o : SyncObj) (s : State) : State := { s with sync := { objs := mput s.sync.objs i o } }
def wTally (v : BitVec 32) (own : List Waiter) : SyncObj := { kind := .tally, value := v, own := own }
def wGate : SyncObj := { kind := .gate, count := 3, arrivals := 1 }
def wFound (s : State) (r : Sref) (k : Nat) : Bool := match findObj s r with | .ok x => x == k | .error _ => false
theorem wit_seqWaits_gate : wFound (wObj 7 wGate w0) 7 7 = true ∧ objOf (wObj 7 wGate w0) 7 = wGate ∧ wGate.kind = .gate ∧ wGate.latch = false
    ∧ wGate.own.length < 16 ∧ wGate.ovf = [] ∧ wGate.arrivals.toNat + 1 < wGate.count.toNat := by decide +kernel
theorem wit_seqWaits_tally : wFound (wObj 7 (wTally 4 []) w0) 7 7 = true ∧ objOf (wObj 7 (wTally 4 []) w0) 7 = wTally 4 []
    ∧ 4 ≤ (wTally 4 []).value.toNat ∧ (∀ y ∈ waiters (wTally 4 []), y.kind ≠ .take) ∧ (wTally 4 []).value.toNat < 5
    ∧ (wTally 4 []).own.length < 16 ∧ (wTally 4 []).ovf = [] := by decide +kernel

theorem wit_seqGoesOn : seKind (wEnt [(0, 1)]) 3 = 0 ∧ seStepEnd (wEnt [(0, 1)]) = false ∧ (regionHome (wSeq [] wAt) 0).isSome = true
    ∧ (seqOf (wSeq [] { wAt with stopReq := true }) 0).stopReq = true ∧ (seqOf (wSeq [] wAt) 0).stopReq = false
    ∧ seqGet (wSeq [] wAt) 0 0xA00 48 16 < 1 ∧ 0 ≤ seqGet (wSeq [] wAt) 0 0xA00 48 16 := by decide +kernel

/-- The entry of an operation with no waits, read and met. -/
theorem wit_seqOps (op : Fin 7) : waited (readEntry (wSeq [(0, op.val)] wAt) 0 op.val) 0 op.val = some (wEnt [(0, op.val)])
    ∧ (seqOf (readEntry (wSeq [(0, op.val)] wAt) 0 op.val) 0).phase = .waiting ∧ poweredUp (wSeq [(0, op.val)] wAt) = true := by
  revert op; decide +kernel
def wRun (slot : Nat) (q : SeqSt) : State := wSeq [(0, 1), (4, slot)] { q with entry := some (wEnt [(0, 1), (4, slot)]), metA := true, metB := true }
theorem wit_seqRun : waited (wRun 1 wAt) 0 1 = some (wEnt [(0, 1), (4, 1)]) ∧ (seqOf (wRun 1 wAt) 0).phase = .waiting
    ∧ slotLoaded (seqCount (wRun 1 wAt) 0) 0 (seSlot (wEnt [(0, 1), (4, 1)])) = false
    ∧ (let s := wF [(rgnReg 0 0, 3, 1, 1)] (wRun 1 wAt)
      slotLoaded (seqCount s 0) 0 (seSlot (wEnt [(0, 1), (4, 1)])) = true ∧ waited s 0 1 = some (wEnt [(0, 1), (4, 1)])) := by decide +kernel
theorem wit_seqDone : (let s := wRun 0 { phase := .running, asked := true, metDone := true }
    waited s 0 1 == some (wEnt [(0, 1), (4, 0)]) && (seqOf s 0).phase == .running && (seqOf s 0).asked && (seqOf s 0).metDone) = true := by decide +kernel
def wDrain : Sched := wEnt [(0, 2)]
theorem wit_seqDrain : (let s := wSeq [] { phase := .draining, entry := some wDrain, metA := true, metB := true, asked := true, metDone := true }
    let u := readEntry s 0 2
    waited u 0 2 == some wDrain && (seqOf u 0).phase == .draining && (seqOf u 0).metDone
      && (regionClaimers u 0).all (fun k => quitAll u k.1 k.2)) = true := by decide +kernel
/-- A map record that names no position, and one of position 0's image. -/
def wMapS (q : SeqSt) (l : List (Nat × Nat)) : State := wPut [(wA 0x3100, 256, wBits l)] (wSeq [(0, 3), (200, wA 0x3100)] q)
def wMapE : Sched := wEnt [(0, 3), (200, wA 0x3100)]
def wMapQ : SeqSt := { phase := .mapping, entry := some wMapE, metA := true, metB := true, mapLeft := [0] }
theorem wit_seqMap : (let s := wMapS wAt []
    let u := leaveFill (readEntry s 0 3) 0
    poweredUp s && waited (readEntry s 0 3) 0 3 == some wMapE && (seqOf (readEntry s 0 3) 0).phase == .waiting
      && readRec u (seArg wMapE) 256 == some 0 && (List.range 28).all (fun p => !bitOf (mapWord 0 p) 63) && !bitOf 0 1800
      && (seqOf (wMapS wMapQ []) 0).phase == .mapping && (seqOf (wMapS { wMapQ with mapLeft := [] } []) 0).mapLeft == []) = true := by decide +kernel
theorem wit_mapRetry : (let s := { wMapS wMapQ [(0, wA 0x2000), (63, 1)] with time := 10000000 }
    poweredUp s && (seqOf s 0).entry == some wMapE && stallLp s 0 == some 0 && (seqOf s 0).phase == .mapping && (seqOf s 0).mapLeft.contains 0
      && readRec s (seArg wMapE) 256 == some (wBits [(0, wA 0x2000), (63, 1)]) && (seqOf s 0).mapLeft != []
      && decide ((seqOf s 0).mapSince + 10000000 ≤ s.time)) = true := by decide +kernel
theorem wit_seqCtl : (let w : Word := 2
    let v : Word := 4
    regionHome wHome 0 == some 0 && bitOf w.toNat 1 && !bitOf w.toNat 2 && !seqLive (seqOf wHome 0) && seqLive (seqOf (wSeq [] wAt) 0)
      && regionHome (wSeq [] wAt) 0 == some 0 && !bitOf v.toNat 1 && bitOf v.toNat 2) = true := by decide +kernel
theorem wit_waitLimit : (let s := { wSeq [] { wAt with entry := some (wEnt [(0, 1), (160, 1)]) } with time := 8 }
    poweredUp s && (seqOf s 0).entry.isSome && (seqOf s 0).phase == .waiting && !((seqOf s 0).metA && (seqOf s 0).metB) && !(seqOf s 0).waitEvent
      && seqGet s 0 0xC00 8 5 == 4 && decide ((seqOf s 0).since + 2 ^ seqGet s 0 0xC00 8 5 * 5 / 9 ≤ s.time)) = true := by decide +kernel
theorem test_seqGo : wNext (exec (.seqCtlGo 0 0 (2 + 3 * 2 ^ 16)) (wF [(stallReg 0 0xA00, 48, 16, 3)] wHome)) (fun t =>
    (seqOf t 0).phase == .waiting && seqEntry t 0 == 3 && seqGet t 0 0x1400 0 16 == 3 && seqGet t 0 0xC00 0 1 == 1) = true := by decide +kernel
theorem test_seqJump : wNext (exec (.seqJump 0) (wF [(stallReg 0 0xA00, 48, 16, 3)] (wSeq [(0, 5), (200, 2)] wAt))) (fun t =>
    (seqOf t 0).phase == .waiting && seqEntry t 0 == 2) = true := by decide +kernel
theorem test_seqNop : wNext (exec (.seqNop 0) (wSeq [(0, 0), (7, 1)] wAt)) (fun t =>
    (seqOf t 0).phase == .stopped && seqGet t 0 0xE00 32 16 == 0x0212 && seqGet t 0 0xE00 48 16 == 1) = true := by decide +kernel

/-! ### Claimers -/

/-- A claimer at the IOU of column 2, row 0, in its fill slot 3; it feeds the MAT west of it, whose program holds GRW. -/
def wGrwMat : BitVec 4096 := wCfg [(0, 0x30), (1536, 3), (1600, 1), (1664, 3)]
def wClW : BitVec 4096 := wCfg [(0, 0x28), (1024, 1), (1536, 3), (1547, 1), (1600, wA 0x3400)]
def wPool : Nat := wBits [(0, 4), (64, 7), (88, 8), (112, 9), (136, 10)]
def wClaimer (x : Claimer) : State :=
  { wUnit 2 { active := 3, cfg := [(3, wClW)] } (wUnit 1 { active := 3, cfg := [(3, wGrwMat)] }
      (wPut [(wA 0x3400, 128, wPool)] (wF [(rgnReg 0 0, 0, 2, 3), (stallReg 0 0xC00, 4, 2, 3)] (wObj 7 (wTally 0 []) (wObj 8 (wTally 0 []) w0)))))
    with claimers := [(0, x)] }
def wClaim : Claim := { pool := BitVec.ofNat 48 (wA 0x3400), index := 0, site := 1, tag := 0, met := true }
theorem wit_claim : (let s := wClaimer {}
    poweredUp s && claimerRegion s 0 0 == some (0, 3) && (unitOf s 0 (iouSite 0)).active == 3 && unitGo s 0 (unitOf s 0 (iouSite 0)) 3
      && (regionHome s 0).any (fun h => rgnActive s h 0 == 3)
      && ((fedMats s 0 (iouSite 0) 3).find? (fun k => !(claimerOf s 0 0).claims.any (fun y => unitKey 0 y.site == k && !claimStarted s 3 0 y)) == some 1)
      && (fedMats s 0 (iouSite 0) 3).head? == some 1) = true := by decide +kernel
theorem wit_claimSkip : (let s := wClaimer {}
    readRec s (wA 0x3400) 128 == some wPool && decide (tallyValue s (BitVec.ofNat 24 (field wPool 64 24)) < field wPool 0 32)
      && decide (tallyValue s (BitVec.ofNat 24 (field wPool 88 24)) ≤ tallyValue s (BitVec.ofNat 24 (field wPool 64 24)))) = true := by decide +kernel
theorem wit_claimComplete : (let s := wClaimer { opened := true, claims := [wClaim] }
    poweredUp s && claimerRegion s 0 0 == some (0, 3) && (claimerOf s 0 0).claims == [wClaim] && (unitOf s 0 (iouSite 0)).active == 3
      && readRec (putClaimer s 0 0 { claimerOf s 0 0 with claims := [] }) wClaim.pool.toNat 128 == some wPool) = true := by decide +kernel

/-! ### Update engines -/

/-- A parameter set of one shard of 8 elements, without state, whose journal stands at a step in a phase. -/
def wSet (step phase : Nat) : State :=
  wF [(mangerReg 0 0x300000, 0, 48, wA 0x6000), (engReg 0 0, 0, 1, 1)]
    (wPut [(wA 0x6000, 256, wBits [(32, 1), (64, wA 0x6100), (256, wA 0x6200)]), (wA 0x6100, 64, wBits [(0, 0xFFFF), (48, wA 0x7000), (240, wA 0x6300), (336, 8)]),
      (wA 0x6200, 64, 1), (wA 0x6300, 64, wBits [(0, step), (48, phase)])] w0)
def wEngs (x : EngSt) (s : State) : State := putEng s 0 x
def wStaged (s : State) : State := onUpd s (fun u => { u with staging := [{ set := 0, shard := 0, addr := 0, segs := 1, spill := false, bsz := 32, tstep := 5 }] })
def wRunS : UpdRun := { set := 0, shard := 0, step := 5, stage := 2, begun := true }
def wOk (s : State) : Bool := match checkUpdate s 0 0 0 with | .ok (d, r) => setDesc s 0 == some d && shardRec s d 0 == some r | .error _ => false

theorem wit_triggerPush : serving (wSet 4 3) (engAt 0 0) = 0 ∧ (engOf (wSet 4 3) 0).ring.length < 256
    ∧ 256 ≤ (engOf (wEngs { ring := List.replicate 256 0 } (wSet 4 3)) 0).ring.length ∧ serving (wEngs { ring := List.replicate 256 0 } (wSet 4 3)) (engAt 0 0) = 0 := by
  decide +kernel
theorem wit_trigger : ∀ k : Fin 3, (let w : Word := triggerWord 0 0 5 k.val
    let s := wEngs { ring := [w] } (wStaged (wSet 4 3))
    poweredUp s && engReady s 0 && (engOf s 0).run.isNone && (engOf s 0).ring == [w] && ((engOf s 0).parked.find? (·.released)).isNone
      && decide ((engOf s 0).parked.length < 16) && trigKind w == k.val && gradReady s (trigSet w) (trigShard w) (trigStep w)) = true := by decide +kernel
theorem wit_blockCommit : (let s := wEngs { run := some wRunS } (wStaged (wSet 5 0))
    poweredUp s && engReady s 0 && wOk s && ((shardRec s ((setDesc s 0).getD 0) 0).bind (journal s)).isSome
      && ((shardRec s ((setDesc s 0).getD 0) 0).any (fun r => !blockMoving s ((setDesc s 0).getD 0) r 0 && !blockPoisoned s ((setDesc s 0).getD 0) r 0))) = true := by
  decide +kernel
theorem wit_blockCommit_poisoned : (let s := writeRange (wEngs { run := some wRunS } (wStaged (wSet 5 0))) (wA 0x7000) [0] true
    engReady s 0 && wOk s && ((shardRec s ((setDesc s 0).getD 0) 0).any (fun r =>
      !blockMoving s ((setDesc s 0).getD 0) r 0 && blockPoisoned s ((setDesc s 0).getD 0) r 0))) = true := by decide +kernel
def wNorm : NormSt := { step := 5, part := .norm, sent := true, met := true }
theorem wit_norm : (let s := putNorm (wSet 4 3) 0 wNorm
    let u := (takeWake s (.norm 0)).2
    poweredUp s && normOf u 0 == some wNorm && (setDesc u 0).isSome && wNorm.sent && wNorm.met && wNorm.part == .norm
      && (0 : BitVec 16) != 0xFFFF && normOf s 0 == some wNorm && s.upd.gn.isNone) = true := by decide +kernel
def wFetch : Fetch := { set := 0, shard := 0, met := true }
theorem wit_fetch : (let s := putFetches (wSet 4 3) 0 0 [wFetch]
    poweredUp s && (fetchList s 0 0).find? (·.met) == some wFetch) = true := by decide +kernel
theorem wit_engine : engState (wSet 4 3) (engAt 0 0) ≠ 5 ∧ engState (setEng (wSet 4 3) 0 4) (engAt 0 0) = 4 ∧ (engOf (wSet 4 3) 0).run = none
    ∧ (let s := wSet 4 3
      serving (setF (setEng s 0 5) (engReg 0 8) 4 2 (heirOf s 0)) 0 ≠ 0)
    ∧ (let s := each (List.range 15) (fun s i => setEng s ⟨(i + 1) % 16, by omega⟩ 5) (wSet 4 3)
      engState s 0 ≠ 5 ∧ serving (setF (setEng s 0 5) (engReg 0 8) 4 2 (heirOf s 0)) 0 = 0) := by decide +kernel
def wHomeRec (tier : Fin 6) : HomeRec := { tier := tier, task := 0, frame := 0 }
def wName (n : Nat) (h : HomeRec) (s : State) : State := putRec s n h
theorem wit_moveUp : (let s := wName 9 (wHomeRec 4) (wEngs { moves := [9] } w0)
    poweredUp s && (engOf s (engAt 0 0)).moves == [9] && nameRec s 9 == some (wHomeRec 4)) = true ∧ (wHomeRec 4).tier = 4 ∧ (wHomeRec 4).move = 0 := by
  decide +kernel
/-- A pin map of one entry, whose set has an FP32 rollout copy and the gate of object 7. -/
def wPin (pins : List (Addr × Nat × Bool)) (count : BitVec 16) : State :=
  onUpd (wObj 7 { kind := .gate, count := count } (wPut [(wA 0x6800, 64, wBits [(0, 1), (16, 8)]), (wA 0x6840, 32, wBits [(16, wA 0x6900)]),
      (wA 0x6900, 64, wTen (wA 0x6A00) 1 8), (wA 0x6000, 256, wBits [(20, 1), (21, 1), (32, 1), (64, wA 0x6100), (256, wA 0x6200), (364, 7)])] (wSet 4 3)))
    (fun u => { u with pins := pins })
def wMap : Addr := BitVec.ofNat 48 (wA 0x6800)
def wPinOk (s : State) : Bool :=
  poweredUp s && match readRec s wMap.toNat 64, readRec s (wMap.toNat + 64) 32 with
    | some h, some e => pmN h == 1 && field h 40 472 == 0 && (match setDesc s (peSet e) with
        | some d => (pinTensor s d e).isSome && (sdUgate d == 7)
        | none => false)
    | _, _ => false
theorem wit_pinRefill : wPinOk (wPin [(wMap, 0, true)] 2) = true
    ∧ (wPin [(wMap, 0, true)] 2).upd.pins.find? (fun p => p.1 == wMap && p.2.1 == 0) = some (wMap, 0, true)
    ∧ wPinOk (wPin [] 1) = true ∧ (askNow (wPin [] 1) (.pin wMap 0) .arriveWait 7 0).1 = some 0
    ∧ wPinOk (wPin [] 2) = true ∧ (askNow (wPin [] 2) (.pin wMap 0) .arriveWait 7 0).1 = none
    ∧ (wPin [] 2).upd.pins.find? (fun p => p.1 == wMap && p.2.1 == 0) = none := by decide +kernel
theorem wit_batch : batchRuns (wPin [(wMap, 0, true)] 2) 0 = false
    ∧ batchRuns { wPin [] 1 with seqs := [(0, { phase := .running, batch := some (0, [0]) })] } 0 = true := by decide +kernel
theorem wit_gnQueue : (onUpd w0 (fun u => { u with gn := some { step := 4, part := .norm } })).upd.gn.isSome = true := rfl
theorem wit_passShards : (let u := setF (setEng (wEngs { ring := [triggerWord 0 0 5 0] } (wSet 4 3)) 0 5) (engReg 0 8) 4 2 1
    ((engOf u 0).run.isNone && u.upd.trigs.isEmpty && serving u 1 == 1 && decide ((1 : Fin 16) ≠ 0)
      && decide ((engOf u 1).ring.length + (engOf u 0).ring.length ≤ 256)) = true) := by decide +kernel

/-- A trigger of step 5 seen by a journal at step 4 or 5, and one of steps before and after. -/
def wFollows (step phase low : Nat) (s : State) : Bool :=
  wOk s && !isSuspect s 0 0 && (((shardRec s ((setDesc s 0).getD 0) 0).bind (journal s)).any (fun j => jStep j == step && jPhase j == phase))
    && decide (fullStep (step + 1) low 16 = low)
theorem wit_triggerFollows : wFollows 4 3 5 (wSet 4 3) = true ∧ pointHolds (wSet 4 3) 0 5 = false ∧ wFollows 5 1 5 (wSet 5 1) = true
    ∧ wFollows 5 3 4 (wSet 5 3) = true ∧ wFollows 5 3 5 (wSet 5 3) = true ∧ wFollows 4 3 6 (wSet 4 3) = true := by decide +kernel
theorem test_duplicateTrigger : wNext (exec (.updateTrigger 0 0) (wEngs { ring := [triggerWord 0 0 5 0] } (wStaged (wSet 5 3)))) (fun t =>
    (engOf t 0).ring == [] && t.upd.staging == []) = true := by decide +kernel

/-! ### Barrows -/

/-- A descriptor with the identity permutation, its source, destination and index tensors. -/
def wDesc (op : Nat) (l : List (Nat × Nat)) : Desc :=
  BitVec.ofNat 512 (wBits ([(0, op), (21, 1), (24, 2), (27, 3), (30, 4), (33, 5), (64, wA 0x100), (112, wA 0x140), (160, wA 0x180)] ++ l))
/-- 16 and 8 FP32 elements, and 8 indices. -/
def wTens (s : State) : State := wPut [(wA 0x100, 64, wTen (wA 0x200) 1 16), (wA 0x140, 64, wTen (wA 0x300) 1 8), (wA 0x180, 64, wTen (wA 0x400) 0xB 8)] s
def wBrw (j : BrwJob) : State := putBrw (wTens w0) wB { job := some j }
/-- The plan of a job's descriptor, with the tensors that its operation wants. -/
def wPlan (s : State) (d : Desc) (f : Plan → Bool) : Bool := match plan s d false with | .ok p => f p | .error _ => false
theorem wit_barrowOps : ∀ op : Fin 6, poweredUp (wBrw (wJob (wDesc op.val []))) = true ∧ brwOn (wBrw (wJob (wDesc op.val []))) wB = true
    ∧ (brwOf (wBrw (wJob (wDesc op.val []))) wB).job = some (wJob (wDesc op.val [])) ∧ bdOp (wDesc op.val []) = op.val := by decide +kernel
theorem wit_barrowNop : bdLegal (wJob 0).desc (imageOf (wJob 0)) = true ∧ (wJob 0).started = false ∧ (wJob 0).plan = none ∧ (wJob 0).badLines = []
    ∧ (wJob 0).dropped = 0 ∧ imageOf (wJob 0) = false ∧ imageOf { wJob 0 with firing := some (0, 5) } = true
    ∧ bdLegal 0 (imageOf { wJob 0 with firing := some (0, 5) }) = true := by decide +kernel
/-- What the issue of a transfer's first tile needs: its stages passed, its sources readable, nothing that it must wait for;
and how its runs land: where they store, every element lies in a block that is written here. -/
def wTile (s : State) (j : BrwJob) : Bool :=
  match startStages s wB j with
  | .error _ => false
  | .ok (u, k0) =>
    let k := startTiles u wB k0
    match transferOf u wB k with
    | none => false
    | some (m, src, dst) =>
      let ps := tilePieces (putJob u wB k) k.desc m src dst k.tiles k.issued
      decide (k.issued < k.tiles ∧ k.issued < k.accepted + bdLead k.desc) && k.leadSince.isNone
      && (match anySource (putJob u wB k) wB k src (m.need (ps.flatMap Prod.snd)) with
        | .go v rd bad =>
          let rs := tileRuns v k m dst rd ps
          let puts := (rs.flatMap (runPuts v dst)).map Prod.snd
          (heldWrite (putJob u wB k) wB k dst rs).isNone
          && (match deliverTile v wB { k with badLines := k.badLines ++ bad.filter (fun a => !k.badLines.contains a) } src dst rs with
            | (_, k', 0) => k'.leadSince.isNone
            | _ => false)
          && (bdDk k.desc != 0 || (!aliased dst && rs.all (fun r => r.idx.all (fun i => (spotOf v dst i).isSome))
            && (rs.flatMap (runPuts v dst)).all (fun p => p.1.isNone) && (firstRefused v (jobAgent wB k) (putLines puts)).isNone))
        | _ => false)
/-- A copy of the 16 elements to a tensor of the same size at `0x500`. -/
def wCopyD : Desc := BitVec.ofNat 512 (wBits [(0, 1), (21, 1), (24, 2), (27, 3), (30, 4), (33, 5), (64, wA 0x100), (112, wA 0x1C0)])
def wCopyS : State := wPut [(wA 0x1C0, 64, wTen (wA 0x500) 1 16), (wA 0x204, 4, 0x3FC00000)] (wBrw (wJob wCopyD))
theorem wit_barrowCopy : brwOn wCopyS wB = true ∧ wTile wCopyS (wJob wCopyD) = true := by decide +kernel
theorem wit_barrowGather : wTile (wBrw (wJob (wDesc 2 []))) (wJob (wDesc 2 [])) = true := by decide +kernel
/-- Scatters go the other way: 8 elements into 16. -/
def wBack (op : Nat) : Desc := BitVec.ofNat 512 (wBits [(0, op), (21, 1), (24, 2), (27, 3), (30, 4), (33, 5), (64, wA 0x140), (112, wA 0x100), (160, wA 0x180)])
/-- Which slice of a scatter remains is a free choice, so the one shown here has indices that select nothing: it has no tile. -/
theorem wit_barrowScatter : (let s := wPut [(wA 0x400, 32, 2 ^ 256 - 1)] (wBrw (wJob (wBack 3)))
    match startStages s wB (wJob (wBack 3)) with
    | .ok (u, k) => (startTiles u wB k).tiles == 0 && (transferOf u wB (startTiles u wB k)).isSome && (startTiles u wB k).issued == 0
    | .error _ => false) = true ∧ wTile (wBrw (wJob (wBack 4))) (wJob (wBack 4)) = true ∧ bdOp (wBack 3) = 3 ∧ bdOp (wBack 4) = 4 := by decide +kernel
/-- An element of a SCATTER-ADD lands in one line. -/
theorem wit_barrowAdd : (let s := wBrw (wJob (wBack 4))
    let r : OutRun := { number := 0, idx := [[3]], codes := [0x3F800000], vals := [], scale := none, sat := [false], poison := [false] }
    match readTensor s (wA 0x100) .dest with
    | .ok dst => r.idx.map (fun k => (spotOf s dst k).map (fun q => (q.module, q.bit / 512 * 64))) == [some (none, wA 0x200)]
        && writeCode s (jobAgent wB (wJob (wBack 4))) (wA 0x200) == 0
    | .error _ => false) = true := by decide +kernel
/-- A close of a pool of one tile of 32 elements, whose claimers have all quit. -/
def wCloseD : Desc := BitVec.ofNat 512 (wBits [(0, 5), (6, 2), (21, 1), (24, 2), (27, 3), (30, 4), (33, 5), (64, wA 0x100), (112, wA 0x180)])
def wCloseS : State :=
  wPut [(wA 0x100, 128, wBits [(0, 1), (32, 1), (64, 7), (88, 8), (112, 9), (136, 10), (160, wA 0x700), (304, 1), (312, 32)]),
      (wA 0x180, 128, wBits [(48, 2), (51, 0xC), (56, 2), (64, 32), (96, 1), (501, 1)]), (wA 0x700, 64, wBits [(0, wA 0x740), (48, 2), (51, 1), (64, 32), (96, 1), (256, 32)])]
    (wObj 7 (wTally 0 []) (wObj 9 (wTally 1 []) (wObj 10 { kind := .gate, count := 1, isOpen := true } (putBrw w0 wB { job := some (wJob wCloseD) }))))
theorem wit_barrowClose : wTile wCloseS (wJob wCloseD) = true ∧ brwOn wCloseS wB = true := by decide +kernel
theorem wit_barrowError : (let d : Desc := BitVec.ofNat 512 (1 + 3 * 2 ^ 4)
    bdOp d == 1 && (match plan (wBrw (wJob d)) d false with | .ok _ => false | .error c => c == 0x0105)) = true
    ∧ (let d : Desc := 5
      bdOp d == 5 && (match plan (wBrw (wJob d)) d false with | .ok _ => false | .error c => c == 0x0105)) = true := by decide +kernel
/-- With its last read issued, a copy between two tensors in memory leaves no more behind. -/
theorem wit_finishReads : (let j := wJob wCopyD
    match startStages wCopyS wB j with
    | .ok (u, k0) =>
      let k := { startTiles u wB k0 with issued := (startTiles u wB k0).tiles }
      match transferOf u wB k with
      | some (m, src, dst) => (match anySource u wB k src (m.need (m.pieces.flatMap Prod.snd)) with | .go _ _ _ => true | _ => false)
          && !dst.stats && bdOp k.desc != 5 && bdSk k.desc != 1 && k.badLines.isEmpty && k.dropped == 0 && !imageOf k && !src.stats
      | none => false
    | .error _ => false) = true := by decide +kernel
theorem wit_queueServed : (brwOf (wBrw (wJob 0)) wB).adopted = [] ∧ (brwOf w0 wB).job = none ∧ (brwOf w0 wB).adopted = [] ∧ (brwOf w0 wB).preempted = none
    ∧ (wJob 0).firing = none ∧ (wJob 0).fill = none ∧ (brwOf (putBrw w0 wB { fetched := [(some (wDesc 1 []), 5)] }) wB).fetched = [(some (wDesc 1 []), 5)]
    ∧ brwCode w0 wB ≠ 5 ∧ bdWk (wDesc 1 []) = 0 ∧ (brwOf w0 ⟨32, 3⟩).job = none ∧ (brwOf w0 ⟨32, 3⟩).adopted = [] := by decide +kernel
theorem wit_descriptorFetch : brwOn w0 wB = true ∧ (brwOf w0 wB).fetched = [] ∧ getF w0 (brwBase wB + 0x20) 0 3 ≠ 4 ∧ getF w0 (brwBase wB + 0x18) 0 1 = 1
    ∧ (brwOf w0 wB).preempted = none ∧ (brwOf w0 wB).job = none ∧ getF w0 (brwBase wB + 0x20) 0 3 ≠ 5 := by decide +kernel
theorem wit_tileAccepted (k : Fin 2) : (let j := { wJob 0 with started := true, tiles := 1 + k.val, issued := 1, accepted := 0 }
    let s := wBrw j
    let x : BrwSt := { landing := [j] }
    poweredUp s && (brwOf s wB).job == some j && (brwOf s wB).landing == [] && (brwOf s wB).preempted.isNone && decide (j.accepted < j.issued)
      && (if k.val = 0 then j.issued == j.tiles else decide (j.issued < j.tiles)) && brwOn s wB && brwOf (putBrw w0 wB x) wB == x) = true := by
  revert k; decide +kernel
theorem wit_writesLanded : (let j := { wJob 0 with started := true }
    let s := wBrw j
    poweredUp s && (landingJob (brwOf s wB) == some j) && s.fab.outstanding.isEmpty && decide (j.tiles ≤ j.issued ∧ j.tiles ≤ j.accepted)
      && j.failed == 0 && bdOp j.desc != 5 && !bdTrig j.desc && !bdSig j.desc && (brwOf s wB).preempted.isNone && j.fill.isNone) = true
    ∧ (poolOf wCloseS (bdSrc wCloseD)).any (poolQuit wCloseS) = true ∧ bdOp wCloseD = 5 ∧ bdTrig wCloseD = false ∧ bdSig wCloseD = false := by decide +kernel
theorem wit_writesLanded_signal : bdSig (wDesc 1 [(11, 1)]) = true ∧ bdTrig (wDesc 1 [(11, 1)]) = false ∧ bdDk (wDesc 1 [(11, 1)]) ≠ 1
    ∧ bdTrig (wDesc 1 [(12, 1)]) = true ∧ bdSig (wDesc 1 [(12, 1)]) = false ∧ ({ wJob 0 with failed := 0x0301 } : BrwJob).failed ≠ 0
    ∧ (pushTrigger (wBrw { wJob (wDesc 1 [(12, 1)]) with started := true }) (bdTeng (wDesc 1 [(12, 1)])) (bdTrigger (wDesc 1 [(12, 1)]))).isSome = true := by
  decide +kernel
def wFill : BrwJob := { wJob 0 with started := true, fill := some { boff := 0, region := 0, entry := 3 } }
theorem wit_fillShares : (let s := fun n => putWin (wBrw wFill) 0 { left := [(3, n)] }
    lastShare (s 2) wFill = false ∧ lastShare (s 1) wFill = true ∧ lastShare w0 (wJob 0) = true
    ∧ landingJob (brwOf (s 2) wB) = some wFill ∧ (shareDone (s 2) { boff := 0, region := 0, entry := 3 }).homes.windows = [(0, { left := [(3, 1)] })]
    ∧ (winBarrows wHome 0).length = 8) := by decide +kernel
theorem wit_barrowResume : getF (brwState w0 wB 4) (brwBase wB + 0x20) 0 3 = 4
    ∧ getF (handRecord (brwState w0 wB 4) (brwSrc (brwState w0 wB 4) wB)) (brwBase wB + 0x20) 0 3 = 4 := by decide +kernel
theorem test_barrowCopy : wNext (exec (.barrowCopy wB) wCopyS) (fun t => readNat t (wA 0x504) 4 == 0x3FC00000) = true := by decide +kernel
theorem test_queueTailWrite : wNext (exec (.queueTailWrite wB 0x1005) w0) (fun t => getReg t (brwBase wB + 0x08) == 5) = true := by decide +kernel

/-! ### Accesses -/

def wAcc8 (a : Nat) (write : Bool) (d : List Byte) : Access := { agent := .host, addr := BitVec.ofNat 48 a, write := write, size := 8, data := d }
theorem wit_memoryRead : poweredUp w0 = true ∧ (wAcc8 (wA 0x100) false []).addr.toNat < regSpace ∧ rangeWaits w0 (wA 0x100) 8 = false
    ∧ rangeCode w0 (wA 0x100) 8 = 0 ∧ rangeCode w0 0x200000 8 ≠ 0 ∧ rangeWaits w0 0x200000 8 = false := by decide +kernel
theorem wit_memoryWrite : (∀ q ∈ pieces (wA 0x13F) 2, nameMoving w0 q.1 = false) ∧ rangeWaits w0 (wA 0x13F) 2 = false ∧ writeRangeCode w0 .host (wA 0x13F) 2 = 0
    ∧ writeRangeCode w0 .host 0x200000 2 ≠ 0 ∧ (∀ q ∈ pieces 0x200000 2, nameMoving w0 q.1 = false) ∧ rangeWaits w0 0x200000 2 = false := by decide +kernel
/-- Name 9 lives behind CXL port 0, which has been up and trains again. -/
def wRetrains : State := setF (onHomes (wName 9 (wHomeRec 4) w0) (fun h => { h with cxlWasUp := [0] })) (cxpReg 0 0) 0 3 1
theorem wit_memoryWaits : poweredUp wRetrains = true ∧ rangeWaits wRetrains (9 * segSize) 8 = true := by decide +kernel
theorem wit_sramWrite : locate w0 (wA 0x138) = .mem (wA 0x138) (wA 0x138) 0 0 ∧ runningMat w0 (wA 0x138) = none ∧ wA 0x138 % 64 + 8 ≤ 64 := by decide +kernel
theorem test_memoryWrite : wNext (exec (.memoryAccess (wAcc8 (wA 0x13E) true [1, 2, 3, 4])) w0) (fun t =>
    readByte t (wA 0x13E) == 1 && readByte t (wA 0x141) == 4 && readByte t (wA 0x142) == 0) = true := by decide +kernel

/-! ### Homes and lofts -/

theorem wit_peerSeek : (let s := onHomes (onUpd (wSet 4 3) (fun u => { u with suspects := [(0, 0)] })) (fun h => { h with restoreLists := [(0, [1])] })
    poweredUp s && isSuspect s 0 0 && ((setDesc s 0).any (fun d => (shardRec s d 0).isSome && sdNstate d == 0)) && mget s.homes.restoreLists [] 0 != []) = true := by
  decide +kernel
theorem wit_segmentCacheMiss : nameRec w0 9 = none ∧ nameRec (wName 9 (wHomeRec 1) w0) 9 = some (wHomeRec 1) := by decide +kernel
theorem wit_moveRing : (0 : Mg) ∉ w0.homes.ringMet ∧ agentWaits w0 (.moveRing 0) = false
    ∧ (askNow (wObj 0 (wTally 0 []) w0) (.moveRing 0) .take 0 1).1 = none
    ∧ (0 : Mg) ∈ (onHomes w0 (fun h => { h with ringMet := [0] })).homes.ringMet := by decide +kernel
theorem wit_ringSlot : (let s := onHomes (wPut [(0, 64, 1 + 2 * 2 + 2 ^ 8 + 9 * 2 ^ 64)] w0) (fun h => { h with ringMet := [0] })
    (0 : Mg) ∈ s.homes.ringMet ∧ (readRec (wF [(mangerReg 0 0x600018, 0, 48, wA 0x400)] (wPut [(wA 0x400, 64, 1 + 2 * 2 + 2 ^ 8 + 9 * 2 ^ 64)] s)) (wA 0x400) 64).any
      (fun w => bitOf w 0) = true) := by decide +kernel
def wJobM : MoveJob := { name := 9, owner := 0, pinAfter := some true }
def wMoving : State := onHomes (wName 9 { wHomeRec 1 with move := 1, dtier := 2, dframe := 5 } w0) (fun h => { h with moves := [wJobM] })
theorem wit_cutOver : poweredUp wMoving = true ∧ (mangerMoves wMoving 0)[(0 : Fin 4).val]? = some wJobM ∧ (nameRec wMoving wJobM.name).isSome = true
    ∧ wMoving.homes.moveQueue = [] ∧ wJobM.held = [] ∧ wJobM.forEngine = none ∧ wJobM.hasDone = false := by decide +kernel
theorem test_cutOver : wNext (exec (.moveCutOver 0 0) wMoving) (fun t => (nameRec t 9).any (fun h => h.tier == 2 && h.frame == 5 && h.pin && h.move == 0)) = true := by
  decide +kernel
theorem wit_patrol : getF w0 (mangerReg (asMg 0) 0x500010) 0 8 ≠ 0 ∧ getF w0 (ifcReg 0) 0 2 = 0 ∧ 0 < (5 : BitVec 34).toNat ∧ (5 : BitVec 34).toNat < 245760 * 1024
    ∧ ifaceLost w0 0 = false ∧ w0.poison = [] := by decide +kernel
theorem wit_cxlPort : cxlState (setF w0 (cxpReg 3 0) 0 3 2) 3 = 2 := by decide +kernel
def wCxl : State := setF (setF (wName 9 { wHomeRec 3 with frame := 7 } w0) (cxpReg 0 0) 0 3 2) (cxpReg 0 0) 24 22 100
theorem wit_slowAccess : (match locate wCxl (9 * segSize) with | .mem _ _ tier name => tier == 3 && name == 9 | _ => false) = true := by decide +kernel
/-- A window of region 0: its header and one entry at `0x3800`. -/
def wWin : State := wF [(winReg 0 0, 0, 48, wA 0x3800), (winReg 0 0, 48, 1, 1)]
  (wPut [(wA 0x3800, 64, wBits [(0, 2), (16, 4), (20, 1), (24, 7), (48, 8)]), (wA 0x3840, 64, wA 0x3900), (wA 0x3900, 64, wBits [(0, 1)])] wHome)
theorem wit_windowFill : (let s := wWin
    poweredUp s && regionHome s 0 == some 0 && getF s (winReg 0 0) 48 1 == 1 && (match readRec s (getF s (winReg 0 0) 0 48) 64 with
      | some h => decide (whLead h < whW h ∧ (winOf s 0).issued < whN h ∧ (winOf s 0).issued ≤ tallyValue s (whCtally h) + whLead h)
      | none => false)
    && (match readRec s (getF s (winReg 0 0) 0 48 + 64 + 64 * (winOf s 0).issued) 64 with
      | some e => !weReuse e && (winWait s 0 e).1 && (readRec (winWait s 0 e).2 (weDesc e) 64).isSome
      | none => false)) = true := by decide +kernel
theorem wit_lofts : (let s := setF (setF w0 (aonReg 0) 0 3 1) (aonReg 8) 36 1 0
    poweredUp s = true ∧ pstate s = 1 ∧ loftOn s 0 = false ∧ (mfind (onHomes s (fun h => { h with awake := [(0, 5)] })).homes.awake 0).isSome = true) := by
  decide +kernel

/-! ### Synchronization -/

theorem wit_gate : wFound (wObj 7 wGate w0) 7 7 = true ∧ (objOf (wObj 7 wGate w0) 7).kind = .gate ∧ wGate.arrivals.toNat + 1 < wGate.count.toNat
    ∧ wFound (wObj 7 { wGate with arrivals := 2, latch := true, isOpen := true } w0) 7 7 = true
    ∧ ({ wGate with arrivals := 2 } : SyncObj).count.toNat ≤ ({ wGate with arrivals := 2 } : SyncObj).arrivals.toNat + 1 := by decide +kernel
theorem wit_tally : wFound (wObj 7 (wTally 4 []) w0) 7 7 = true ∧ (objOf (wObj 7 (wTally 4 []) w0) 7).kind = .tally ∧ (4 : BitVec 32).toNat + 1 < 2 ^ 32
    ∧ (4 : BitVec 32).toNat + (7 : BitVec 32).toNat < 2 ^ 32 ∧ (4 : BitVec 32).toNat ≤ (wTally 4 []).value.toNat
    ∧ (wTally 4 []).value.toNat < (5 : BitVec 32).toNat ∧ hasRet .host = true
    ∧ getF (wObj 7 (wTally 4 []) w0) (synReg (keyObjStall 7) 8) 16 11 ≥ ovfUsed (putObj (wObj 7 (wTally 4 []) w0) 7 (objOf (wObj 7 (wTally 4 []) w0) 7)) (keyObjStall 7) := by
  decide +kernel
theorem wit_wakes : (onSync w0 (fun y => { y with wakes := [{ agent := .host }] })).sync.wakes = [{ agent := .host }] := rfl
def wWaiter (k : WaitKind) (n : BitVec 32) : Waiter := { agent := .host, kind := k, n := n }
theorem test_tallyOrder : (let o := wTally 5 [wWaiter .take 4, wWaiter .ge 5, wWaiter .take 3, wWaiter .take 1]
    (serveTally o).2.map (fun e => (e.1.n, e.2)) == [(5, 5), (4, 1)] && (serveTally o).1.value == 1
      && (waiters (serveTally o).1).map (·.n) == [3, 1]) = true := by decide +kernel
theorem wit_waiters : (List.replicate 16 (wWaiter .take 9)).length = 16 ∧ (applyOp { kind := .tally, own := List.replicate 16 (wWaiter .take 9) } .host .take 9 false).status ≠ 0 := by
  decide +kernel
theorem wit_syncFrame : wNext (exec (.take .host 7 5) (wObj 7 (wTally 4 []) w0)) (fun _ => true) = true ∧ wFound (wObj 7 (wTally 4 []) w0) 7 8 = false := by decide +kernel
def wWakes (a : Agent) (s : State) : State := onSync s (fun y => { y with wakes := [{ agent := a }] })
theorem wit_waiterWake : (wWakes (.engine 0) w0).sync.wakes = [{ agent := .engine 0 }]
    ∧ (wWakes (.seq 0 0) (wSeq [] wAt)).sync.wakes = [{ agent := .seq 0 0 }] ∧ seqLive (seqOf (wWakes (.seq 0 0) (wSeq [] wAt)) 0) = true
    ∧ (let j := { wJob 0 with waitMet := false }
      (brwOf (wWakes (.barrow wB) (wBrw j)) wB).job = some j ∧ imageOf j = false ∧ j.waitMet = false) := by decide +kernel
def wRetry (k : WaitKind) : State := onSync (wObj 7 (wTally 4 []) w0) (fun y => { y with retries := [{ agent := .host, kind := k, sref := 7, n := 3, interval := 0 }] })
theorem wit_waitRetry : ∀ k ∈ [WaitKind.ge, WaitKind.take], poweredUp (wRetry k) = true ∧ (wRetry k).sync.retries.length = 1 ∧ wFound (wRetry k) 7 7 = true
    ∧ (objOf (wRetry k) 7).kind = .tally ∧ (3 : BitVec 32).toNat ≤ (objOf (wRetry k) 7).value.toNat ∧ waiters (objOf (wRetry k) 7) = [] := by decide +kernel

/-! ### The fabric -/

/-- Module 1, with port 0 in a state. -/
def wFab (st : Nat) (x : PortSt) (s : State) : State := putPort (setPortState (setSheds s 0 1) 0 st) 0 x
def wPkt (kind : BitVec 4) (dmod smod : ModuleId) (addr : Nat) (data : List Byte) : Packet :=
  { kind := kind, dmod := dmod, smod := smod, addr := BitVec.ofNat 48 addr, tag := 9, len := 2, data := data }
theorem crcBit_lt (c : Nat) (h : c < 2 ^ 32) : crcBit c < 2 ^ 32 := by
  unfold crcBit
  split
  · exact Nat.xor_lt_two_pow (by omega) (by decide)
  · omega
theorem crcByte_lt (c : Nat) (b : Byte) (h : c < 2 ^ 32) : crcByte c b < 2 ^ 32 := by
  have hb : ∀ (l : List Nat) (c : Nat), c < 2 ^ 32 → l.foldl (fun c _ => crcBit c) c < 2 ^ 32 := by
    intro l
    induction l with
    | nil => intro c h; exact h
    | cons x t ih => intro c h; exact ih _ (crcBit_lt c h)
  exact hb _ _ (Nat.xor_lt_two_pow h (Nat.lt_of_lt_of_le b.isLt (by decide)))
theorem crc32_lt (d : List Byte) : crc32 d < 2 ^ 32 := by
  have hb : ∀ (l : List Byte) (c : Nat), c < 2 ^ 32 → l.foldl crcByte c < 2 ^ 32 := by
    intro l
    induction l with
    | nil => intro c h; exact h
    | cons x t ih => intro c h; exact ih _ (crcByte_lt c x h)
  exact Nat.xor_lt_two_pow (hb d _ (by decide)) (by decide)
/-- A flit that a port sends is intact for its receiver, who reads its fields back. -/
theorem makeFlit_intact (body : BitVec 2048) (seq ack : BitVec 11) (nak : Bool) (vc : Fin 4) :
    trField (makeFlit body seq ack nak vc) 32 32
      = trailerCrc (makeFlit body seq ack nak vc).body (makeFlit body seq ack nak vc).trailer.toNat
    ∧ trField (makeFlit body seq ack nak vc) 0 11 = seq.toNat ∧ trField (makeFlit body seq ack nak vc) 11 11 = ack.toNat
    ∧ trField (makeFlit body seq ack nak vc) 22 1 = flag nak := by
  have hc := crc32_lt (toBytes 256 body.toNat ++ toBytes 4 ((seq.toNat + ack.toNat <<< 11 + (flag nak) <<< 22 + vc.val <<< 23) % 2 ^ 32))
  have hs := seq.isLt
  have ha := ack.isLt
  have hv := vc.isLt
  have hn : flag nak ≤ 1 := by cases nak <;> decide
  simp only [trField, recBits, makeFlit, trailerCrc, field, BitVec.toNat_ofNat, Nat.shiftLeft_eq, Nat.shiftRight_eq_div_pow] at hc ⊢
  generalize hx : crc32 _ = x at hc ⊢
  have hl : (seq.toNat + ack.toNat * 2 ^ 11 + flag nak * 2 ^ 22 + vc.val * 2 ^ 23 + x * 2 ^ 32) % 2 ^ 64 % 2 ^ 32
      = (seq.toNat + ack.toNat * 2 ^ 11 + flag nak * 2 ^ 22 + vc.val * 2 ^ 23) % 2 ^ 32 := by omega
  rw [hl, hx]
  refine ⟨?_, ?_, ?_, ?_⟩ <;> omega
def wFlit : Flit := makeFlit 0 0 0x7FF false 0
theorem wit_flit : portState (wFab 3 {} w0) 0 = 3 ∧ wFlit.fecOk = true ∧ ({ wFlit with fecOk := false } : Flit).fecOk = false
    ∧ trField wFlit 32 32 = trailerCrc wFlit.body wFlit.trailer.toNat ∧ trField wFlit 22 1 = 0
    ∧ (BitVec.ofNat 11 (trField wFlit 11 11) - (portOf (wFab 3 {} w0) 0).acked).toNat ≤ (portOf (wFab 3 {} w0) 0).replay.length := by
  have h := makeFlit_intact 0 0 0x7FF false 0
  refine ⟨by decide +kernel, rfl, rfl, h.1, h.2.2.2, ?_⟩
  have h2 : trField wFlit 11 11 = 0x7FF := h.2.2.1
  rw [h2]
  decide +kernel
theorem wit_ports : poweredUp (wFab 3 { replay := [wFlit] } w0) = true ∧ (portOf (wFab 3 { replay := [wFlit] } w0) 0).replay ≠ []
    ∧ portState (wFab 1 {} w0) 0 = 1 ∧ (portOf (wFab 1 {} w0) 0).was = 0 ∧ (portOf (wFab 1 { was := 3 } w0) 0).was ≠ 0
    ∧ (∀ e ∈ w0.fab.failedLanes, e.1 ≠ (0 : Shed).val * 18 + (5 : Fin 18).val) := by decide +kernel
def wBoot : BootRecord :=
  { serial := 1, stepping := 0, measurement := 0, bootCounter := 0, c0 := 7, pubKey := 3, signature := [], k := 0, ck := 7, claimed := 2 }
/-- Every hypothesis but the signature's, which no state of the model decides. -/
theorem wit_bootRecord : (let s := onFab (wFab 2 {} w0) (fun f => { f with admission := [(keyHash wBoot, 2)] })
    poweredUp s = true ∧ portState s 0 = 2 ∧ secretsCleared s = false ∧ (portOf s 0).bootOk = false ∧ hashChain wBoot.k wBoot.ck = wBoot.c0
      ∧ wBoot.claimed ≠ 0xFFFF ∧ (keyHash wBoot, wBoot.claimed) ∈ s.fab.admission)
    ∧ secretsCleared (setF w0 (shedReg 0 0x400000) 2 1 1) = true := by
  refine ⟨⟨by decide +kernel, by decide +kernel, by decide +kernel, by decide +kernel, rfl, by decide, ?_⟩, by decide +kernel⟩
  show _ ∈ [(keyHash wBoot, (2 : ModuleId))]
  exact List.mem_singleton.mpr rfl

def wOut (kind : BitVec 4) : Outstanding := { tag := 9, agent := .host, kind := kind, addr := 0, size := 64, dmod := 2 }
def wOuts (kind : BitVec 4) : State := onFab (wFab 3 {} w0) (fun f => { f with outstanding := [wOut kind] })
theorem wit_remote : (let s := wFab 3 {} w0
    poweredUp s = true ∧ forUs s (wPkt 0 1 2 (wA 0x100) []) = true ∧ closedRange 0x220000000000 64 = true ∧ closedRange (wA 0x100) 64 = false
      ∧ rangeCode (takePacket s (wPkt 0 1 2 (wA 0x100) [])) (wA 0x100) 64 = 0 ∧ (wPkt 1 1 2 (wA 0x100) [1]).ext = false
      ∧ syncOpOf (field (ofBytes ((wPkt 3 1 2 0 [15]).data.take 16)) 0 4) = none ∧ syncOpOf (field (ofBytes ((wPkt 3 1 2 0 [8]).data.take 16)) 0 4) = some .read) := by
  decide +kernel
theorem wit_answers (k : Fin 3) : findRequest (takePacket (wOuts (BitVec.ofNat 4 (k.val + 1))) (wPkt 4 1 2 0 [])) (BitVec.ofNat 4 (k.val + 1)) 9
      = some (wOut (BitVec.ofNat 4 (k.val + 1)))
    ∧ ((wOuts 1).fab.outstanding.find? (fun o => o.tag == 9 && (o.kind == 1 || o.kind == 3)) = some (wOut 1)) := by revert k; decide +kernel
/-- Module 1 with a route to module 2, and a tally. -/
def wFab2 : State := setSheds (wObj 7 (wTally 4 []) (wFab 3 {} w0)) (0x1000000 + 8 * 2) 4
def wOp (op : Nat) : Packet := wPkt 3 1 2 0 ((toBytes 1 op) ++ toBytes 3 7 ++ [0, 0, 0, 0] ++ toBytes 4 5)
theorem wit_remoteNow : (let k := wPkt 1 1 2 (wA 0x100) [7, 8]
    let u := takePacket wFab2 k
    poweredUp wFab2 = true ∧ forUs wFab2 k = true ∧ closedRange k.addr.toNat 2 = false ∧ k.ext = false
      ∧ (∀ q ∈ pieces k.addr.toNat 2, nameMoving u q.1 = false) ∧ writeRangeCode u (.remote 2 9) k.addr.toNat 2 = 0 ∧ sendCode u 2 = 0) := by decide +kernel
theorem wit_remoteOps : (let u (n : Nat) := takePacket wFab2 (wOp n)
    let x (n : Nat) := ofBytes ((wOp n).data.take 16)
    wFound (u 8) (BitVec.ofNat 24 (field (x 8) 8 24)) 7 = true ∧ (objOf (u 8) 7).kind = .tally ∧ waiters (objOf (u 8) 7) = [] ∧ (u 8).sync.wakes = []
      ∧ (objOf (u 8) 7).value.toNat + (BitVec.ofNat 32 (field (x 8) 64 32)).toNat < 2 ^ 32
      ∧ ((List.range 16).filterMap (fun n => syncOpOf (field (x n) 0 4))).contains .add = true
      ∧ ((List.range 16).filterMap (fun n => syncOpOf (field (x n) 0 4))).contains .fetchAdd = true
      ∧ ((List.range 16).filterMap (fun n => syncOpOf (field (x n) 0 4))).contains .read = true) := by decide +kernel
/-- A request of an agent, and what it waits for. -/
def wAsk (a : Agent) (kind : BitVec 4) : State :=
  onHost (onFab (wFab 3 {} w0) (fun f => { f with outstanding := [{ wOut kind with agent := a }] })) (fun h => { h with pendingReads := [(5, 0)] })
theorem wit_answersNow : ∀ a ∈ [Agent.host, .barrow wB, .engine 0], ∀ kind ∈ ([1, 2, 3] : List (BitVec 4)),
    poweredUp (wAsk a kind) = true ∧ findRequest (takePacket (wAsk a kind) (wPkt 4 1 2 0 [])) kind 9 = some { wOut kind with agent := a }
      ∧ (wAsk a kind).svc.point = none ∧ (wAsk a kind).svc.restore = none ∧ (wAsk a kind).host.posted = [] ∧ respStatus (wPkt 4 1 2 0 []) = 0
      ∧ forUs (wAsk a kind) (wPkt 4 1 2 0 []) = true ∧ (wAsk a kind).host.pendingReads.find? (fun e => e.2 == (wOut kind).addr) = some (5, 0) := by decide +kernel
theorem test_fabricWrite : wNext (exec (.fabricWrite (wPkt 1 1 2 (wA 0x100) [7, 8])) (wFab 3 {} w0)) (fun t => readByte t (wA 0x101) == 8) = true := by
  decide +kernel

def wBale : Bale := { e := 0, elems := [] }
def wRedK (kind : BitVec 4) : Packet := { wPkt kind 1 2 0 [] with tag := 0x0105 }
def wRedS (kind : BitVec 4) : State := setSheds (wFab 3 { queue := [(wRedK kind, 2)] } w0) (0x2000000 + 0x20 * 0x105) 1
theorem wit_reduction : poweredUp (wRedS 7) = true ∧ recBits (0x0105 : BitVec 16) 14 2 = 0
    ∧ (takeQueued (wRedS 7) (fun i k => i == 0 && k.kind == 7 && k.tag == 0x0105 && k.rstep == 0 && k.addr.toNat == 0)).1 = some (0, 2)
    ∧ (let r := takeQueued (wRedS 8) (fun _ k => k.kind == 8 && k.tag == 0x0105 && k.rstep == 0 && k.addr.toNat == 0)
      let v := freeBlocks r.2 0 2 2
      r.1 = some (0, 2) ∧ feValid (flowEntry v (flowIndex v 0x0105)) = true) := by decide +kernel
/-- Flow 5 of two local agents, of one or two bales, at a module with a parent at port 0. -/
def wFlowS (nb : Nat) : State := putFlowEntry (wFab 3 {} w0) 5 (1 + 2 * 2 ^ 32 + 16 * 2 ^ 40 + nb * 2 ^ 112)
theorem wit_flowOwn : (let s := wFlowS 2
    let e := flowEntry s (flowIndex s 5)
    let x := elOf s (flowIndex s 5)
    let y : FlowEl := { x with seen := [(0, .own 0)], window := [(0, .own 0, wBale)] }
    poweredUp s && recBits (5 : BitVec 16) 14 2 == 0 && feValid e && contributes e (.own 0) && feStep e == 0 && !x.halted && !waitsBefore x (.own 0)
      && !wBale.pre && !x.seen.contains (0, .own 0) && decide (0 < feNb e) && decide (0 < lowest x e + feWin e) && !baleDone y e 0) = true := by decide +kernel
theorem wit_flowOwn_done : (let s := putEl (wFlowS 1) 5 { seen := [(0, .own 1)], window := [(0, .own 1, wBale)] }
    let e := flowEntry s (flowIndex s 5)
    let x := elOf s (flowIndex s 5)
    let y : FlowEl := { x with seen := x.seen ++ [(0, .own 0)], window := x.window ++ [(0, .own 0, wBale)] }
    feValid e && contributes e (.own 0) && feStep e == 0 && !x.halted && !waitsBefore x (.own 0) && !x.seen.contains (0, .own 0)
      && decide (0 < feNb e) && decide (0 < lowest x e + feWin e) && baleDone y e 0
      && (sumBales (sumOrder (y.window.filter (fun w => w.1 == 0)))).isSome && !feRoot e) = true := by decide +kernel
theorem wit_takeover : takeoverKey 2 3 1 ∉ w0.fab.takeovers ∧ takeoverKey 2 3 1 ∈ (onFab w0 (fun f => { f with takeovers := [takeoverKey 2 3 1] })).fab.takeovers := by
  decide +kernel
theorem wit_forward : (let s := setSheds (wFab 3 {} w0) (0x1000000 + 8 * 2) 4
    let k := wPkt 0 2 3 0 []
    poweredUp s = true ∧ fabRole s ≠ 2 ∧ forUs s k = false ∧ channelOf k.kind.toNat ≠ 2 ∧ channelOf k.kind.toNat ≠ 3 ∧ k.hops ≠ 15
      ∧ routeValid (routeEntry (takePacket s k) k.dmod) = true ∧ routeValid (routeEntry (takePacket s (wPkt 0 4 3 0 [])) 4) = false
      ∧ ({ k with hops := 15 } : Packet).hops = 15) := by decide +kernel
theorem wit_routeWait : (let s := onFab (wFab 3 {} w0) (fun f => { f with waiting := [(wPkt 0 2 3 0 [], 0)] })
    s.fab.waiting.filter (fun e => e.1.dmod == 2) = [(wPkt 0 2 3 0 [], 0)] ∧ (wPkt 0 2 3 0 []).smod ≠ ownModule s) := by decide +kernel

theorem wit_training : portState (wFab 1 {} w0) 0 ≤ 1 ∧ 2 ≤ [((0 : Fin 4), false), (1, false)].length ∧ (5 : Fin 18).val < 16 := by decide +kernel
/-- A reduction packet of flow 5, or of flow 6, beyond its window. -/
def wRed (flow : BitVec 16) : RedPkt := { flow := flow, rstep := 0, first := 0, bales := [], blocks := 1 }
def wStalled : State := { setF (wFab 3 { red := [wRed 5] } w0) (pwReg 0) 8 1 1 with time := 2 ^ 32 }
theorem wit_watchExpiry : poweredUp wStalled = true ∧ getF wStalled (pwReg 0) 8 1 = 1 ∧ windowFull wStalled 0 0 = true ∧ stalledRed wStalled 0 0 = true
    ∧ ((List.finRange 16).filter (windowFull wStalled 0)).findSome? (fun p => cycleFrom wStalled p 16 p []) = none := by decide +kernel
theorem wit_refill : (let s := putEl (wFlowS 1) 5 { ext := [(0, wRed 5)] }
    let x := elOf s (flowIndex s 5)
    x.ext.find? (fun e => e.1 == 0) == some (0, wRed 5) && (wRed 5).rstep.toNat == feStep (flowEntry s (flowIndex s 5)) && !x.halted
      && (match acceptAll s 5 (flowIndex s 5) (.child 0) (wRed 5).first (wRed 5).bales with | (_, _, []) => true | _ => false)) = true := by decide +kernel
def wHas (flow : BitVec 16) : RedPkt := { wRed flow with bales := [wBale] }
/-- Port 0's queue waits for what port 1's holds, and the other way round. -/
def wCycle : State :=
  { setSheds (setSheds (setF (putPort (wFab 3 { red := [wHas 5, wHas 6] } w0) 1 { red := [wHas 6, wHas 5] }) (pwReg 0) 8 1 1)
      (0x2000000 + 0x20 * 5) (1 + 2 ^ 17)) (0x2000000 + 0x20 * 6) (1 + 2 ^ 16) with time := 2 ^ 32 }
theorem wit_watchCycle : windowFull wCycle 0 0 = true ∧ stalledRed wCycle 0 0 = true
    ∧ ((List.finRange 16).filter (windowFull wCycle 0)).findSome? (fun p => cycleFrom wCycle p 16 p []) = some [0, 1] := by decide +kernel

/-! ### The host port -/

theorem wit_controlWindowWrite : cwPart 0x1048 = .slot 1 0x48 ∧ 0x48 + [(1 : Byte)].length ≤ 0x1000 ∧ mbOwned (mbOf w0 1) = false
    ∧ mbOwned (mbOf (putMb w0 1 { owner := 1 }) 1) = true ∧ cwPart 0x41000 = .reserved ∧ cwPart 0x80008 = .msix 8 ∧ wordSized 0x80008 4 = true
    ∧ w0.host.inReset = false := by decide +kernel
/-- Window 0 open on an address, own module; posted writes allowed. -/
def wDwin (a : Nat) : State := setReg w0 (shedReg 0 0x200080) (BitVec.ofNat 64 (3 + a / 2 ^ 21 * 2 ^ 21 + 0xFFFF * 2 ^ 48))
theorem wit_dataWindow : dwinClosed w0 0x40 8 = true ∧ dwinClosed (wDwin (wA 0)) 0x40 8 = false ∧ inHostRange (dwinAddr (wDwin (wA 0)) 0x40) = false
    ∧ dwinModule (wDwin (wA 0)) 0x40 = ownModule (wDwin (wA 0)) ∧ dwinAddr (wDwin (wA 0)) 0x40 < regSpace ∧ bitOf (dwin (wDwin (wA 0)) (0x40 / 2 ^ 32)) 1 = true
    ∧ dwinClosed (wDwin regSpace) 0x40 8 = false ∧ inHostRange (dwinAddr (wDwin regSpace) 0x40) = false ∧ regSpace ≤ dwinAddr (wDwin regSpace) 0x40
    ∧ dwinModule (wDwin regSpace) 0x40 = ownModule (wDwin regSpace) := by decide +kernel
theorem wit_dataWindowNow : (let s := wDwin (wA 0)
    let a := dwinAddr s 0x40
    let w := onHost s (fun h => { h with pendingReads := h.pendingReads ++ [(0x40, BitVec.ofNat 48 a)] })
    rangeWaits w a 8 = false ∧ rangeCode w a 8 = 0 ∧ (∀ q ∈ pieces a 8, (readPiece (touchRange w a 8) q.1 q.2).2 = false)
      ∧ (touchRange w a 8).host.pendingReads.find? (fun e => e.2 == BitVec.ofNat 48 a) = some (0x40, BitVec.ofNat 48 a)
      ∧ s.host.heldWrites = [] ∧ rangeWaits s a 8 = false ∧ (∀ q ∈ pieces a 8, nameMoving s q.1 = false) ∧ writeRangeCode s .host a 8 = 0) := by decide +kernel
theorem wit_readTimeout : (onHost w0 (fun h => { h with pendingReads := [(5, 7)] })).host.pendingReads.find? (fun e => e.1 == 5) = some (5, 7) := by decide +kernel
theorem wit_mailboxPost : w0.power.entry = none ∧ mbOwned (mbOf w0 0) = false ∧ bitOf (1 : Word).toNat 0 = true ∧ bitOf (1 : Word).toNat 1 = false
    ∧ bitOf (3 : Word).toNat 0 = true ∧ bitOf (3 : Word).toNat 1 = true ∧ bitOf (0 : Word).toNat 0 = false
    ∧ (let s := onHost (putMb w0 0 { owner := 1 }) (fun h => { h with posted := [0] })
      mbOwned (mbOf s 0) = true ∧ mbBegun (mbOf s 0) = false ∧ (0 : MbSlot) ∈ s.host.posted) := by decide +kernel
theorem test_dataWindowWrite : wNext (exec (.dataWindowWrite 0x140 [9] false) (wDwin (wA 0))) (fun t => readByte t (wA 0x140) == 9) = true := by decide +kernel
theorem wit_hostLink : (linkWord w0 16 5).1 = 80 ∧ (getReg (setReg w0 (shedReg 0 0x200000) 1) (shedReg 0 0x200000)).toNat ≠ (linkWord w0 16 5).1 + (flag true) <<< 8 := by
  decide +kernel
theorem wit_linkUp : ((getReg w0 (shedReg 0 0x200000)).toNat != (linkWord w0 16 5).1 + (flag true) <<< 8 + 1 <<< 9) = true ∧ w0.host.inReset = false := by
  decide +kernel
def wOff (cause : Fin 6) : State := onPower w0 (fun p => { p with on := false, cause := cause, perst := true })
theorem wit_perst : w0.power.perst = false ∧ poweredUp (onPower (wOff 0) (fun p => { p with perst := false })) = false
    ∧ (onPower w0 (fun p => { p with perst := true })).power.perst = true ∧ w0.power.on = true ∧ pstate w0 ≠ 3
    ∧ wakeEnabled (setF w0 (aonReg 0x20) 1 1 0) 1 = false ∧ (wOff 3).power.perst = true ∧ (wOff 3).power.on = false ∧ (wOff 3).power.cause = 3
    ∧ (wOff 1).power.cause ≠ 3 := by decide +kernel
theorem wit_grooms : groomLive w0 = true ∧ groomState w0 false = .active ∧ groomState w0 true = .standby
    ∧ (let s := onGroom w0 (fun g => { g with a := .out, takeover := true })
      s.groom.b = .standby ∧ s.groom.a = .out ∧ s.groom.takeover = true)
    ∧ (onGroom w0 (fun g => { g with b := .out })).groom.b = .out ∧ groomLive (onGroom w0 (fun g => { g with b := .out })) = true := by decide +kernel
theorem test_groomHeartbeat : wNext (exec .groomHeartbeat w0) (fun t => t.host.heartbeat == 1) = true := by decide +kernel

/-! ### Mailbox commands -/

/-- Slot 0 posted with a command of task 1 that raises no interrupt: its code, its length and its arguments (offset, bytes, value). -/
def wMb (code len : Nat) (args : List (Nat × Nat × Nat)) (s : State) : State :=
  onSync (onHost (putMb s 0 { owner := 1, cmd := BitVec.ofNat 64 (code + 2 ^ 16 + len * 2 ^ 32 + 2 ^ 48), data := putFields [] args })
    (fun h => { h with posted := [0] })) (fun y => { y with tasks := [1] })
/-- The slot is ready, and its arguments hold these values. -/
def wReady (code len : Nat) (args : List (Nat × Nat × Nat)) (s : State) : Bool :=
  let t := wMb code len args s
  poweredUp t && mbHead t == some 0 && mbCode (mbOf t 0) == code && mbGate t (mbOf t 0) == 0 && mbLen (mbOf t 0) == len && !(t.host.posted.drop 1).contains 0
    && args.all (fun a => mbArg (mbOf t 0) a.1 a.2.1 == a.2.2)

theorem wit_eventEntry : ∀ e : Event, (onHost w0 (fun h => { h with evq := [e] })).host.evq = [e] ∧ w0.host.ring = none ∧ pstate w0 ≠ 2 ∧ groomLive w0 = true := by
  intro e; exact ⟨rfl, rfl, by decide +kernel, by decide +kernel⟩
def wRing : RingCfg := { entry := 3, records := 64, vector := 5 }
theorem wit_vectorDelay : (onHost w0 (fun h => { h with ring := some wRing, deferred := true })).host.ring = some wRing := rfl
/-- Entry 3 of the host window maps writable memory. -/
def wHostWin : State := onHomes w0 (fun h => { h with hostwin := [(3, { pool := false, ro := false, ns := false, haddr := 5, task := 1 })] })
theorem wit_eventCommands : wReady 0x0D01 9 [(4, 4, 0)] w0 = true ∧ wReady 0x0D01 9 [(4, 4, 65)] w0 = true ∧ ringLength 65 = false
    ∧ wReady 0x0D01 9 [(0, 4, 3), (4, 4, 64), (8, 1, 62)] wHostWin = true ∧ ringLength 64 = true
    ∧ ringValid (mbBegin (wMb 0x0D01 9 [] wHostWin) 0) 3 64 = true
    ∧ wReady 0x0D02 5 [(4, 1, 1)] w0 = true ∧ wReady 0x0D02 5 [(4, 1, 125)] w0 = true ∧ wReady 0x0D02 5 [(4, 1, 0)] w0 = true
    ∧ wReady 0x0D03 1 [(0, 1, 255)] w0 = true := by decide +kernel
theorem wit_completion : fieldsEnd (placeFields 0 [(1, 7), (8, 9), (64, 3)]) < 2 ^ 16 ∧ fieldsEnd (placeFields 0 [(1, 7), (8, 9), (64, 3)]) = 80 := by decide +kernel
theorem wit_refused : ∀ c : Fin 4, (let s := wMb ([0x0101, 0x0201, 0x0401, 0x0602].getD c.val 0) 4033 [] w0
    poweredUp s && mbHead s == some 0 && mbGate s (mbOf s 0) == 0x0902 && mbCode (mbOf s 0) == [0x0101, 0x0201, 0x0401, 0x0602].getD c.val 0) = true := by
  decide +kernel
theorem wit_wrongLength : wReady 0x0101 1 [] w0 = true ∧ wReady 0x0401 11 [] w0 = true := by decide +kernel
theorem wit_answers_next : wNext (exec (.eventRead 0) (wMb 0x0D02 5 [(4, 1, 1)] w0)) (fun t => !mbOwned (mbOf t 0)) = true ∧ QueueBounded w0 := by
  refine ⟨by decide +kernel, ?_⟩
  unfold QueueBounded
  decide +kernel

theorem wit_device : wReady 0x0101 0 [] w0 = true ∧ wReady 0x0102 0 [] w0 = true ∧ wReady 0x0103 1 [(0, 1, 27)] w0 = true ∧ wReady 0x0103 1 [(0, 1, 0xFF)] w0 = true
    ∧ wReady 0x0103 1 [(0, 1, 28)] w0 = true ∧ wReady 0x0104 12 [(0, 8, mangerReg 0 0x600008), (8, 4, 1)] w0 = true
    ∧ wReady 0x0104 12 [(0, 8, 2 ^ 48 - 256), (8, 4, 32)] w0 = true ∧ addrOff (mbBegin (wMb 0x0104 12 [] w0) 0) (mangerReg 0 0x600008) = false
    ∧ wReady 0x0105 24 [(0, 8, mangerReg 0 0x600008), (8, 8, 2 ^ 64 - 1)] w0 = true ∧ regLegal (mangerReg 0 0x600008) 8 = true := by decide +kernel
theorem wit_context : wReady 0x0201 16 [(0, 1, 63), (1, 1, 3), (2, 1, 7), (4, 4, 2 ^ 28 - 1), (8, 8, 2 ^ 48 - 1)] w0 = true
    ∧ wReady 0x0202 2 [(0, 1, 63), (1, 1, 3)] w0 = true ∧ wReady 0x0203 32 [(0, 1, 0)] wHome = true
    ∧ (let b := mbBegin (wMb 0x0203 32 [(0, 1, 0)] wHome) 0
      regionHome b 0 = some 0 ∧ coreOn b 0 = true ∧ seqLive (seqOf b 0) = false)
    ∧ wReady 0x0204 1 [(0, 1, 63)] w0 = true := by decide +kernel
theorem wit_imageLoadOne : (let s := wMb 0x0201 16 [(0, 1, 63), (1, 1, 3), (2, 1, 7), (4, 4, 2 ^ 5), (8, 8, 0)] w0
    let b := mbBegin s 0
    wReady 0x0201 16 [(0, 1, 63), (1, 1, 3), (2, 1, 7), (4, 4, 2 ^ 5), (8, 8, 0)] w0 && (lpStall b 5).any (coreOn b)) = true := by decide +kernel
theorem wit_imageOpenOne : wReady 0x0202 2 [(0, 1, 0), (1, 1, 3)] wHome = true ∧ regionStalls (mbBegin (wMb 0x0202 2 [] wHome) 0) 0 = [0] := by decide +kernel
theorem wit_seqStart : (let args := [(0, 1, 0), (8, 6, wA 0x3000), (16, 2, 3), (18, 2, 1)]
    let b := mbBegin (wMb 0x0203 32 args wHome) 0
    let m := mbOf (wMb 0x0203 32 args wHome) 0
    let u := writeReg b (stallReg 0 (0xA00 + 8 * 0)) (mbArg m 8 6 + mbArg m 16 2 <<< 48) (2 ^ 64 - 1)
    let ctl := (mbArg m 24 8 &&& 0x1F78) + 2 + mbArg m 18 2 <<< 16
    let keep := setBits (setBits ctl 1 1 0) 2 1 0
    let v := seqFill (setReg u (stallReg 0 (0xC00 + 8 * 0)) (BitVec.ofNat 64 (keep &&& 0xFFFF1F79))) 0
    wReady 0x0203 32 args wHome && regionHome b 0 == some 0 && coreOn b 0 && !seqLive (seqOf b 0) && regionHome u 0 == some 0
      && !seqLive (seqOf v 0) && bitOf ctl 1 && !bitOf ctl 2) = true := by decide +kernel
theorem wit_seqStopOne : wReady 0x0204 1 [(0, 1, 0)] (wSeq [] wAt) = true ∧ seqLive (seqOf (mbBegin (wMb 0x0204 1 [(0, 1, 0)] (wSeq [] wAt)) 0) 0) = true := by
  decide +kernel
theorem wit_taskCommands : wReady 0x0301 0 [] w0 = true ∧ taskExists (mbBegin (wMb 0x0302 2 [(0, 2, 1)] w0) 0) 1 = true ∧ wReady 0x0302 2 [(0, 2, 1)] w0 = true
    ∧ wReady 0x0303 2 [(0, 2, 1)] w0 = true ∧ wReady 0x0304 2 [(0, 2, 1)] w0 = true ∧ wReady 0x0304 2 [(0, 2, 2)] w0 = true
    ∧ taskExists (mbBegin (wMb 0x0304 2 [] w0) 0) 2 = false ∧ (mbBegin (wMb 0x0303 2 [] w0) 0).sync.started = [] := by decide +kernel
/-- Whichever number the free choice begins at, an identifier is found beside task 1. -/
theorem wit_taskFree (n : Nat) : (freeTask (mbBegin (wMb 0x0301 0 [] w0) 0) 2 n).isSome = true := by
  have h : (mbBegin (wMb 0x0301 0 [] w0) 0).sync.tasks = [1] := rfl
  have h1 : (1 : BitVec 16).toNat = 1 := rfl
  simp only [freeTask, h, h1, List.any_cons, List.any_nil, Bool.or_false, beq_iff_eq]
  by_cases h2 : 1 = n % 0xFFFF
  · rw [if_pos h2, ← h2, if_neg (by omega)]
    rfl
  · rw [if_neg h2]
    rfl

theorem wit_sync : (let t := wMb 0x0601 12 [(0, 3, 7), (3, 1, 2), (4, 1, 1), (8, 4, 5)] w0
    let b := mbBegin t 0
    wReady 0x0601 12 [(0, 3, 7), (3, 1, 2), (4, 1, 1), (8, 4, 5)] w0 && wFound b 7 7 && (objOf b 7).kind == .free && waiters (objOf b 7) == []
      && wReady 0x0601 12 [(0, 3, 7), (3, 1, 1), (4, 1, 1), (6, 2, 0xFFFF)] w0) = true
    ∧ (let s := wObj 7 { kind := .tally, task := 1, value := 4 } w0
      let b := mbBegin (wMb 0x0602 3 [(0, 3, 7)] s) 0
      wReady 0x0602 3 [(0, 3, 7)] s && wFound b 7 7 && (objOf b 7).task == 1 && (objOf b 7).kind != .free && waiters (objOf b 7) == []
        && wReady 0x0603 8 [(0, 3, 7), (3, 1, 0), (4, 4, 9)] s && (match setByHand (objOf b 7) 0 9 with | .ok (_, _, []) => true | _ => false)) = true := by
  decide +kernel
theorem wit_names : wReady 0x0401 12 [(0, 4, 9), (4, 4, 2), (8, 1, 5), (10, 1, 1), (11, 1, 0)] w0 = true ∧ wReady 0x0401 12 [(8, 1, 6)] w0 = true
    ∧ wReady 0x0402 8 [(0, 4, 9), (4, 4, 2)] w0 = true ∧ wReady 0x0403 11 [(8, 1, 5), (9, 1, 1), (10, 1, 0)] w0 = true := by decide +kernel
/-- A free frame of tier 1 is found, whichever the free choice begins at. -/
theorem wit_oneName (n : Nat) : wReady 0x0401 12 [(0, 4, 9), (4, 4, 1), (8, 1, 1)] w0 = true
    ∧ (let b := mbBegin (wMb 0x0401 12 [(0, 4, 9), (4, 4, 1), (8, 1, 1)] w0) 0
      namePopulated b 9 = true ∧ nameRec b 9 = none ∧ quotaMode b 1 = false ∧ nameOnly b 9 1 = none
        ∧ (seekFree (tierRanges b 1 none) (tierCap b 1) (usedFrames b 1) 1 n).isSome = true) := by
  refine ⟨by decide +kernel, by decide +kernel, by decide +kernel, by decide +kernel, by decide +kernel, ?_⟩
  have hr : tierRanges (mbBegin (wMb 0x0401 12 [(0, 4, 9), (4, 4, 1), (8, 1, 1)] w0) 0) 1 none = [(0, 982656)] := by decide +kernel
  have hc : tierCap (mbBegin (wMb 0x0401 12 [(0, 4, 9), (4, 4, 1), (8, 1, 1)] w0) 0) 1 = 982656 := by decide +kernel
  have hu : usedFrames (mbBegin (wMb 0x0401 12 [(0, 4, 9), (4, 4, 1), (8, 1, 1)] w0) 0) 1 = [] := by decide +kernel
  have h : n % 982656 < 982656 := Nat.mod_lt _ (by omega)
  simp [hr, hc, hu, seekFree, nthFrame, h]
theorem wit_oneNameEnds : (let s := wMb 0x0402 8 [(0, 4, 9), (4, 4, 1)] (wName 9 { wHomeRec 1 with task := 1 } w0)
    let b := mbBegin s 0
    mbHead s = some 0 ∧ nameRec b 9 = some { wHomeRec 1 with task := 1 } ∧ mbTask (mbOf s 0) = 1 ∧ b.homes.moves = []
      ∧ (nameRec b 9).any (fun r => r.move == 0) = true ∧ b.homes.moveQueue = [] ∧ (mangerMoves b (nameManger 9)).length < 4) := by decide +kernel
def wIsOk {α : Type} (e : Except Nat α) : Bool := match e with | .ok _ => true | .error _ => false
theorem wit_nameDeleted : wIsOk (deleteName (wName 9 (wHomeRec 1) w0) 0 9) = true ∧ (wName 9 (wHomeRec 1) w0).homes.moves = [] := by decide +kernel
theorem wit_hostwin : wReady 0x0404 24 [(0, 4, 3), (4, 4, 1), (8, 16, 1)] w0 = true ∧ hostWinLegal 1 = true
    ∧ (takeBitmaps [0] (onHomes w0 (fun h => { h with bitmaps := [(0, 5)] }))).isSome = true
    ∧ ((List.range (ceilDiv (3 % 512 + 1) 512)).map (fun j => 3 / 512 + j)) = [0]
    ∧ wReady 0x0405 8 [(0, 4, 1048575), (4, 4, 1)] w0 = true := by decide +kernel
/-- Task 1's quota record at `0x100`. -/
def wQuota : State := setReg w0 (mangerReg 0 0x600010) (BitVec.ofNat 64 (wA 0xC0 + 5 * 2 ^ 48))
theorem wit_memoryCommands : wReady 0x0406 1 [(0, 1, 1)] w0 = true ∧ wReady 0x0406 1 [(0, 1, 2)] w0 = true ∧ wReady 0x0407 1 [(0, 1, 1)] w0 = true
    ∧ wReady 0x0408 4 [(0, 1, 5), (1, 1, 1)] w0 = true ∧ tierInUse (mbBegin (wMb 0x0408 4 [] w0) 0) 5 = false
    ∧ wReady 0x0409 25 [(0, 2, 1), (24, 1, 1)] wQuota = true ∧ taskExists (mbBegin (wMb 0x0409 25 [] wQuota) 0) 1 = true
    ∧ quotaPlace (mbBegin (wMb 0x0409 25 [] wQuota) 0) 1 = some (wA 0x100) := by decide +kernel
theorem wit_bands : wReady 0x0407 1 [(0, 1, 1)] w0 = true ∧ protBands (mbBegin (wMb 0x0407 1 [(0, 1, 1)] w0) 0) < 7680
    ∧ usedFrames (mbBegin (wMb 0x0407 1 [(0, 1, 1)] w0) 0) 1 = [] ∧ wReady 0x0407 1 [(0, 1, 0xFF)] (wF [(mangerReg 0 0x500008, 0, 13, 5)] w0) = true
    ∧ 3 < protBands (mbBegin (wMb 0x0407 1 [(0, 1, 0xFF)] (wF [(mangerReg 0 0x500008, 0, 13, 5)] w0)) 0)
    ∧ ((List.range 112).all (fun i => !(usedFrames (mbBegin (wMb 0x0407 1 [(0, 1, 0xFF)] (wF [(mangerReg 0 0x500008, 0, 13, 5)] w0)) 0) 2).contains
        (4 * 112 + i))) = true := by decide +kernel
/-- No sheds' areas and one of no segments: whichever name the free choice begins at, the run is found. -/
theorem wit_spillAreas : wReady 0x040A 16 [(0, 4, 0), (8, 1, 0), (9, 1, 63)] w0 = true
    ∧ (areaAsks (mbOf (wMb 0x040A 16 [(0, 4, 0), (8, 1, 0), (9, 1, 63)] w0) 0)).findIdx? (fun q => !areaLegal q) = none
    ∧ ∀ a, (freeRun w0 0 2 a).isSome = true := by
  refine ⟨by decide +kernel, by decide +kernel, fun a => ?_⟩
  unfold freeRun
  rfl
theorem wit_paramCommands : wReady 0x0501 40 [(0, 8, 0x100), (16, 8, 2 ^ 27 - 1), (24, 8, 2047 * 2 ^ 32)] w0 = true
    ∧ wReady 0x0502 10 [(0, 2, 5), (8, 2, 7)] w0 = true ∧ wReady 0x0503 12 [(0, 2, 0)] (wSet 4 3) = true
    ∧ ((setDesc (mbBegin (wMb 0x0503 12 [] (wSet 4 3)) 0) 0).any sdLegal) = true
    ∧ wReady 0x0504 520 [(0, 1, 7)] w0 = true ∧ (∀ g : Mg, progInUse (mbBegin (wMb 0x0504 16 [] w0) 0) g 5 = false) := by decide +kernel
theorem wit_regenerateOne (n : Nat) : wReady 0x0503 12 [(8, 4, 1)] (wSet 4 3) = true
    ∧ (let b := mbBegin (wMb 0x0503 12 [(8, 4, 1)] (wSet 4 3)) 0
      ((setDesc b 0).any (fun d => decide (0 < sdShards d) && (shardRec b d 0).any (fun r => srEng r == 0))) = true ∧ serving b 0 = 0
        ∧ (engOf b 0).ring = [] ∧ (pushTrigger b 0 (triggerWord 0 0 n 1)).isSome = true) := by
  refine ⟨by decide +kernel, by decide +kernel, by decide +kernel, by decide +kernel, ?_⟩
  have h : 256 ≤ (engOf (mbBegin (wMb 0x0503 12 [(8, 4, 1)] (wSet 4 3)) 0) (serving (mbBegin (wMb 0x0503 12 [(8, 4, 1)] (wSet 4 3)) 0) 0)).ring.length ↔ False := by
    decide +kernel
  simp only [pushTrigger, h, if_false, Option.isSome_some]
def wPoint : Point := { id := 1, module := 0xFFFF, target := 0x220000000000 + 3 * segSize, step := 4, fixed := true, setsLeft := [0] }
theorem wit_securePoint : wReady 0x0505 10 [(0, 8, 0x220000000000 + 3 * segSize), (8, 2, 0xFFFF)] wHostWin = true
    ∧ (mbBegin (wMb 0x0505 10 [] wHostWin) 0).svc.point = none ∧ hostWritable (mbBegin (wMb 0x0505 10 [] wHostWin) 0) (0x220000000000 + 3 * segSize) 128 = true
    ∧ (mbBegin (wMb 0x0505 10 [] (onSvc w0 (fun v => { v with point := some wPoint }))) 0).svc.point.isSome = true := by decide +kernel
theorem wit_restore : wReady 0x0506 10 [(0, 8, 1), (8, 2, 5)] w0 = true ∧ liveRegions (mbBegin (wMb 0x0506 10 [] w0) 0) = []
    ∧ (mbBegin (wMb 0x0506 10 [] w0) 0).upd.engines = [] ∧ (mbBegin (wMb 0x0506 10 [] w0) 0).svc.restore = none
    ∧ (let s := onSvc wHostWin (fun v => { v with points := [wPoint] })
      let b := mbBegin (wMb 0x0506 10 [] s) 0
      (b.svc.points.find? (fun p => p.id == 1 && p.module == 0xFFFF) == some wPoint && (hostImage b wPoint.target).isSome) = true) := by decide +kernel
theorem wit_setRead : (let s := onSvc (wSet 4 3) (fun v => { v with point := some wPoint })
    poweredUp s && ((ownedSets s).find? (fun e => e.1 == 0)).any (fun e => setStands s e.2 == some 4)) = true
    ∧ pointHolds (onSvc (wSet 4 3) (fun v => { v with point := some wPoint })) 0 5 = true := by decide +kernel
theorem wit_pointAway : wReady 0x0505 10 [(8, 2, 5)] wHostWin = true ∧ ownModule (mbBegin (wMb 0x0505 10 [(8, 2, 5)] wHostWin) 0) ≠ 5
    ∧ (mbBegin (wMb 0x0505 10 [(8, 2, 5)] wHostWin) 0).svc.point = none := by decide +kernel
theorem wit_readSet : (let s := onSvc (wSet 4 3) (fun v => { v with point := some { wPoint with module := 0xFFFF, target := 0x220000000000 } })
    s.svc.point.isSome = true ∧ ownModule s = 0xFFFF ∧ sdBrec ((setDesc s 0).getD 0) = 0 ∧ wPoint.failed = 0 ∧ wPoint.setsLeft ≠ []
      ∧ hostWritable (onHomes s (fun h => { h with hostwin := [(0, { pool := false, ro := false, ns := false, haddr := 5, task := 1 })] })) (0x220000000000 + 128) 64
        = true) := by decide +kernel
theorem wit_fabricCommands : wReady 0x0701 5 [(0, 2, 0xFFFE), (4, 1, 1)] w0 = true ∧ wReady 0x0702 35 [(34, 1, 1)] w0 = true
    ∧ wReady 0x0702 35 [(0, 32, 5), (32, 2, 0xFFFE), (34, 1, 0)] w0 = true
    ∧ wReady 0x0703 16 [(0, 2, 65535), (2, 2, 1), (8, 8, 0x14)] w0 = true ∧ routeLegal 0x14 = true
    ∧ wReady 0x0704 40 [(0, 1, 15), (1, 1, 63), (2, 1, 255), (3, 1, 1), (8, 32, 1 + 16 * 2 ^ 40)] w0 = true ∧ feLegal (1 + 16 * 2 ^ 40) = true
    ∧ wReady 0x0705 2 [(0, 1, 63), (1, 1, 15)] w0 = true ∧ (flowSelect (mbBegin (wMb 0x0705 2 [] w0) 0) 63 15).1 = 0
    ∧ wReady 0x0706 2 [(0, 2, 16383)] w0 = true ∧ wReady 0x0707 2 [(0, 1, 15), (1, 1, 2)] w0 = true ∧ wReady 0x0707 2 [(0, 1, 15), (1, 1, 3)] w0 = true := by
  decide +kernel
/-- The module is a spare of identifier 7. -/
def wSpare : State := setSheds w0 0 (BitVec.ofNat 64 (7 + 9 * 2 ^ 16 + 2 * 2 ^ 32))
theorem wit_takeoverCommand : wReady 0x0708 2 [(0, 2, 5)] wSpare = true ∧ fabRole (mbBegin (wMb 0x0708 2 [] wSpare) 0) = 2
    ∧ liveModule (mbBegin (wMb 0x0708 2 [] wSpare) 0) 5 = false ∧ ownModule (mbBegin (wMb 0x0708 2 [] wSpare) 0) ≠ BitVec.ofNat 16 5 := by decide +kernel
/-- Set 15 lists a flow that the reserve of a shed cannot hold. -/
def wNoRoom : State := setF (setSheds w0 (0x2000000 + 0x20 * (16384 * 15)) (BitVec.ofNat 64 (1 + 2 ^ 16 + 4095 * 2 ^ 40))) (shedReg 0 0x10) 0 18 0
theorem wit_flowSelect_noRoom : (flowSelect wNoRoom 0 15).1 ≠ 0 ∧ wReady 0x0705 2 [(0, 1, 0), (1, 1, 15)] wNoRoom = true := by decide +kernel
theorem wit_flowFits : wReady 0x0705 2 [(0, 1, 3), (1, 1, 2)] w0 = true
    ∧ (∀ x : Shed, flowReserve (mbBegin (wMb 0x0705 2 [] w0) 0) x (some (3, 2)) ≤ getF (mbBegin (wMb 0x0705 2 [] w0) 0) (shedReg x 0x10) 0 18) := by decide +kernel
def wEntry (e : PwrEntry) (ap : Nat) : State := setF (onPower (putMb w0 0 { owner := 5 }) (fun p => { p with entry := some e })) pwrState 3 3 ap
def wEnt0 : PwrEntry := { slot := 0, target := 2, mask := 0, seqs := [], queues := [], engines := [], fsel := [] }
theorem wit_powerState : wReady 0x0801 16 [(0, 1, 0)] w0 = true ∧ w0.power.entry = none ∧ wReady 0x0801 16 [(0, 1, 2)] w0 = true
    ∧ entryCheck (mbBegin (wMb 0x0801 16 [] w0) 0) 2 0 = 0 ∧ wReady 0x0801 16 [(0, 1, 3)] w0 = true
    ∧ entryCheck (mbBegin (wMb 0x0801 16 [] w0) 0) 3 0 = 0x0604 := by decide +kernel
theorem wit_powerEntry : poweredUp (wEntry wEnt0 1) = true ∧ (wEntry wEnt0 1).power.entry = some wEnt0 ∧ mbBegun (mbOf (wEntry wEnt0 1) 0) = true
    ∧ getF (wEntry wEnt0 1) pwrState 3 3 = 1 ∧ quiesced (wEntry wEnt0 1) wEnt0 = true
    ∧ (let e := { wEnt0 with seqs := [0] }
      quiesced { wEntry e 1 with seqs := [(0, wAt)] } e = false)
    ∧ getF (wEntry wEnt0 4) pwrState 3 3 = 4 ∧ getF (wEntry wEnt0 5) pwrState 3 3 = 5 ∧ ({ wEnt0 with wake := some 1 } : PwrEntry).wake = some 1 := by
  decide +kernel
theorem wit_powerCap : wReady 0x0802 32 [(31, 1, 255)] w0 = true ∧ wReady 0x0802 1 [(0, 1, 0)] w0 = true ∧ wReady 0x0803 0 [] w0 = true := by decide +kernel

/-! ### The input, the limits, the bus -/

def wWarned : State := setF w0 pwrInput 48 3 1
theorem wit_input : inputWarn w0 = false ∧ inputWarn wWarned = true
    ∧ inputWarn (setF (onPower w0 (fun p => { p with pwrgd := false })) (shedReg 0 0x300010) 1 1 0) = false
    ∧ w0.host.highAt = none ∧ w0.power.on = true ∧ (wOff 1).power.on = false ∧ (wOff 1).power.cause = 1 ∧ (wOff 2).power.cause = 2
    ∧ (4499 : BitVec 16).toNat < 4500 ∧ (4099 : BitVec 16).toNat < 4100 ∧ 4600 < (4601 : BitVec 16).toNat ∧ (4600 : BitVec 16).toNat ≤ 4600
    ∧ 6300 < (6301 : BitVec 16).toNat ∧ 6050 < (6051 : BitVec 16).toNat ∧ (5999 : BitVec 16).toNat < 6000 := by decide +kernel
def wDorm : State := setF (setF w0 (aonReg 0) 0 3 3) (aonReg 0x28) 0 32 5
theorem wit_wakeTimer : wDorm.power.on = true ∧ pstate wDorm = 3 ∧ wakeEnabled (setF wDorm (aonReg 0x20) 2 1 1) 2 = true ∧ getF wDorm (aonReg 0x28) 0 32 ≠ 0 := by
  decide +kernel
theorem wit_wakeNoEntry : w0.power.entry = none ∧ wDorm.power.entry = none ∧ pstate (setF w0 (aonReg 0) 0 3 2) = 2 ∧ pstate wDorm = 3 := by decide +kernel
theorem wit_stops : stallState w0 0 ≠ .failed ∧ 40 < 41 := by decide +kernel
theorem wit_bus : busUp w0 = true ∧ wakeEnabled (setF w0 (aonReg 0x20) 0 1 1) 0 = true ∧ wakeEnabled (setF w0 (aonReg 0x20) 0 1 0) 0 = false := by decide +kernel
theorem test_overVoltage : wNext (exec (.overVoltage 6301) w0) (fun t => !t.power.on && t.power.cause == 2) = true := by decide +kernel
theorem test_getEid : wNext (exec (.mctpControl (.setEid 9)) w0) (fun t => t.power.eid == 9) = true := by decide +kernel

/-! ### Self-test, continuity, security -/

def wTest (die : BitVec 8) (kind : Fin 4) (blocks : Nat) : TestRun := { die := die, kind := kind, slot := none, inService := false, blocks := blocks }
def wTesting (t : TestRun) (s : State) : State := onSvc s (fun v => { v with tests := [t] })
theorem wit_selfTest : wReady 0x0A01 2 [(0, 1, 0x3F), (1, 1, 1)] w0 = true ∧ wReady 0x0A01 2 [(0, 1, 0xFF), (1, 1, 3)] w0 = true
    ∧ mbBegun (mbOf (wMb 0x0A01 2 [] w0) 0) = false ∧ testing (mbBegin (wMb 0x0A01 2 [] w0) 0) 0x3F = false ∧ testing (mbBegin (wMb 0x0A01 2 [] w0) 0) 0xFF = false
    ∧ isDie 0x3F = true ∧ wReady 0x0A02 4 [(0, 1, 0x23), (2, 2, 0)] w0 = true ∧ isDie 0x23 = true ∧ wReady 0x0A03 1 [(0, 1, 31)] w0 = true
    ∧ inService (mbBegin (wMb 0x0A03 1 [] w0) 0) 7 = false ∧ inService (mbBegin (wMb 0x0A03 1 [] w0) 0) 0 = true ∧ wReady 0x0A03 1 [(0, 1, 7)] w0 = true
    ∧ wReady 0x0A04 4 [(0, 1, 0x1F), (2, 2, 575)] w0 = true ∧ hasUnit 0x1F 575 = true := by decide +kernel
theorem wit_testEnds : (wTesting (wTest 0xFF 3 0) w0).svc.tests.find? (fun t => t.die.toNat == 0xFF) = some (wTest 0xFF 3 0)
    ∧ (wTesting (wTest 5 1 0) w0).svc.tests.find? (fun t => t.die.toNat == 5) = some (wTest 5 1 0) ∧ (wTest 5 1 0).kind ≠ 3
    ∧ (wTesting (wTest 0x3F 1 262143) w0).svc.tests.find? (fun t => t.die.toNat == 0x30 + (15 : Fin 16).val) = some (wTest 0x3F 1 262143) := by decide +kernel
theorem wit_stallLoss : (3 : Stall) ∉ w0.yard.failed ∧ stallState w0 3 = .inService ∧ stallLp w0 3 = some 3 ∧ w0.svc.rotation = none := by decide +kernel
def wRotates : State := setF w0 bstCfg 0 1 1
theorem wit_rotation : getF wRotates bstCfg 0 1 = 1 ∧ nextRotation wRotates = some 0 ∧ rowAtMark wRotates 0 = true
    ∧ rowAtMark (setF (wSeq [] wAt) bstCfg 0 1 1) 0 = true
    ∧ rowAtMark (setF (wSeq [] { wAt with phase := .running }) bstCfg 0 1 1) 0 = false
    ∧ nextRotation (onYard wRotates (fun y => { y with failed := [7, 15, 23, 31] })) = none ∧ wRotates.power.entry = none ∧ pstate wRotates = 0
    ∧ wRotates.svc.contLost = false := by decide +kernel
def wRot : Rotation := { row := 0, leaving := 7 }
theorem wit_rotationDone : (onSvc w0 (fun v => { v with rotation := some wRot })).svc.rotation = some wRot := rfl
theorem wit_audit : auditCase w0 0 (unitOf w0 0 wSfn) none ≠ .agree ∧ auditCase w0 0 (unitOf w0 0 wSfn) (some (BitVec.ofNat 64 32)) = .agree := by decide +kernel
theorem wit_audited : cfgOf (unitOf (wUnit wSfn wTwo w0) 0 wSfn) (unitOf (wUnit wSfn wTwo w0) 0 wSfn).active ≠ none := by decide +kernel
/-- The commands of security. A token or an image that the signature check accepts is not shown: no state of the model decides it. -/
theorem wit_security : wReady 0x0901 2952 [(24, 1, 2)] w0 = true
    ∧ wReady 0x0902 0 [] w0 = true ∧ (mbBegin (wMb 0x0902 0 [] w0) 0).sec.scope1 = false
    ∧ (mbBegin (wMb 0x0902 0 [] (onSec w0 (fun x => { x with scope1 := true }))) 0).sec.scope1 = true ∧ secretsCleared (mbBegin (wMb 0x0902 0 [] w0) 0) = false
    ∧ wReady 0x0903 0 [] w0 = true := by decide +kernel
theorem wit_firmware : wReady 0x0B01 12 [(0, 8, wA 0x100), (8, 4, 16)] w0 = true ∧ rangeCode (mbBegin (wMb 0x0B01 12 [] w0) 0) (wA 0x100) 16 = 0
    ∧ poisonRange (mbBegin (wMb 0x0B01 12 [] w0) 0) (wA 0x100) 16 = false ∧ imageCheck w0 (readRange w0 (wA 0x100) 16) = 0x0701
    ∧ wReady 0x0B02 0 [] (onGroom w0 (fun g => { g with b := .failed })) = true
    ∧ (mbBegin (wMb 0x0B02 0 [] (onGroom w0 (fun g => { g with b := .failed }))) 0).groom.b = .failed ∧ wReady 0x0B02 0 [] w0 = true
    ∧ (mbBegin (wMb 0x0B02 0 [] w0) 0).groom.b = .standby := by decide +kernel
theorem wit_attest : wReady 0x0C01 32 [(0, 8, 5)] w0 = true ∧ secretsCleared (mbBegin (wMb 0x0C01 32 [] (setF w0 secStat 2 1 1)) 0) = true
    ∧ idReady (mbBegin (wMb 0x0C01 32 [] w0) 0) = false ∧ idReady (mbBegin (wMb 0x0C01 32 [] (setF w0 secStat 4 1 1)) 0) = true
    ∧ 2 ^ 20 < (mbBegin (wMb 0x0C01 32 [] (onSec w0 (fun x => { x with next := 2 ^ 20 - 511 }))) 0).sec.next + 512
    ∧ (mbBegin (wMb 0x0C01 32 [] w0) 0).sec.next + 512 ≤ 2 ^ 20
    ∧ (reportName (onSec w0 (fun x => { x with reports := [0] }))).isSome = true := by decide +kernel
/-- A token of scope 2 is refused, whatever its signature. -/
theorem wit_tokenRefused (s : State) : tokenValid s (List.replicate 24 0 ++ [2]) = false := by
  have h : decide (ofBytes (cut (List.replicate 24 0 ++ [(2 : Byte)]) 24 1) ≤ 1) = false := by decide
  simp only [tokenValid, h, Bool.and_false]
def wImg : Image := { version := 3, svn := 5, digest := 0 }
def wOldSvn : State := { onSec w0 (fun x => { x with slot0 := some wImg }) with time := 86400000000000 }
theorem wit_svn : imageOfSlot wOldSvn wOldSvn.sec.running = some wImg ∧ wOldSvn.sec.svn < min 64 wImg.svn.toNat
    ∧ wOldSvn.sec.runSince + 86400000000000 ≤ wOldSvn.time ∧ poweredUp wOldSvn = true ∧ secretsCleared w0 = false := by decide +kernel
theorem test_svnAdvance : wNext (exec .svnAdvance wOldSvn) (fun t => t.sec.svn == 5) = true
    ∧ wNext (exec .svnAdvance { wOldSvn with time := 86399999999999 }) (fun t => t.sec.svn == 0) = true := by decide +kernel

/-! ### Ports, windows, the block as a whole -/

theorem wit_portsAndWindows : cxlState (setF w0 (cxpReg 3 0) 0 3 2) (3 : Fin 8).val = 2 ∧ cxlState w0 (3 : Fin 8).val ≤ 1
    ∧ cwPart 0x3FFF8 = .slot 63 0xFF8 ∧ 0xFF8 + 8 ≤ 0x1000 ∧ cwPart 0x40008 = .status 8 ∧ wordSized 0x40008 8 = true ∧ (cfgSuccess w0).1 = true
    ∧ (elOf w0 (flowIndex w0 5)).halted = false := by decide +kernel
theorem wit_storesNothing : storesNothing .groomHeartbeat = true ∧ wNext (exec .groomHeartbeat w0) (fun _ => true) = true
    ∧ settlesLimits (.thermalLimit 0 true 9) = true ∧ wNext (exec (.thermalLimit 0 true 9) w0) (fun t => islandStep t 0 0 == 9) = true := by decide +kernel
theorem wit_noPower : poweredUp (wOff 0) = false ∧ actsOnAlwaysOn .groomHeartbeat = false ∧ exec .groomHeartbeat (wOff 0) = .next (wOff 0)
    ∧ poweredUp wDorm = false := by
  refine ⟨by decide +kernel, rfl, rfl, by decide +kernel⟩
theorem wit_queueBounded : QueueBounded w0 ∧ QueueBounded (wOff 0) ∧ wNext (step w0) (fun t => t.time == 1) = true := by
  unfold QueueBounded; decide +kernel
theorem test_step : wNext (step { w0 with pending := [.groomHeartbeat, .epochTick 0] }) (fun t =>
    t.host.heartbeat == 1 && t.pending == [.epochTick 0] && t.time == 0) = true := by decide +kernel
theorem test_decode : (decodeTableWord 0 0).isNone = true := by decide +kernel

end Sys2Proof.Machine
end

section
/-! SUPPORT. The statements of the manual's scope: register accesses and their access codes (00 R6–R9), bytes in memory (00 R4),
event records (00 R18; 13 R403, R407), and what reset leaves (00 R9; 15 R454). -/

namespace Sys2Proof.Machine

/-! ### Bits under a mask -/

/-- Numbers that share no bit are added without a carry. -/
theorem add_eq_lor_of_land_eq_zero (a b : Nat) (h : a &&& b = 0) : a + b = a ||| b := by
  have ha : a < 2 ^ (a + b) := Nat.lt_of_lt_of_le Nat.lt_two_pow_self (Nat.pow_le_pow_right (by decide) (Nat.le_add_right a b))
  have hb : b < 2 ^ (a + b) := Nat.lt_of_lt_of_le Nat.lt_two_pow_self (Nat.pow_le_pow_right (by decide) (Nat.le_add_left b a))
  have hadd := BitVec.add_eq_or_of_and_eq_zero (BitVec.ofNat (a + b) a) (BitVec.ofNat (a + b) b)
    (by rw [← BitVec.ofNat_and, h])
  have hnat := congrArg BitVec.toNat hadd
  rwa [← BitVec.ofNat_add, ← BitVec.ofNat_or, BitVec.toNat_ofNat, BitVec.toNat_ofNat, Nat.mod_eq_of_lt Nat.lt_two_pow_self,
    Nat.mod_eq_of_lt (Nat.or_lt_two_pow ha hb)] at hnat

/-- Numbers that share no bit, bit by bit. -/
theorem land_eq_zero_of_testBit (a b : Nat) (h : ∀ i, a.testBit i = true → b.testBit i = false) : a &&& b = 0 := by
  refine Nat.eq_of_testBit_eq (fun i => ?_)
  rw [Nat.testBit_and, Nat.zero_testBit]
  cases ha : a.testBit i
  · rfl
  · exact h i ha

theorem testBit_xor_land (w m i : Nat) : (w ^^^ (w &&& m)).testBit i = (w.testBit i && !m.testBit i) := by
  rw [Nat.testBit_xor, Nat.testBit_and]
  cases w.testBit i <;> cases m.testBit i <;> rfl

/-- Taking a mask's bits off a number leaves its bits outside the mask. -/
theorem testBit_sub_land (w m i : Nat) : (w - (w &&& m)).testBit i = (w.testBit i && !m.testBit i) := by
  have hdisj : (w ^^^ (w &&& m)) &&& (w &&& m) = 0 := by
    refine land_eq_zero_of_testBit _ _ (fun i hi => ?_)
    rw [testBit_xor_land, Bool.and_eq_true, Bool.not_eq_true'] at hi
    rw [Nat.testBit_and, hi.2, Bool.and_false]
  have hunion : (w ^^^ (w &&& m)) ||| (w &&& m) = w := by
    refine Nat.eq_of_testBit_eq (fun i => ?_)
    rw [Nat.testBit_or, testBit_xor_land, Nat.testBit_and]
    cases w.testBit i <;> cases m.testBit i <;> rfl
  have hsum := add_eq_lor_of_land_eq_zero _ _ hdisj
  have hsub : w - (w &&& m) = w ^^^ (w &&& m) := by omega
  rw [hsub, testBit_xor_land]

/-- A word whose bits in `m` are taken off and whose bits in `n`, a part of `m`, are then put from `data`. -/
theorem testBit_replaced (old data m n i : Nat) (hn : ∀ j, n.testBit j = true → m.testBit j = true) :
    ((old - (old &&& m)) + (data &&& n)).testBit i = if n.testBit i then data.testBit i else old.testBit i && !m.testBit i := by
  have hdisj : (old - (old &&& m)) &&& (data &&& n) = 0 := by
    refine land_eq_zero_of_testBit _ _ (fun j hj => ?_)
    rw [testBit_sub_land, Bool.and_eq_true, Bool.not_eq_true'] at hj
    have hnj : n.testBit j = false := Bool.eq_false_iff.mpr (fun h => Bool.noConfusion (hj.2.symm.trans (hn j h)))
    rw [Nat.testBit_and, hnj, Bool.and_false]
  rw [add_eq_lor_of_land_eq_zero _ _ hdisj, Nat.testBit_or, Nat.testBit_and, testBit_sub_land]
  cases hi : n.testBit i with
  | false => rw [Bool.and_false, Bool.or_false, if_neg Bool.false_ne_true]
  | true => rw [hn i hi, Bool.not_true, Bool.and_false, Bool.false_or, Bool.and_true, if_pos rfl]

/-! ### Access codes (00 R7, R8) -/

/-- The mask with a field's bits added when its access code is asked for. -/
def addFieldMask (want : Acc → Bool) (m : Nat) (f : Fld) : Nat := if want f.acc then m ||| ((2 ^ f.len - 1) <<< f.lo) else m

theorem testBit_addFieldMask (want : Acc → Bool) (m : Nat) (f : Fld) (i : Nat) :
    (addFieldMask want m f).testBit i = (m.testBit i || (want f.acc && decide (f.lo ≤ i ∧ i < f.lo + f.len))) := by
  have hbits : ((2 ^ f.len - 1) <<< f.lo).testBit i = decide (f.lo ≤ i ∧ i < f.lo + f.len) := by
    rw [Nat.testBit_shiftLeft, Nat.testBit_two_pow_sub_one, ← Bool.decide_and, decide_eq_decide]
    omega
  unfold addFieldMask
  split
  · rename_i hwant; rw [Nat.testBit_or, hbits, hwant, Bool.true_and]
  · rename_i hwant; rw [Bool.eq_false_iff.mpr hwant, Bool.false_and, Bool.or_false]

theorem testBit_foldl_addFieldMask (fs : List Fld) (want : Acc → Bool) (m i : Nat) :
    (fs.foldl (addFieldMask want) m).testBit i = (m.testBit i || fieldHas fs want i) := by
  induction fs generalizing m with
  | nil => exact (Bool.or_false _).symm
  | cons f fs ih =>
    rw [List.foldl_cons, ih, testBit_addFieldMask, Bool.or_assoc]
    rfl

/-- A register's mask holds the bits of its fields with the codes in question. -/
theorem testBit_maskOf (fs : List Fld) (want : Acc → Bool) (i : Nat) : (maskOf fs want).testBit i = fieldHas fs want i :=
  (testBit_foldl_addFieldMask fs want 0 i).trans (by rw [Nat.zero_testBit, Bool.false_or])

/-- Settles O2: the bits that RW fields, and RWL fields before the lock, take are put from the data; those that W1C fields clear
are taken off; the rest stand. -/
theorem accessCodesDecideEachBit : Obligations.AccessCodesDecideEachBit := by
  intro p fs lock old data lanes i hnorm
  simp only [writtenBits, hnorm]
  rw [testBit_replaced _ _ _ _ _ (fun j hj => by rw [Nat.testBit_or, hj, Bool.true_or])]
  simp only [Nat.testBit_or, Nat.testBit_and, testBit_maskOf]
  split
  · rfl
  · rename_i hrw
    rw [Bool.eq_false_iff.mpr hrw, Bool.false_or, Bool.and_comm (data.testBit i)]

/-! ### Bytes in memory (00 R4) -/

theorem readByte_putBytes_inside (s : State) (p i : Nat) (d : List Byte) (h : i < d.length) :
    readByte (putBytes s p d) (p + i) = d[i] := by
  rw [readByte_putBytes, if_pos (by omega), Nat.add_sub_cancel_left, ← List.getElem_eq_getD (h := h)]

theorem readByte_putBytes_outside (s : State) (p q : Nat) (d : List Byte) (h : q < p ∨ p + d.length ≤ q) :
    readByte (putBytes s p d) q = readByte s q := by
  rw [readByte_putBytes, if_neg (by omega)]

/-- Settles O21, by what a read finds inside and outside a store and by the canonical form of memory that a store keeps. -/
theorem storedBytesReadBack : Obligations.StoredBytesReadBack := fun s p q d =>
  ⟨⟨fun i h => readByte_putBytes_inside s p i d h, readByte_putBytes_outside s p q d⟩, putBytes_wf s p d⟩

/-! ### Register accesses (00 R6, 01 R30) -/

theorem exec_registerWrite_on (s : State) (a : Addr) (size : Nat) (data : Word) (h : poweredUp s = true) :
    exec (.registerWrite a size data) s = .next (ended s (registerWrite s a.toNat size data.toNat)) :=
  finish_on s _ h

/-- Only 8 B and 4 B accesses at their alignment are performed. -/
theorem size_of_regLegal (a size : Nat) (h : regLegal a size = true) : (size = 8 ∧ a % 8 = 0) ∨ (size = 4 ∧ a % 4 = 0) := by
  simp only [regLegal, Bool.and_eq_true, Bool.or_eq_true, decide_eq_true_eq] at h
  exact h.1

/-- An 8 B access at its alignment is performed where a register stands. -/
theorem regLegal_aligned_word (a : Nat) (p : RegPlace) (fs : List Fld) (ha : a % 8 = 0) (hp : regPlace a = some p)
    (hfs : placeSpec p = some fs) : regLegal a 8 = true := by
  have hbase : a / 8 * 8 = a := Nat.div_mul_cancel (Nat.dvd_of_mod_eq_zero ha)
  simp only [regLegal, hbase, hp, hfs, ha, decide_true, Bool.true_and, Bool.true_or, Option.isSome_some]

theorem registerWrite_legal (s : State) (a size data : Nat) (h : regLegal a size = true) :
    registerWrite s a size data = writeReg s (a / 8 * 8) (data <<< (8 * (a % 8))) (lanesOf a size) := by
  rw [registerWrite, if_pos h]

theorem registerWrite_illegal (s : State) (a size data : Nat) (h : regLegal a size = false) :
    registerWrite s a size data = emit s (srcShed 0 0x30) 0x0981 a (size % 16 + 16) := by
  rw [registerWrite, h]
  rfl

theorem registerRead_illegal (s : State) (a size : Nat) (h : regLegal a size = false) :
    registerRead s a size = (List.replicate size 0, emit s (srcShed 0 0x30) 0x0981 a (size % 16)) := by
  rw [registerRead, h]
  rfl

/-- A write of a shed's register whose domain is on. -/
theorem writeReg_shed (s : State) (a data lanes : Nat) (x : Shed) (o : Nat) (fs : List Fld) (hp : regPlace a = some (.shed x o))
    (hfs : placeSpec (.shed x o) = some fs) (hon : regOff s (.shed x o) = false) (hw : (RegPlace.shed x o).writable = true) :
    writeReg s a data lanes = writeShed s x o fs data lanes := by
  simp only [writeReg, hp, hfs, hon, hw, Bool.not_true, Bool.false_eq_true, or_self, if_false]

/-- A write of a register of the always-on island, whose domain is always on. -/
theorem writeReg_aon (s : State) (a data lanes o : Nat) (fs : List Fld) (hp : regPlace a = some (.aon o))
    (hfs : placeSpec (.aon o) = some fs) : writeReg s a data lanes = storeReg s (.aon o) fs data lanes := by
  have hw : (RegPlace.aon o).writable = true := decide_eq_true rfl
  have hon : regOff s (.aon o) = false := rfl
  simp only [writeReg, hp, hfs, hon, hw, Bool.not_true, Bool.false_eq_true, or_self, if_false]

/-- Outside FAB_FSEL a write of a shed's register only stores. -/
theorem writeShed_stores (s : State) (x : Shed) (o : Nat) (fs : List Fld) (data lanes : Nat) (h : arr o 0x30 8 4 = none) :
    writeShed s x o fs data lanes = storeReg s (.shed x o) fs data lanes := by
  rw [writeShed, h]

/-- A write that names every bit of a register leaves the data written. -/
theorem mergeWord_all (old data : Word) (a : Nat) (h : a % 8 = 0) :
    mergeWord old.toNat (data.toNat <<< (8 * (a % 8))) (lanesOf a 8) = data.toNat := by
  have hall (w : Word) : w.toNat &&& (2 ^ 64 - 1) = w.toNat := Nat.and_two_pow_sub_one_of_lt_two_pow w.isLt
  simp only [mergeWord, lanesOf, h, Nat.mul_zero, Nat.shiftLeft_zero, Nat.reduceMul, hall, Nat.sub_self, Nat.zero_add]

/-- Of the numbers below `n`, a condition that holds of one alone picks that one. -/
theorem filter_range_eq_singleton (n j : Nat) (q : Nat → Prop) [DecidablePred q] (hj : j < n) (h : ∀ k < n, q k ↔ k = j) :
    (List.range n).filter (fun k => decide (q k)) = [j] := by
  have hq : (List.range n).filter (fun k => decide (q k)) = (List.range n).filter (fun k => k == j) :=
    List.filter_congr (fun k hk => (decide_eq_decide.mpr (h k (List.mem_range.mp hk))).trans (Bool.beq_eq_decide_eq k j).symm)
  rw [hq, List.filter_beq, List.count_range, if_pos hj, List.replicate_one]

/-- A write of all of a FAB_FSEL register that changes one region's field selects that region's flow set (12 R365). -/
theorem writeShed_fsel_one (s : State) (o i : Nat) (fs : List Fld) (data lanes w j : Nat) (harr : arr o 0x30 8 4 = some i)
    (hw : mergeWord (getReg s (shedReg 0 o)).toNat data lanes = w) (hj : j < 16)
    (hone : ∀ k < 16, field w (4 * k) 4 ≠ getF s (shedReg 0 o) (4 * k) 4 ↔ k = j) :
    writeShed s 0 o fs data lanes = (flowSelect s (asRegion (16 * i + j)) (field w (4 * j) 4)).2 := by
  have hsel := filter_range_eq_singleton 16 j (fun k => field w (4 * k) 4 ≠ getF s (shedReg 0 o) (4 * k) 4) hj hone
  simp only [writeShed, harr, RegPlace.addr, hw, hsel, each, List.foldl_cons, List.foldl_nil]

/-- A shed's register in SH0 is its own keeper. -/
theorem writable_shed_zero (o : Nat) : (RegPlace.shed 0 o).writable = true := by
  refine decide_eq_true ?_
  unfold RegPlace.keep
  split <;> rfl

/-- Settles O1, by the place of the register: a shed's outside FAB_FSEL, one of the always-on island, FAB_FSEL, or none. -/
theorem registerAccessesFollowTheirPlace : Obligations.RegisterAccessesFollowTheirPlace := by
  refine ⟨?_, ?_, ?_, registerRead_illegal, size_of_regLegal⟩
  · intro s a size data p fs hon hlegal hp hfs hdom hw hstall hmanger hfsel
    rw [exec_registerWrite_on s a size data hon, registerWrite_legal s _ _ _ hlegal]
    cases p with
    | stall n o => exact absurd rfl (hstall n o)
    | manger m o => exact absurd rfl (hmanger m o)
    | shed x o => rw [writeReg_shed s _ _ _ x o fs hp hfs hdom hw, writeShed_stores s x o fs _ _ (hfsel x o rfl)]
    | aon o => rw [writeReg_aon s _ _ _ o fs hp hfs]
  · intro s a data o i fs j hon halign hp hfs hdom harr hj hone
    have hbase : a.toNat / 8 * 8 = a.toNat := Nat.div_mul_cancel (Nat.dvd_of_mod_eq_zero halign)
    rw [exec_registerWrite_on s a 8 data hon, registerWrite_legal s _ _ _ (regLegal_aligned_word _ _ fs halign hp hfs), hbase,
      writeReg_shed s _ _ _ 0 o fs hp hfs hdom (writable_shed_zero o),
      writeShed_fsel_one s o i fs _ _ _ j harr (mergeWord_all _ data _ halign) hj hone]
  · intro s a size data hon hlegal
    rw [exec_registerWrite_on s a size data hon, registerWrite_illegal s _ _ _ hlegal]

/-! ### Event records (00 R18; 13 R403) -/

theorem exec_eventRecordEntry_on (s : State) (h : poweredUp s = true) :
    exec .eventRecordEntry s = .next (ended s (eventEntry s)) :=
  finish_on s _ h

theorem exec_eventVectorDelay_on (s : State) (h : poweredUp s = true) :
    exec .eventVectorDelay s = .next (ended s (eventVectorDelay s)) :=
  finish_on s _ h

/-- Outside HUSH the oldest waiting record enters the log. -/
theorem eventEntry_oldest (s : State) (e : Event) (rest : List Event) (hlive : groomLive s = true) (hq : s.host.evq = e :: rest)
    (hp : pstate s ≠ 2) : eventEntry s = enterRecord (onHost s (fun h => { h with evq := rest })) e := by
  have hp' : pstate (onHost s (fun h => { h with evq := rest })) ≠ 2 := hp
  simp only [eventEntry, hlive, hq, if_neg hp', Bool.not_true, Bool.false_eq_true, if_false]

theorem copyToRing_without_ring (s : State) (e : Event) (h : s.host.ring = none) : copyToRing s e = s := by
  rw [copyToRing, h]

theorem host_when_setF (s : State) (c : Bool) (a lo len v : Nat) : (when c (fun s => setF s a lo len v) s).host = s.host := by
  cases c <;> rfl

/-- A record that enters gets the next seq, and a full log loses its oldest record. -/
theorem enterRecord_host (s : State) (e : Event) (h : s.host.ring = none) :
    (enterRecord s e).host = { s.host with
      log := (if logSize ≤ s.host.log.length then s.host.log.drop 1 else s.host.log)
        ++ [{ e with seq := s.host.nextSeq, lost := e.lost || s.host.logDropped }]
      nextSeq := s.host.nextSeq + 1, logDropped := false } := by
  unfold enterRecord
  rw [copyToRing_without_ring _ _ (by rw [host_when_setF]; exact h), host_when_setF]
  rfl

theorem enterRecord_log_le (s : State) (e : Event) (hring : s.host.ring = none) (hlen : s.host.log.length ≤ logSize) :
    (enterRecord s e).host.log.length ≤ logSize := by
  have hpos : 0 < logSize := by decide
  rw [enterRecord_host s e hring]
  simp only [List.length_append, List.length_singleton]
  split
  · rw [List.length_drop]; omega
  · omega

theorem eventVectorDelay_deferred (s : State) (r : RingCfg) (hr : s.host.ring = some r) (hd : s.host.deferred = true) :
    eventVectorDelay s = raiseVector (onHost s (fun h => { h with lastRaise := some s.time, deferred := false })) r.vector := by
  rw [eventVectorDelay, hr, hd]

/-! ### The EVENT commands (13 R403, R407) -/

/-- A command of a fixed argument length that is ready ends as its body leaves the slot begun. -/
theorem finish_exactly (s : State) (k : MbSlot) (code n : Nat) (body : State → MbSlot → MbSt → State)
    (h : CommandReady s k code (fun l => l == n)) :
    finish s (runCommand s k code (exactly n) body) = .next (settled s (body (mbBegin s k) k (mbOf s k))) :=
  finish_runCommand s k code (exactly n) body h

theorem eventRing_clears (s : State) (k : MbSlot) (m : MbSt) (h : mbArg m 4 4 = 0) :
    eventRing s k m = mbOk (onHost s (fun h => { h with ring := none, deferred := false })) k [] := by
  simp only [eventRing, h, if_true]

theorem eventRing_badLength (s : State) (k : MbSlot) (m : MbSt) (h : mbArg m 4 4 ≠ 0) (hl : ringLength (mbArg m 4 4) = false) :
    eventRing s k m = mbIllegal s k 4 := by
  simp only [eventRing, h, hl, if_false, Bool.not_false, if_true]

theorem eventRing_sets (s : State) (k : MbSlot) (m : MbSt) (h : mbArg m 4 4 ≠ 0) (hl : ringLength (mbArg m 4 4) = true)
    (hv : ringValid s (mbArg m 0 4) (mbArg m 4 4) = true) (hvec : mbArg m 8 1 < 63) :
    eventRing s k m = mbOk (onHost s (fun h => { h with
      ring := some { entry := mbArg m 0 4, records := mbArg m 4 4, vector := mbArg m 8 1 } })) k [] := by
  simp only [eventRing, h, hl, hv, Nat.not_le.mpr hvec, if_false, Bool.not_true, Bool.false_eq_true]

theorem eventRead_records (s : State) (k : MbSlot) (m : MbSt) (h1 : 1 ≤ mbArg m 4 1) (h2 : mbArg m 4 1 ≤ 125) :
    eventRead s k m = mbOk s k (((logFrom s (mbArg m 0 4)).take (mbArg m 4 1)).map (fun e => (32, ofBytes (eventBytes e)))) := by
  rw [eventRead, if_neg (by omega)]

theorem eventRead_none (s : State) (k : MbSlot) (m : MbSt) (h : mbArg m 4 1 = 0) : eventRead s k m = mbIllegal s k 4 := by
  rw [eventRead, if_pos (Or.inl h)]

theorem exec_eventRing_ready (s : State) (k : MbSlot) (h : CommandReady s k 0x0D01 (fun l => l == 9)) :
    exec (.eventRing k) s = .next (settled s (eventRing (mbBegin s k) k (mbOf s k))) :=
  finish_exactly s k _ 9 eventRing h

theorem exec_eventRead_ready (s : State) (k : MbSlot) (h : CommandReady s k 0x0D02 (fun l => l == 5)) :
    exec (.eventRead k) s = .next (settled s (eventRead (mbBegin s k) k (mbOf s k))) :=
  finish_exactly s k _ 5 eventRead h

theorem exec_eventFilter_ready (s : State) (k : MbSlot) (h : CommandReady s k 0x0D03 (fun l => l == 1)) :
    exec (.eventFilter k) s = .next (settled s
      (mbOk (onHost (mbBegin s k) (fun h => { h with filter := BitVec.ofNat 8 (mbArg (mbOf s k) 0 1) })) k [])) :=
  finish_exactly s k _ 1 _ h

/-- Settles O36: the record at the head of the queue enters, the deferred vector is raised, and each EVENT command ends by the
checks of its arguments. -/
theorem eventCommandsComplete : Obligations.EventCommandsComplete := by
  refine ⟨⟨?_, ?_, ?_⟩, fun s k => ⟨fun hready => ⟨?_, ?_, ?_⟩, fun hready => ⟨?_, ?_⟩, exec_eventFilter_ready s k⟩⟩
  · intro s e rest hon hlive hq hp
    rw [exec_eventRecordEntry_on s hon, eventEntry_oldest s e rest hlive hq hp]
  · intro s e hring
    exact ⟨by rw [enterRecord_host s e hring], by rw [enterRecord_host s e hring], enterRecord_log_le s e hring⟩
  · intro s r hon hr hd
    rw [exec_eventVectorDelay_on s hon, eventVectorDelay_deferred s r hr hd]
  · intro h
    rw [exec_eventRing_ready s k hready, eventRing_clears _ _ _ h]
  · intro h hl
    rw [exec_eventRing_ready s k hready, eventRing_badLength _ _ _ h hl]
  · intro h hl hv hvec
    rw [exec_eventRing_ready s k hready, eventRing_sets _ _ _ h hl hv hvec]
  · intro h1 h2
    rw [exec_eventRead_ready s k hready, eventRead_records _ _ _ h1 h2]
  · intro h
    rw [exec_eventRead_ready s k hready, eventRead_none _ _ _ h]

/-! ### Reset (00 R9, 15 R454) -/

theorem mfind_eq_none_of_keys {α : Type} (m : Map α) (k : Nat) (h : ∀ e ∈ m, e.1 ≠ k) : mfind m k = none := by
  induction m with
  | nil => rfl
  | cons e t ih =>
    rw [mfind, if_neg (h e List.mem_cons_self)]
    exact ih (fun x hx => h x (List.mem_cons_of_mem e hx))

/-- Outside the supplied programs a register holds its reset value. -/
theorem getReg_reset (a : Nat) (h : ∀ e ∈ suppliedPrograms, e.1 ≠ a) : getReg State.reset a = resetOf a := by
  have hnone : mfind State.reset.regs a = none := mfind_eq_none_of_keys suppliedPrograms a h
  rw [getReg, mget, hnone, Option.getD_none]

theorem suppliedPrograms_in_mangers : ∀ e ∈ suppliedPrograms, mangerReg 0 0 ≤ e.1 ∧ e.1 < shedReg 0 0 := by decide +kernel

/-- The registers from the sheds on are none of the supplied programs'. -/
theorem getReg_reset_from_sheds (a : Nat) (h : shedReg 0 0 ≤ a) : getReg State.reset a = resetOf a :=
  getReg_reset a (fun e he => by have := suppliedPrograms_in_mangers e he; omega)

/-- At reset PWR_STATE shows RUN. -/
theorem pstate_reset : pstate State.reset = 0 := by
  rw [pstate, getF, getReg_reset_from_sheds _ (by decide)]
  decide

theorem poweredUp_reset : poweredUp State.reset = true := by
  have h : getF State.reset (aonReg 0x000) 0 3 = 0 := pstate_reset
  rw [poweredUp, h]
  rfl

/-- At reset neither the secrets are cleared nor is the identity ready. -/
theorem secrets_reset : secretsCleared State.reset = false ∧ idReady State.reset = false := by
  rw [secretsCleared, idReady, getF, getF, getReg_reset_from_sheds _ (by decide)]
  decide

/-- Settles O60: the parts of the reset state stand as it is written, its registers by the keys of the supplied programs. -/
theorem resetLeaves : Obligations.ResetLeaves := by
  obtain ⟨hsecrets, hid⟩ := secrets_reset
  have hqueue : QueueBounded State.reset := Nat.zero_le 4096
  exact ⟨⟨rfl, rfl, rfl, rfl, poweredUp_reset, pstate_reset, hsecrets, hid, fun _ _ _ => rfl⟩,
    getReg_reset, hqueue, reset_mem_wf, rfl⟩

end Sys2Proof.Machine
end

section
/-! SUPPORT. The statements of the manual's organisation: the map of positions (01 R33), accesses to memory (01 R28, R36), the DEVICE
and CONTEXT commands (13 R407), and what the commands that store nothing leave alone. -/

namespace Sys2Proof.Machine

/-! ### The map of positions (01 R33, R34) -/

/-- A stall in service is not its row's column that carries no position. -/
theorem outColumn_ne_of_inService (s : State) (st : Stall) (h : stallState s st = .inService) :
    (outColumn s (stallRow st)).val ≠ stallCol st := by
  intro hout
  unfold stallState at h
  split at h
  · cases h
  · split at h
    · cases h
    · cases h

theorem stallRow_mkStall (row : Fin 4) (col : Fin 8) : stallRow (mkStall row col) = row := by
  refine Fin.ext ?_
  simp only [stallRow, mkStall]
  omega

theorem stallCol_mkStall (row : Fin 4) (col : Fin 8) : stallCol (mkStall row col) = col.val := by
  simp only [stallCol, mkStall]
  omega

/-- A stall is given by its row and its column. -/
theorem eq_mkStall_iff (st : Stall) (row : Fin 4) (col : Fin 8) :
    mkStall row col = st ↔ stallRow st = row ∧ stallCol st = col.val := by
  constructor
  · rintro rfl
    exact ⟨stallRow_mkStall row col, stallCol_mkStall row col⟩
  · rintro ⟨rfl, hcol⟩
    refine Fin.ext ?_
    simp only [mkStall, stallRow, stallCol] at hcol ⊢
    omega

/-- The column of a row that carries its position `c`, counted over the columns without `o`. -/
def carryColumn (o c : Nat) : Nat := if c < o then c else c + 1

/-- A position is looked for in its row, in the column counted without the one left out. -/
theorem lpStall_eq_mkStall (s : State) (p : Nat) (h : p < 28) :
    ∃ col : Fin 8, col.val = carryColumn (outColumn s ⟨p / 7, by omega⟩).val (p % 7)
      ∧ lpStall s p = if stallState s (mkStall ⟨p / 7, by omega⟩ col) = .inService then some (mkStall ⟨p / 7, by omega⟩ col) else none :=
  ⟨if p % 7 < (outColumn s ⟨p / 7, by omega⟩).val then ⟨p % 7, by omega⟩ else ⟨p % 7 + 1, by omega⟩,
    by rw [carryColumn]; split <;> rfl, by rw [lpStall, dif_pos h]⟩

/-- Which stall carries a position: the one of its row, in service, in the column counted without the one left out. -/
theorem lpStall_eq_some_iff (s : State) (p : Nat) (st : Stall) :
    lpStall s p = some st ↔ p < 28 ∧ (stallRow st).val = p / 7 ∧ stallState s st = .inService
      ∧ stallCol st = carryColumn (outColumn s (stallRow st)).val (p % 7) := by
  by_cases hp : p < 28
  · obtain ⟨col, hcol, hlp⟩ := lpStall_eq_mkStall s p hp
    rw [hlp, Option.ite_none_right_eq_some, Option.some.injEq]
    constructor
    · rintro ⟨hin, rfl⟩
      rw [stallRow_mkStall, stallCol_mkStall]
      exact ⟨hp, rfl, hin, hcol⟩
    · rintro ⟨_, hr, hin, hc⟩
      have hr' : stallRow st = ⟨p / 7, by omega⟩ := Fin.ext hr
      have hst := (eq_mkStall_iff st _ col).mpr ⟨hr', by rw [hc, hcol, hr']⟩
      exact ⟨by rw [hst]; exact hin, hst⟩
  · have hlp : lpStall s p = none := dif_neg hp
    simp only [hlp, reduceCtorEq, hp, false_and]

/-- Which position a stall in service carries. -/
theorem stallLp_eq_some_iff (s : State) (st : Stall) (p : Nat) :
    stallLp s st = some p ↔ stallState s st = .inService ∧ p = (stallRow st).val * 7
      + (if stallCol st < (outColumn s (stallRow st)).val then stallCol st else stallCol st - 1) := by
  unfold stallLp
  split
  · rename_i hin
    have hne := outColumn_ne_of_inService s st hin
    rw [if_neg (by omega), Option.some.injEq, eq_comm]
    exact (and_iff_right hin).symm
  · rename_i hin
    simp only [reduceCtorEq, hin, false_and]

/-- Settles O3: of a stall in service, row and column tell the position, and the position row and column. -/
theorem positionsFollowMap : Obligations.PositionsFollowMap := by
  intro s p st
  refine ⟨?_, (lpStall_eq_some_iff s p st).mp⟩
  rw [lpStall_eq_some_iff, stallLp_eq_some_iff]
  have hrow := (stallRow st).isLt
  have hcol : stallCol st < 8 := Nat.mod_lt _ (by decide)
  constructor
  · rintro ⟨hp, hr, hin, hc⟩
    refine ⟨hin, ?_⟩
    unfold carryColumn at hc
    split at hc <;> split <;> omega
  · rintro ⟨hin, hp⟩
    have hne := outColumn_ne_of_inService s st hin
    have hout := (outColumn s (stallRow st)).isLt
    unfold carryColumn
    split at hp <;> refine ⟨by omega, by omega, hin, ?_⟩ <;> split <;> omega

/-! ### Memory accesses (01 R36; 10 R296, R306) -/

theorem exec_memoryAccess_on (s : State) (x : Access) (h : poweredUp s = true) :
    exec (.memoryAccess x) s = .next (ended s (memoryAccess s x)) :=
  finish_on s _ h

/-- An access that must wait is held. -/
theorem memoryAccess_waits (s : State) (x : Access) (ha : x.addr.toNat < regSpace)
    (hw : rangeWaits s x.addr.toNat (if x.write then x.data.length else x.size) = true) :
    memoryAccess s x = onHomes s (fun h => { h with held := h.held ++ [x] }) := by
  simp only [memoryAccess, if_neg (Nat.not_le.mpr ha), hw, if_true]

/-- A read that is admitted, of lines without an error, gives their bytes and their poison. -/
theorem memoryAccess_read_admitted (s : State) (x : Access) (ha : x.addr.toNat < regSpace) (hr : x.write = false)
    (hw : rangeWaits s x.addr.toNat x.size = false) (hc : rangeCode s x.addr.toNat x.size = 0) (hcorr : x.corr = [])
    (hbad : x.bad = []) :
    memoryAccess s x = answerRead (readPoison (touchRange s x.addr.toNat x.size) x) x 0
      (poisonRange (readPoison (touchRange s x.addr.toNat x.size) x) x.addr.toNat x.size)
      (readRange (readPoison (touchRange s x.addr.toNat x.size) x) x.addr.toNat x.size) := by
  have herr : readErrors s x = s := by simp only [readErrors, hcorr, hbad, List.filter_nil, each, List.foldl_nil]
  simp only [memoryAccess, if_neg (Nat.not_le.mpr ha), hr, hw, hc, herr, Bool.false_eq_true, if_false, ne_eq, not_true_eq_false]

/-- A read that is refused gives the first refusal's status with its event. -/
theorem memoryAccess_read_refused (s : State) (x : Access) (ha : x.addr.toNat < regSpace) (hr : x.write = false)
    (hw : rangeWaits s x.addr.toNat x.size = false) (hc : rangeCode s x.addr.toNat x.size ≠ 0) :
    memoryAccess s x = answerRead (refuseEvent s x.agent (refusedAt s x.addr.toNat x.size) (rangeCode s x.addr.toNat x.size)) x
      (rangeCode s x.addr.toNat x.size) false [] := by
  simp only [memoryAccess, if_neg (Nat.not_le.mpr ha), hr, hw, Bool.false_eq_true, if_false, if_pos hc]

/-- A write that need not wait, to names that do not move, lands. -/
theorem memoryAccess_write (s : State) (x : Access) (ha : x.addr.toNat < regSpace) (hx : x.write = true)
    (hw : rangeWaits s x.addr.toNat x.data.length = false)
    (hm : ∀ q ∈ pieces x.addr.toNat x.data.length, nameMoving s q.1 = false) :
    memoryAccess s x = landWrite s x := by
  have hfind : (pieces x.addr.toNat x.data.length).find? (fun q => nameMoving s q.1) = none :=
    List.find?_eq_none.mpr (fun q hq => by rw [hm q hq]; exact Bool.false_ne_true)
  simp only [memoryAccess, if_neg (Nat.not_le.mpr ha), hx, hw, if_true, Bool.false_eq_true, if_false, holdOrLand, hfind]

/-- A write of an agent of the module that is admitted is performed, its signal applied after it. -/
theorem landWrite_admitted (s : State) (x : Access) (hc : writeRangeCode s x.agent x.addr.toNat x.data.length = 0)
    (hown : ∀ m t, x.agent ≠ .remote m t) :
    landWrite s x = answerWrite (match x.sref with
      | some r => applySignal (writeRange (countRmw s x.addr.toNat x.data.length) x.addr.toNat x.data x.poison) x.agent r
      | none => writeRange (countRmw s x.addr.toNat x.data.length) x.addr.toNat x.data x.poison) x 0 := by
  unfold landWrite
  rw [if_pos hc]
  split
  · rename_i m t hagent; exact absurd hagent (hown m t)
  · rfl

/-- A write that is refused stores nothing, and its sender hears the status. -/
theorem landWrite_refused (s : State) (x : Access) (hc : writeRangeCode s x.agent x.addr.toNat x.data.length ≠ 0) :
    landWrite s x = answerWrite (refuseEvent s x.agent (writeRefusedAt s x.agent x.addr.toNat x.data.length)
      (writeRangeCode s x.agent x.addr.toNat x.data.length)) x (writeRangeCode s x.agent x.addr.toNat x.data.length) := by
  unfold landWrite
  rw [if_neg hc]

/-- Settles O20, by whether the access waits, reads or writes, and whether it is admitted. -/
theorem memoryAccessesComplete : Obligations.MemoryAccessesComplete := by
  refine ⟨?_, ?_, ?_⟩
  · intro s x hon ha hr hw
    rw [exec_memoryAccess_on s x hon]
    refine ⟨fun hc hcorr hbad => ?_, fun hc => ?_⟩
    · rw [memoryAccess_read_admitted s x ha hr hw hc hcorr hbad]
    · rw [memoryAccess_read_refused s x ha hr hw hc]
  · intro s x hon ha hx hw hm
    rw [exec_memoryAccess_on s x hon, memoryAccess_write s x ha hx hw hm]
    refine ⟨fun hc hown => ?_, fun hc => ?_⟩
    · exact congrArg (fun u => Host.Outcome.next (ended s u)) (landWrite_admitted s x hc hown)
    · rw [landWrite_refused s x hc]
  · intro s x hon ha hw
    rw [exec_memoryAccess_on s x hon, memoryAccess_waits s x ha hw]

/-! ### A write within a line of a stall's SRAM (01 R28; 09 R281) -/

/-- Bytes within one line are one piece. -/
theorem pieces_within_line (a n : Nat) (h0 : n ≠ 0) (h : a % 64 + n ≤ 64) : pieces a n = [(a, n)] := by
  have hmin : min n (64 - a % 64) = n := Nat.min_eq_left (by omega)
  have hrest : piecesFrom (n / 64 + 1) (a + n) 0 = [] := if_pos rfl
  rw [pieces, piecesFrom, if_neg h0]
  simp only [hmin, Nat.sub_self, hrest]

/-- Bytes within one line lie in one segment. -/
theorem segsOf_within_line (a n : Nat) (h0 : n ≠ 0) (h : a % 64 + n ≤ 64) : segsOf a n = [a] := by
  have hseg : (a + n - 1) / segSize - a / segSize + 1 = 1 := by
    unfold segSize; omega
  rw [segsOf, if_neg h0, hseg]
  rfl

/-- Above the names only the SRAM windows hold storage. -/
theorem lt_sramEnd_of_locate_mem (s : State) (a p m t n : Nat) (hbase : 0xF00000000000 ≤ a) (h : locate s a = .mem p m t n) :
    a < 0xF02000000000 := by
  refine Nat.lt_of_not_le (fun hend => ?_)
  unfold locate at h
  rw [if_neg (Nat.not_lt.mpr (Nat.le_trans (by decide) hbase)), dif_neg (fun hsram => Nat.not_lt.mpr hend hsram.2)] at h
  split at h
  · dsimp only at h
    split at h <;> cases h
  · split at h <;> cases h

section
variable {s : State} {a : Nat}

theorem touchAt_tier0 {p m n : Nat} (hloc : locate s a = .mem p m 0 n) : touchAt s a = s := by
  rw [touchAt, hloc]
  exact if_pos rfl

theorem nameMoving_tier0 {p m n : Nat} (hloc : locate s a = .mem p m 0 n) : nameMoving s a = false := by
  rw [nameMoving, hloc]
  rfl

theorem writeCode_tier0 {p m n : Nat} (who : Agent) (hloc : locate s a = .mem p m 0 n) : writeCode s who a = 0 := by
  rw [writeCode, hloc]
  rfl

theorem countRmw_tier0 {p m n : Nat} (k : Nat) (hloc : locate s a = .mem p m 0 n) : countRmw s a k = s := by
  unfold countRmw
  rw [hloc]
  rfl

theorem ifaceAt_tier0 {p m n : Nat} (hloc : locate s a = .mem p m 0 n) : ifaceAt s a = none := by
  rw [ifaceAt, hloc]
  dsimp only
  split <;> rfl

theorem pieceWaits_sram {p m n : Nat} (ha : 0xF00000000000 ≤ a) (hloc : locate s a = .mem p m 0 n) : pieceWaits s a = false := by
  have hname : decide (a < 0x400000000000) = false := decide_eq_false (by omega)
  rw [pieceWaits, ifaceAt_tier0 hloc, hname]
  rfl

end

/-- The poison marks after a write (09 R281). -/
def marksAfter (marks : Map Unit) (line n : Nat) (poison : Bool) : Map Unit :=
  if poison then mput marks line () else if n = 64 then mdel marks line else marks

theorem markAfter_eq (s : State) (mark n : Nat) (poison : Bool) :
    markAfter s mark n poison = { s with poison := marksAfter s.poison (mark / 64) n poison } := by
  unfold markAfter marksAfter
  split
  · rfl
  · split <;> rfl

theorem mfind_marksAfter_other (marks : Map Unit) (line n l : Nat) (poison : Bool) (h : l ≠ line) :
    mfind (marksAfter marks line n poison) l = mfind marks l := by
  unfold marksAfter
  split
  · exact mfind_mput_other marks line l () h
  · split
    · exact mfind_mdel_other marks line l h
    · rfl

theorem isSome_mfind_marksAfter (marks : Map Unit) (line n : Nat) : (mfind (marksAfter marks line n true) line).isSome = true := by
  rw [marksAfter, if_pos rfl, mfind_mput_same]
  rfl

/-- What a write within a line of SRAM leaves: its bytes, the line's poison mark, and no tag of the line. -/
def sramStored (s : State) (a : Nat) (d : List Byte) (poison : Bool) : State :=
  { s with mem := memWrite s.mem a d, poison := marksAfter s.poison (a / 64) d.length poison, tags := mdel s.tags (a / 64) }

section
variable {s : State} {a : Nat} {d : List Byte}

theorem writePiece_sram (poison : Bool) (hloc : locate s a = .mem a a 0 0) (hmat : runningMat s a = none) :
    writePiece s a d poison = sramStored s a d poison := by
  rw [writePiece, hloc]
  dsimp only
  rw [hmat, markAfter_eq]
  rfl

theorem writeRange_sram (poison : Bool) (h0 : d ≠ []) (h : a % 64 + d.length ≤ 64) (hloc : locate s a = .mem a a 0 0)
    (hmat : runningMat s a = none) : writeRange s a d poison = sramStored s a d poison := by
  have hlen : d.length ≠ 0 := fun he => h0 (List.length_eq_zero_iff.mp he)
  have htouch : touchRange s a d.length = s := by
    rw [touchRange, segsOf_within_line a _ hlen h, each, List.foldl_cons, List.foldl_nil, touchAt_tier0 hloc]
  rw [writeRange, htouch, pieces_within_line a _ hlen h, writePieces, writePieces, List.take_length,
    writePiece_sram poison hloc hmat]

theorem writeRangeCode_sram (who : Agent) (h0 : d ≠ []) (h : a % 64 + d.length ≤ 64) (hloc : locate s a = .mem a a 0 0) :
    writeRangeCode s who a d.length = 0 := by
  have hlen : d.length ≠ 0 := fun he => h0 (List.length_eq_zero_iff.mp he)
  rw [writeRangeCode, pieces_within_line a _ hlen h, List.map_singleton, writeCode_tier0 who hloc]
  rfl

end

/-- A state with other messages on their way out. -/
def withOutbox (s : State) (out : List Out) : State := { s with outbox := out }

/-- The reply to a write of an agent of the module is all that telling it changes. -/
theorem answerWrite_own (s : State) (x : Access) (code : Nat) (hown : ∀ m t, x.agent ≠ .remote m t) :
    ∃ out, answerWrite s x code = withOutbox s out := by
  unfold answerWrite
  cases hagent : x.agent with
  | remote m t => exact absurd hagent (hown m t)
  | host => exact ⟨s.outbox, rfl⟩
  | _ => exact ⟨_, rfl⟩

/-- Settles O22: the access is one piece in storage of tier 0, so that it lands as its bytes and the marks of its line alone. -/
theorem sramWriteLandsWhereAddressed : Obligations.SramWriteLandsWhereAddressed := by
  intro s x hon hx hsref h0 hsram hline hown hloc hmat
  have hlen : x.data.length ≠ 0 := fun he => h0 (List.length_eq_zero_iff.mp he)
  have hpieces := pieces_within_line _ _ hlen hline
  have hreg : x.addr.toNat < regSpace := by
    have := lt_sramEnd_of_locate_mem s _ _ _ _ _ hsram hloc
    unfold regSpace; omega
  have hwait : rangeWaits s x.addr.toNat x.data.length = false := by
    rw [rangeWaits, hpieces, List.any_cons, List.any_nil, pieceWaits_sram hsram hloc]
    rfl
  have hmoving : ∀ q ∈ pieces x.addr.toNat x.data.length, nameMoving s q.1 = false := by
    rw [hpieces]
    intro q hq
    rw [List.mem_singleton.mp hq]
    exact nameMoving_tier0 hloc
  obtain ⟨out, hanswer⟩ := answerWrite_own (sramStored s x.addr.toNat x.data x.poison) x 0 hown
  have hlands : memoryAccess s x = withOutbox (sramStored s x.addr.toNat x.data x.poison) out := by
    rw [memoryAccess_write s x hreg hx hwait hmoving,
      landWrite_admitted s x (writeRangeCode_sram x.agent h0 hline hloc) hown, hsref, countRmw_tier0 _ hloc,
      writeRange_sram x.poison h0 hline hloc hmat, ← hanswer]
  refine ⟨_, exec_memoryAccess_on s x hon, ?_⟩
  rw [hlands]
  simp only [readByte_ended, ended_poison, ended_tags, ended_regs, ended_yard, ended_seqs, ended_claimers, ended_stats, ended_upd,
    ended_barrows, ended_homes, ended_sync, ended_fab, ended_groom, ended_power, ended_svc, ended_sec]
  refine ⟨fun i hi => readByte_putBytes_inside s _ i x.data hi, fun q hq => readByte_putBytes_outside s _ q x.data hq,
    fun l hl => ⟨mfind_marksAfter_other _ _ _ l _ hl, mfind_mdel_other _ _ l hl⟩, fun hp => ?_,
    rfl, rfl, rfl, rfl, rfl, rfl, rfl, rfl, rfl, rfl, rfl, rfl, rfl, rfl⟩
  rw [withOutbox, sramStored, hp]
  exact isSome_mfind_marksAfter _ _ x.data.length

/-! ### The DEVICE commands (13 R407) -/

theorem exec_distance_ready (s : State) (k : MbSlot) (h : CommandReady s k 0x0103 (fun l => l == 1)) :
    exec (.distance k) s = .next (settled s (distance (mbBegin s k) k (mbOf s k))) :=
  finish_exactly s k _ 1 distance h

theorem distance_position (s : State) (k : MbSlot) (m : MbSt) (h : mbArg m 0 1 < 28) :
    distance s k m = mbOk s k [(1, 1), (64, distanceRecord s (mbArg m 0 1))] := by
  have hall : mbArg m 0 1 ≠ 0xFF := by omega
  simp only [distance, if_neg hall, if_pos h]

theorem distance_all (s : State) (k : MbSlot) (m : MbSt) (h : mbArg m 0 1 = 0xFF) :
    distance s k m = mbOk s k ((1, 28) :: (List.range 28).map (fun p => (64, distanceRecord s p))) := by
  simp only [distance, if_pos h]

theorem distance_illegal (s : State) (k : MbSlot) (m : MbSt) (h : 28 ≤ mbArg m 0 1) (hall : mbArg m 0 1 ≠ 0xFF) :
    distance s k m = mbIllegal s k 0 := by
  simp only [distance, if_neg hall, if_neg (Nat.not_lt.mpr h)]

theorem regRead_answers (s : State) (k : MbSlot) (m : MbSt) (h1 : 1 ≤ mbArg m 8 4) (h32 : mbArg m 8 4 ≤ 32)
    (hlo : regSpace ≤ mbArg m 0 8) (hhi : mbArg m 0 8 + 8 * mbArg m 8 4 ≤ 2 ^ 48)
    (hon : ∀ i < mbArg m 8 4, addrOff s (mbArg m 0 8 + 8 * i) = false) :
    regRead s k m = mbOk (readWords s (mbArg m 0 8) (mbArg m 8 4)).2 k (readWords s (mbArg m 0 8) (mbArg m 8 4)).1 := by
  have hoff : ¬ (List.range (mbArg m 8 4)).any (fun i => addrOff s (mbArg m 0 8 + 8 * i)) = true := by
    rw [List.any_eq_true]
    rintro ⟨i, hi, hoff⟩
    exact Bool.noConfusion ((hon i (List.mem_range.mp hi)).symm.trans hoff)
  unfold regRead
  rw [if_neg (by omega), if_neg (by omega), if_neg hoff]

theorem regWrite_writes (s : State) (k : MbSlot) (m : MbSt) (hlo : regSpace ≤ mbArg m 0 8) (hhi : mbArg m 0 8 + 8 ≤ 2 ^ 48)
    (hon : addrOff s (mbArg m 0 8) = false) (hlegal : regLegal (mbArg m 0 8) 8 = true) :
    regWrite s k m = mbOk (writeReg (handRecord s (srcGroom s)) (mbArg m 0 8) (mbArg m 8 8) (mbArg m 16 8)) k
      [(8, readReg s (mbArg m 0 8))] := by
  unfold regWrite
  rw [if_neg (by omega), if_neg (by rw [hon]; exact Bool.false_ne_true), if_pos hlegal]

/-! ### The CONTEXT commands (03 R90; 06 R204; 13 R407) -/

theorem exec_imageLoad_ready (s : State) (k : MbSlot) (h : CommandReady s k 0x0201 (fun l => l == 16)) :
    exec (.imageLoad k) s = .next (settled s (imageLoad (mbBegin s k) k (mbOf s k))) :=
  finish_exactly s k _ 16 imageLoad h

theorem exec_imageOpen_ready (s : State) (k : MbSlot) (h : CommandReady s k 0x0202 (fun l => l == 2)) :
    exec (.imageOpen k) s = .next (settled s (imageOpen (mbBegin s k) k (mbOf s k))) :=
  finish_exactly s k _ 2 imageOpen h

theorem exec_seqStart_ready (s : State) (k : MbSlot) (h : CommandReady s k 0x0203 (fun l => l == 32)) :
    exec (.seqStart k) s = .next (settled s (seqStart (mbBegin s k) k (mbOf s k))) :=
  finish_exactly s k _ 32 seqStart h

theorem exec_seqStop_ready (s : State) (k : MbSlot) (h : CommandReady s k 0x0204 (fun l => l == 1)) :
    exec (.seqStop k) s = .next (settled s (seqStopCommand (mbBegin s k) k (mbOf s k))) :=
  finish_exactly s k _ 1 seqStopCommand h

theorem imageLoad_loads (s : State) (k : MbSlot) (m : MbSt) (hr : mbArg m 0 1 < 64) (hc : mbArg m 1 1 < 4) (hf : mbArg m 2 1 < 8)
    (hmask : mbArg m 4 4 < 2 ^ 28) (hsrc : mbArg m 8 8 < 2 ^ 48) :
    imageLoad s k m
      = mbOk (loadPositions s (mbArg m 0 1) (mbArg m 1 1) (mbArg m 2 1) (mbArg m 8 8) (mbArg m 4 4) (List.range 28)).2 k
          (loadPositions s (mbArg m 0 1) (mbArg m 1 1) (mbArg m 2 1) (mbArg m 8 8) (mbArg m 4 4) (List.range 28)).1 := by
  simp only [imageLoad, if_neg (Nat.not_le.mpr hr), if_neg (Nat.not_le.mpr hc), if_neg (Nat.not_le.mpr hf),
    if_neg (Nat.not_le.mpr hmask), if_neg (Nat.not_le.mpr hsrc)]

theorem imageOpen_opens (s : State) (k : MbSlot) (m : MbSt) (c : Slot) (hr : mbArg m 0 1 < 64) (hc : mbArg m 1 1 = c.val) :
    imageOpen s k m = mbOk (each (regionStalls s (asRegion (mbArg m 0 1)))
      (fun s st => laneOpen s st (asRegion (mbArg m 0 1)) c) s) k [] := by
  simp only [imageOpen, if_neg (Nat.not_le.mpr hr), hc, dif_pos c.isLt]

theorem seqStart_starts (s : State) (k : MbSlot) (m : MbSt) (st : Stall) (hr : mbArg m 0 1 < 64)
    (hhome : regionHome s (asRegion (mbArg m 0 1)) = some st) (hon : coreOn s st = true)
    (hidle : seqLive (seqOf s (asRegion (mbArg m 0 1))) = false) :
    seqStart s k m = mbOk (seqCtlWrite
      (writeReg s (stallReg st (0xA00 + 8 * (asRegion (mbArg m 0 1)).val)) (mbArg m 8 6 + mbArg m 16 2 <<< 48) (2 ^ 64 - 1)) st
      (asRegion (mbArg m 0 1)) ((mbArg m 24 8 &&& 0x1F78) + 2 + mbArg m 18 2 <<< 16)) k [] := by
  simp only [seqStart, if_neg (Nat.not_le.mpr hr), hhome, hon, hidle, Bool.not_true, Bool.false_eq_true, if_false]

theorem seqStopCommand_stops (s : State) (k : MbSlot) (m : MbSt) (hr : mbArg m 0 1 < 64) :
    seqStopCommand s k m = mbOk (seqStopReq s (asRegion (mbArg m 0 1))) k [(2, seqEntry s (asRegion (mbArg m 0 1)))] := by
  simp only [seqStopCommand, if_neg (Nat.not_le.mpr hr)]

/-! ### One position loaded, a sequencer started and stopped -/

theorem loadPositions_cons_unnamed (s : State) (r c flags src mask q : Nat) (t : List Nat) (h : bitOf mask q = false) :
    loadPositions s r c flags src mask (q :: t)
      = ((2, 0) :: (loadPositions s r c flags src mask t).1, (loadPositions s r c flags src mask t).2) := by
  rw [loadPositions, h]
  rfl

theorem loadPositions_cons_named (s : State) (r c flags src mask q : Nat) (t : List Nat) (h : bitOf mask q = true) :
    loadPositions s r c flags src mask (q :: t)
      = ((2, (loadPosition s r c flags src q).1) :: (loadPositions (loadPosition s r c flags src q).2 r c flags src mask t).1,
         (loadPositions (loadPosition s r c flags src q).2 r c flags src mask t).2) := by
  rw [loadPositions, h]
  rfl

/-- Positions that the mask does not name are left as they are. -/
theorem loadPositions_unnamed (s : State) (r c flags src mask : Nat) (ps : List Nat) (h : ∀ q ∈ ps, bitOf mask q = false) :
    loadPositions s r c flags src mask ps = (ps.map (fun _ => (2, 0)), s) := by
  induction ps with
  | nil => rfl
  | cons q t ih =>
    rw [loadPositions_cons_unnamed _ _ _ _ _ _ _ _ (h q List.mem_cons_self), ih (fun x hx => h x (List.mem_cons_of_mem q hx)),
      List.map_cons]

/-- A mask that names one position of a list loads that one. -/
theorem loadPositions_one (s : State) (r c flags src mask p : Nat) (ps : List Nat) (hmask : ∀ q, bitOf mask q = true ↔ q = p)
    (hnodup : ps.Nodup) (hp : p ∈ ps) :
    loadPositions s r c flags src mask ps
      = (ps.map (fun q => (2, if q = p then (loadPosition s r c flags src p).1 else 0)), (loadPosition s r c flags src p).2) := by
  have hunnamed (q : Nat) (hq : q ≠ p) : bitOf mask q = false := Bool.eq_false_iff.mpr (fun h => hq ((hmask q).mp h))
  induction ps with
  | nil => exact absurd hp List.not_mem_nil
  | cons q t ih =>
    obtain ⟨hqt, ht⟩ := List.nodup_cons.mp hnodup
    by_cases hq : q = p
    · subst hq
      have hrest (x : Nat) (hx : x ∈ t) : x ≠ q := fun he => hqt (he ▸ hx)
      have hzeros : t.map (fun x => (2, if x = q then (loadPosition s r c flags src q).1 else 0)) = t.map (fun _ => (2, 0)) :=
        List.map_congr_left (fun x hx => by rw [if_neg (hrest x hx)])
      rw [loadPositions_cons_named _ _ _ _ _ _ _ _ ((hmask q).mpr rfl),
        loadPositions_unnamed _ r c flags src mask t (fun x hx => hunnamed x (hrest x hx)),
        List.map_cons, if_pos rfl, hzeros]
    · have hpt : p ∈ t := (List.mem_cons.mp hp).resolve_left (fun he => hq he.symm)
      rw [loadPositions_cons_unnamed _ _ _ _ _ _ _ _ (hunnamed q hq), ih ht hpt, List.map_cons, if_neg hq]

theorem bitOf_two_pow (p q : Nat) : bitOf (2 ^ p) q = true ↔ q = p := by
  have hbit : bitOf (2 ^ p) q = (2 ^ p).testBit q := by
    rw [bitOf, field, Nat.pow_one, Nat.testBit_eq_decide_div_mod_eq, Nat.shiftRight_eq_div_pow]
  rw [hbit, Nat.testBit_two_pow, decide_eq_true_eq, eq_comm]

/-- A position is loaded by the loader of the stall that carries it. -/
theorem loadPosition_carried (s : State) (r c flags src p : Nat) (st : Stall) (hst : lpStall s p = some st)
    (hon : coreOn s st = true) (hf : flags < 8) :
    loadPosition s r c flags src p
      = (getF (seqsFill (ctxLoadWrite (setF s (stallReg st 0x410) 0 48 src) st (r + c <<< 8 + flags <<< 12 + 2 ^ 16))) (ctxReg st) 32 16,
         seqsFill (ctxLoadWrite (setF s (stallReg st 0x410) 0 48 src) st (r + c <<< 8 + flags <<< 12 + 2 ^ 16))) := by
  simp only [loadPosition, hst, hon, Bool.not_true, Bool.false_eq_true, if_false, Nat.mod_eq_of_lt hf]

/-- A sequencer that is started, and not stopped, by the same write begins a step at the entry that it names. -/
theorem seqCtlWrite_starts (s : State) (st : Stall) (r : Region) (w : Nat) (hhome : regionHome s r = some st)
    (hgo : bitOf w 1 = true) (hstop : bitOf w 2 = false) :
    seqCtlWrite s st r w
      = seqGo (seqFill (setReg s (stallReg st (0xC00 + 8 * r.val)) (BitVec.ofNat 64 (setBits (setBits w 1 1 0) 2 1 0 &&& 0xFFFF1F79))) r) r := by
  simp only [seqCtlWrite, hhome, hgo, hstop, ne_eq, not_true_eq_false, if_false, if_true, Bool.false_eq_true]

/-- Settles O40, by what each command answers to legal arguments, one position or one stall, and a sequencer's start and stop. -/
theorem deviceAndContextCommandsComplete : Obligations.DeviceAndContextCommandsComplete := by
  refine ⟨fun s k => ⟨?_, ?_, fun hready => ⟨?_, ?_, ?_⟩, ?_, ?_⟩, fun s k => ⟨?_, ?_, ?_, ?_, ?_, ?_, ?_, ?_⟩⟩
  · exact finish_exactly s k _ 0 identify
  · exact finish_exactly s k _ 0 _
  · intro h; rw [exec_distance_ready s k hready, distance_position _ _ _ h]
  · intro h; rw [exec_distance_ready s k hready, distance_all _ _ _ h]
  · intro h hall; rw [exec_distance_ready s k hready, distance_illegal _ _ _ h hall]
  · intro hready h1 h32 hlo hhi hon
    have hrun := finish_exactly s k _ 12 regRead hready
    rwa [regRead_answers _ _ _ h1 h32 hlo hhi hon] at hrun
  · intro hready hlo hhi hon hlegal
    have hrun := finish_exactly s k _ 24 regWrite hready
    rwa [regWrite_writes _ _ _ hlo hhi hon hlegal] at hrun
  · intro hready hr hc hf hmask hsrc
    rw [exec_imageLoad_ready s k hready, imageLoad_loads _ _ _ hr hc hf hmask hsrc]
  · intro c hready hr hc
    rw [exec_imageOpen_ready s k hready, imageOpen_opens _ _ _ c hr hc]
  · intro st hready hr hhome hon hidle
    rw [exec_seqStart_ready s k hready, seqStart_starts _ _ _ st hr hhome hon hidle]
  · intro hready hr
    rw [exec_seqStop_ready s k hready, seqStopCommand_stops _ _ _ hr]
  · intro p st hready hr hc hf hmask hsrc hst hon
    refine ⟨loadPosition_carried _ _ _ _ _ _ st hst hon hf, ?_⟩
    have hlt : mbArg (mbOf s k) 4 4 < 2 ^ 28 := hmask ▸ Nat.pow_lt_pow_right (by decide) p.isLt
    rw [exec_imageLoad_ready s k hready, imageLoad_loads _ _ _ hr hc hf hlt hsrc,
      loadPositions_one _ _ _ _ _ _ p.val _ (fun q => by rw [hmask]; exact bitOf_two_pow p.val q) List.nodup_range
        (List.mem_range.mpr p.isLt)]
  · intro c st hready hr hc hone
    rw [exec_imageOpen_ready s k hready, imageOpen_opens _ _ _ c hr hc, hone]
    rfl
  · intro st hready hr hhome hon hidle r u ctl keep v hhome' hidle' hgo hstop start w x
    rw [exec_seqStart_ready s k hready, seqStart_starts _ _ _ st hr hhome hon hidle, seqCtlWrite_starts u st r ctl hhome' hgo hstop,
      seqGo, if_neg (by rw [hidle']; exact Bool.false_ne_true)]
  · intro hready hr hlive
    rw [exec_seqStop_ready s k hready, seqStopCommand_stops _ _ _ hr, seqStopReq, if_pos hlive]
    rfl

/-! ### Commands that store nothing -/

/-- Memory and its marks, homes, objects, barrows, engines, claimers and statistics. -/
abbrev Storage : Type := List Host.Cell × Map Unit × Map Byte × Homes × SyncSt × Map BrwSt × Updates × Map Claimer × Map StatAcc

/-- What those commands leave as it was. -/
def storageOf (s : State) : Storage :=
  (s.mem, s.poison, s.tags, s.homes, s.sync, s.barrows, s.upd, s.claimers, s.stats)

/-- A step that leaves a part of the state alone leaves it alone for each element of a list. -/
theorem each_keeps {α β : Type} (part : State → β) (f : State → α → State) (h : ∀ s a, part (f s a) = part s) (l : List α)
    (s : State) : part (each l f s) = part s := by
  induction l generalizing s with
  | nil => rfl
  | cons a t ih => exact (ih (f s a)).trans (h s a)

theorem when_keeps {β : Type} (part : State → β) (c : Bool) (f : State → State) (s : State) (h : part (f s) = part s) :
    part (when c f s) = part s := by
  cases c with
  | false => rfl
  | true => exact h

/-- So does either branch of a condition. -/
theorem ite_keeps {β : Type} (part : State → β) (c : Prop) [Decidable c] {s u v : State} (hu : part u = part s) (hv : part v = part s) :
    part (if c then u else v) = part s := by
  split
  · exact hu
  · exact hv

@[simp] theorem storageOf_ended (s t : State) : storageOf (ended s t) = storageOf t := by
  simp only [storageOf, ended_mem, ended_poison, ended_tags, ended_homes, ended_sync, ended_barrows, ended_upd, ended_claimers,
    ended_stats]

/-! Each update of the state that the commands are made of. `(rfl)` keeps these laws rewriting steps: as definitional ones they would
have the kernel compare whole states. -/

@[simp] theorem storageOf_onYard (s : State) (f : Yard → Yard) : storageOf (onYard s f) = storageOf s := (rfl)
@[simp] theorem storageOf_onHost (s : State) (f : HostPort → HostPort) : storageOf (onHost s f) = storageOf s := (rfl)
@[simp] theorem storageOf_onGroom (s : State) (f : Grooms → Grooms) : storageOf (onGroom s f) = storageOf s := (rfl)
@[simp] theorem storageOf_onPower (s : State) (f : Power → Power) : storageOf (onPower s f) = storageOf s := (rfl)
@[simp] theorem storageOf_onSec (s : State) (f : Security → Security) : storageOf (onSec s f) = storageOf s := (rfl)
@[simp] theorem storageOf_putSeq (s : State) (r : Region) (q : SeqSt) : storageOf (putSeq s r q) = storageOf s := (rfl)
@[simp] theorem storageOf_setReg (s : State) (a : Nat) (v : Word) : storageOf (setReg s a v) = storageOf s := (rfl)
@[simp] theorem storageOf_setF (s : State) (a lo len v : Nat) : storageOf (setF s a lo len v) = storageOf s := (rfl)
@[simp] theorem storageOf_satF (s : State) (a lo len n : Nat) : storageOf (satF s a lo len n) = storageOf s := (rfl)
@[simp] theorem storageOf_addF (s : State) (a lo len n : Nat) : storageOf (addF s a lo len n) = storageOf s := (rfl)
@[simp] theorem storageOf_send (s : State) (o : Out) : storageOf (send s o) = storageOf s := (rfl)
@[simp] theorem storageOf_emit (s : State) (src : BitVec 16) (c a b : Nat) : storageOf (emit s src c a b) = storageOf s := (rfl)
@[simp] theorem storageOf_unstated (s : State) (what : Nat) : storageOf (unstated s what).2 = storageOf s := (rfl)
@[simp] theorem storageOf_handRecord (s : State) (src : BitVec 16) : storageOf (handRecord s src) = storageOf s := (rfl)
@[simp] theorem storageOf_putUnit (s : State) (st : Stall) (site : Site) (u : UnitSt) : storageOf (putUnit s st site u) = storageOf s := (rfl)
@[simp] theorem storageOf_putCross (s : State) (st : Stall) (e : Fin 4) (i : Fin 24) (x : Crossing) :
    storageOf (putCross s st e i x) = storageOf s := (rfl)

@[simp] theorem storageOf_raiseVector (s : State) (v : Nat) : storageOf (raiseVector s v) = storageOf s := by
  obtain ⟨p, o, h⟩ := raiseVector_shape s v
  rw [h]
  rfl

/-- A command ends with what its effect left, or with nothing done. -/
theorem finish_keeps {β : Type} (part : State → β) (hend : ∀ s t, part (ended s t) = part t) {s u t : State} (h : part u = part s)
    (hx : finish s u = .next t) : part t = part s := by
  cases hx
  exact (hend s _).trans (ite_keeps part _ h rfl)

theorem storageOf_finish {s u t : State} (h : storageOf u = storageOf s) (hx : finish s u = .next t) : storageOf t = storageOf s :=
  finish_keeps storageOf storageOf_ended h hx

theorem storageOf_finishAon {s u t : State} (h : storageOf u = storageOf s) (hx : finishAon s u = .next t) :
    storageOf t = storageOf s := by
  cases hx
  exact (storageOf_ended s u).trans h

/-! ### The yard -/

theorem storageOf_switchedTo (s : State) (st : Stall) (r : Region) (c : Slot) : storageOf (switchedTo s st r c) = storageOf s := by
  have hrearm (t : State) : storageOf (when (regionHome s r == some st) (rearm · r) t) = storageOf t :=
    when_keeps storageOf _ (rearm · r) t (storageOf_onYard t _)
  rw [switchedTo, hrearm, storageOf_setF, storageOf_setF]

/-- A unit of whose slots one is asked for, if it holds the region's configuration (03 R88). -/
def slotRequested (r : Region) (c : Slot) (u : UnitSt) : UnitSt :=
  { u with pendSwitch := if slotRegion u c r ∧ u.active ≠ c then some c else none }

/-- A switch changes registers, and units' pending slots. -/
theorem storageOf_contextSwitch (s : State) (st : Stall) (r : Region) (c : Slot) : storageOf (contextSwitch s st r c) = storageOf s := by
  have hrefused (code : Nat) : storageOf (rgnStatus s st r code) = storageOf s := storageOf_setF _ _ _ _ _
  have hpend (t : State) : storageOf (each (stallUnits s st r) (fun s site => updUnit s st site (slotRequested r c)) t) = storageOf t :=
    each_keeps storageOf (fun s site => updUnit s st site (slotRequested r c)) (fun t site => storageOf_putUnit t st site _) _ t
  have hstatus : storageOf (if (stallUnits s st r).all (fun site => slotRegion (unitOf s st site) c r) then s
      else rgnStatus s st r 0x0203) = storageOf s := ite_keeps storageOf _ rfl (hrefused _)
  unfold contextSwitch
  refine ite_keeps storageOf _ (hrefused _) (ite_keeps storageOf _ (hrefused _) (ite_keeps storageOf _ rfl (ite_keeps storageOf _ ?_ ?_)))
  · exact (storageOf_setF _ _ _ _ _).trans ((hpend _).trans hstatus)
  · exact (storageOf_switchedTo _ st r c).trans ((hpend _).trans hstatus)

theorem storageOf_extensionRefill (s : State) (st : Stall) (site : Site) (d : Dir) (lane : Slot) (high : Bool) :
    storageOf (extensionRefill s st site d lane high) = storageOf s := by
  unfold extensionRefill
  dsimp only
  split
  · rfl
  · split
    · rfl
    · split
      · rw [storageOf_emit, storageOf_putUnit]
      · rw [storageOf_putUnit]

/-! ### Host link, grooms, management bus -/

theorem storageOf_linkWord (s : State) (width gen : Nat) : storageOf (linkWord s width gen).2 = storageOf s := by
  unfold linkWord
  dsimp only
  split
  · rfl
  · rw [storageOf_unstated]

theorem storageOf_hostLinkChange (s : State) (width gen : Nat) (flit up : Bool) :
    storageOf (hostLinkChange s width gen flit up) = storageOf s := by
  have hup (t : State) : storageOf (when up (fun s => onHost (setF s (shedReg 0 0x300010) 2 1 0) (fun h => { h with cfgReady := true })) t)
      = storageOf t := when_keeps storageOf up _ t (by rw [storageOf_onHost, storageOf_setF])
  unfold hostLinkChange
  split
  · rfl
  · dsimp only
    split
    · rw [storageOf_raiseVector, storageOf_emit, hup, storageOf_setReg, storageOf_linkWord]
    · rw [hup, storageOf_setReg, storageOf_linkWord]

theorem storageOf_protocolEvent (s : State) (tlp : Byte) (requester : BitVec 16) :
    storageOf (protocolEvent s tlp requester) = storageOf s := by
  rw [protocolEvent, storageOf_raiseVector, storageOf_emit]

theorem storageOf_hostTlpError (s : State) (kind : TlpError) (tlp : Byte) (requester : BitVec 16) :
    storageOf (hostTlpError s kind tlp requester) = storageOf s := by
  unfold hostTlpError
  split
  · rfl
  · cases kind with
    | tooLarge => simp only [readTooLarge, accessEvent, storageOf_send, storageOf_emit, storageOf_satF, storageOf_unstated]
    | _ => simp only [storageOf_send, storageOf_protocolEvent, storageOf_satF]

theorem storageOf_lockstepMismatch (s : State) (b : Bool) : storageOf (lockstepMismatch s b) = storageOf s := by
  unfold lockstepMismatch
  split <;> rfl

theorem storageOf_standbyReload (s : State) (ok : Bool) : storageOf (standbyReload s ok) = storageOf s := by
  have hgo (b : Bool) : storageOf (if ok then setGroom s b .standby else standbyFails s b) = storageOf s := by split <;> rfl
  unfold standbyReload
  exact ite_keeps storageOf _ rfl (ite_keeps storageOf _ (hgo true) (ite_keeps storageOf _ (hgo false) rfl))

theorem storageOf_eventVectorDelay (s : State) : storageOf (eventVectorDelay s) = storageOf s := by
  unfold eventVectorDelay
  split
  · exact storageOf_raiseVector _ _
  · rfl

theorem storageOf_onBus (s : State) (f : State → State) (h : storageOf (f s) = storageOf s) : storageOf (onBus s f) = storageOf s :=
  ite_keeps storageOf _ h rfl

theorem storageOf_busAnswer (s : State) (code : Nat) (body : List Byte) : storageOf (busAnswer s code body) = storageOf s := by
  rw [busAnswer, storageOf_send]

theorem storageOf_retain (s : State) : storageOf (retain s) = storageOf s := by
  rw [retain, storageOf_busAnswer]

theorem storageOf_mctpControl (s : State) (q : MctpRequest) : storageOf (mctpControl s q) = storageOf s := by
  cases q <;> rfl

theorem storageOf_pldmRequest (s : State) (q : PldmRequest) : storageOf (pldmRequest s q) = storageOf s := by
  unfold pldmRequest
  dsimp only
  cases q with
  | sensor id => dsimp only; split <;> rfl
  | base => rfl
  | fru => dsimp only; split <;> rfl
  | other => rfl

theorem storageOf_tapInstruction (s : State) (i : TapInstr) : storageOf (tapInstruction s i) = storageOf s :=
  when_keeps storageOf _ _ _ rfl

theorem storageOf_svnAdvance (s : State) : storageOf (svnAdvance s) = storageOf s := by
  unfold svnAdvance
  split
  · rfl
  · exact ite_keeps storageOf _ (by rw [storageOf_emit, storageOf_onSec]) rfl

/-! ### The islands' limits (02 R53; 14 R434, R436, R437) -/

/-- What the commands on the islands' limits leave as it was: what is stored, units, sequencers, and every register but the
input's, its counts and the sideband's. -/
def besideLimits (s : State) : Storage × Map UnitSt × Map SeqSt × (Nat → Option Word) :=
  (storageOf s, s.yard.units, s.seqs,
    fun a => if a = pwrInput ∨ a = pwrCnt ∨ a = grmSb then none else some (getReg s a))

@[simp] theorem besideLimits_ended (s t : State) : besideLimits (ended s t) = besideLimits t := by
  simp only [besideLimits, storageOf_ended, ended_yard, ended_seqs, getReg_ended]

/-- A register that is left out may be written. -/
theorem besideLimits_setF (s : State) (a lo len v : Nat) (h : a = pwrInput ∨ a = pwrCnt ∨ a = grmSb) :
    besideLimits (setF s a lo len v) = besideLimits s := by
  have hregs (b : Nat) : (if b = pwrInput ∨ b = pwrCnt ∨ b = grmSb then none else some (getReg (setF s a lo len v) b))
      = if b = pwrInput ∨ b = pwrCnt ∨ b = grmSb then none else some (getReg s b) := by
    split
    · rfl
    · rename_i hb
      rw [getReg_setF_other s a b lo len v (fun he => hb (he ▸ h))]
  exact congrArg (fun g => (storageOf s, s.yard.units, s.seqs, g)) (funext hregs)

@[simp] theorem besideLimits_input (s : State) (lo len v : Nat) : besideLimits (setF s pwrInput lo len v) = besideLimits s :=
  besideLimits_setF s pwrInput lo len v (.inl rfl)
@[simp] theorem besideLimits_counts (s : State) (lo len n : Nat) : besideLimits (satF s pwrCnt lo len n) = besideLimits s :=
  besideLimits_setF s pwrCnt lo len _ (.inr (.inl rfl))
@[simp] theorem besideLimits_sideband (s : State) (lo len v : Nat) : besideLimits (setF s grmSb lo len v) = besideLimits s :=
  besideLimits_setF s grmSb lo len v (.inr (.inr rfl))
@[simp] theorem besideLimits_onPower (s : State) (f : Power → Power) : besideLimits (onPower s f) = besideLimits s := (rfl)
@[simp] theorem besideLimits_onHost (s : State) (f : HostPort → HostPort) : besideLimits (onHost s f) = besideLimits s := (rfl)
@[simp] theorem besideLimits_emit (s : State) (src : BitVec 16) (c a b : Nat) : besideLimits (emit s src c a b) = besideLimits s := (rfl)
@[simp] theorem besideLimits_unstated (s : State) (what : Nat) : besideLimits (unstated s what).2 = besideLimits s := (rfl)
@[simp] theorem besideLimits_putLimit (s : State) (st : Stall) (i : Island) (l : IslLimit) :
    besideLimits (putLimit s st i l) = besideLimits s := (rfl)

theorem besideLimits_frequencyEvent (s : State) (st : Stall) (i : Island) : besideLimits (frequencyEvent s st i) = besideLimits s := by
  rw [frequencyEvent, besideLimits_emit]

theorem besideLimits_settleIsland (s t : State) (st : Stall) (i : Island) : besideLimits (settleIsland s t st i) = besideLimits t := by
  have hcount : besideLimits (if islandStep s st i = islandStep t st i then t
      else putLimit t st i { limitOf t st i with cyc := (closeCount s st i).cyc, since := (closeCount s st i).since }) = besideLimits t :=
    ite_keeps besideLimits _ rfl (besideLimits_putLimit t st i _)
  unfold settleIsland
  exact ite_keeps besideLimits _ rfl (ite_keeps besideLimits _ hcount ((besideLimits_frequencyEvent _ st i).trans hcount))

@[simp] theorem besideLimits_settleIslands (s t : State) (l : List (Stall × Island)) :
    besideLimits (settleIslands s t l) = besideLimits t :=
  each_keeps besideLimits (fun t (e : Stall × Island) => settleIsland s t e.1 e.2) (fun t e => besideLimits_settleIsland s t e.1 e.2) l t

@[simp] theorem besideLimits_setAllLimits (s : State) (l : List (Stall × Island)) (f : State → Stall → Island → IslLimit → IslLimit) :
    besideLimits (setAllLimits s l f) = besideLimits s :=
  (besideLimits_settleIslands s _ l).trans
    (each_keeps besideLimits (fun t (e : Stall × Island) => putLimit t e.1 e.2 (f s e.1 e.2 (limitOf t e.1 e.2)))
      (fun t e => besideLimits_putLimit t e.1 e.2 _) l s)

theorem besideLimits_lower (s : State) (mv10 : Nat) : besideLimits (lower s mv10) = besideLimits s := by
  rw [lower, besideLimits_onPower, besideLimits_input]

theorem besideLimits_inputWarning (s : State) (mv10 : Nat) (pwrgd : Bool) : besideLimits (inputWarning s mv10 pwrgd) = besideLimits s := by
  unfold inputWarning
  split
  · rfl
  · dsimp only
    split
    · simp only [besideLimits_lower, besideLimits_onPower, besideLimits_input, besideLimits_sideband]
    · simp only [besideLimits_settleIslands, besideLimits_emit, besideLimits_counts, besideLimits_onPower, besideLimits_input,
        besideLimits_sideband]

theorem besideLimits_recoveryRestart (s : State) (mv10 : Nat) : besideLimits (recoveryRestart s mv10) = besideLimits s := by
  unfold recoveryRestart
  split
  · rfl
  · split
    · simp only [besideLimits_onPower, besideLimits_input]
    · simp only [besideLimits_lower, besideLimits_onPower, besideLimits_input]

theorem besideLimits_inputRecovered (s : State) (mv10 : Nat) : besideLimits (inputRecovered s mv10) = besideLimits s := by
  unfold inputRecovered
  split
  · rfl
  · simp only [besideLimits_settleIslands, besideLimits_emit, besideLimits_onPower, besideLimits_input, besideLimits_sideband]

theorem besideLimits_highInput (s : State) (mv10 : Nat) : besideLimits (highInput s mv10) = besideLimits s := by
  unfold highInput
  split
  · rfl
  · have hin := besideLimits_input s 0 16 mv10
    exact ite_keeps besideLimits _ (by rw [besideLimits_emit, besideLimits_onHost, hin]) hin

theorem besideLimits_overCurrent (s : State) (ma10 : Nat) : besideLimits (overCurrent s ma10) = besideLimits s := by
  unfold overCurrent
  dsimp only
  split
  · simp only [besideLimits_setAllLimits, besideLimits_input]
  · simp only [besideLimits_setAllLimits, besideLimits_counts, besideLimits_unstated, besideLimits_input]

theorem besideLimits_powerCapInterval (s : State) (watts : Nat) : besideLimits (powerCapInterval s watts) = besideLimits s := by
  unfold powerCapInterval
  dsimp only
  split <;> simp only [besideLimits_setAllLimits, besideLimits_unstated, besideLimits_input]

theorem besideLimits_finish {s u t : State} (h : besideLimits u = besideLimits s) (hx : finish s u = .next t) :
    besideLimits t = besideLimits s :=
  finish_keeps besideLimits besideLimits_ended h hx

/-- A command on the islands' limits changes nothing beside them. -/
theorem exec_settlesLimits_keeps (c : Instr) (s t : State) (hc : settlesLimits c = true) (hx : exec c s = .next t) :
    besideLimits t = besideLimits s := by
  cases c with
  | frequencyChange st i vf droop => exact besideLimits_finish (besideLimits_setAllLimits s _ _) hx
  | thermalLimit st inForce step => exact besideLimits_finish (besideLimits_setAllLimits s _ _) hx
  | inputWarning mv10 pwrgd => exact besideLimits_finish (besideLimits_inputWarning s _ _) hx
  | recoveryRestart mv10 => exact besideLimits_finish (besideLimits_recoveryRestart s _) hx
  | inputRecovered mv10 => exact besideLimits_finish (besideLimits_inputRecovered s _) hx
  | highInput mv10 => exact besideLimits_finish (besideLimits_highInput s _) hx
  | overCurrent ma10 => exact besideLimits_finish (besideLimits_overCurrent s _) hx
  | powerCapInterval watts => exact besideLimits_finish (besideLimits_powerCapInterval s _) hx
  | _ => exact Bool.noConfusion hc

/-- The other commands in question change nothing that is stored either. -/
theorem exec_beyondLimits_keeps (c : Instr) (s t : State) (hc : (storesNothing c && !settlesLimits c) = true)
    (hx : exec c s = .next t) : storageOf t = storageOf s := by
  cases c with
  | crossingCrcError st e i =>
    refine storageOf_finish (ite_keeps storageOf _ rfl (ite_keeps storageOf _ ?_ ?_)) hx
    · rw [storageOf_putCross, storageOf_satF, storageOf_satF]
    · rw [storageOf_setF, storageOf_putCross, storageOf_satF]
  | contextSwitchRequest st r c => exact storageOf_finish (storageOf_contextSwitch s st r c) hx
  | laneOpen st r c => exact storageOf_finish (storageOf_setF _ _ _ _ _) hx
  | extensionRefill st site d lane high => exact storageOf_finish (storageOf_extensionRefill s st site d lane high) hx
  | matRetire st mat =>
    have hhand := storageOf_handRecord s (srcStall st 0x3F)
    exact storageOf_finish (ite_keeps storageOf _ ((storageOf_setF _ _ _ _ _).trans hhand) hhand) hx
  | queueTailWrite b tail => exact storageOf_finish (storageOf_setF _ _ _ _ _) hx
  | sequencerWaitLimit r =>
    exact storageOf_finish (ite_keeps storageOf _ ((storageOf_emit _ _ _ _ _).trans (storageOf_putSeq s r _)) rfl) hx
  | epochTick m => exact storageOf_finish (storageOf_addF _ _ _ _ _) hx
  | normWaitTimeout set => exact storageOf_finish (when_keeps storageOf _ _ s (storageOf_emit s _ _ _ _)) hx
  | hostLinkChange width gen flit up => exact storageOf_finish (storageOf_hostLinkChange s width gen flit up) hx
  | hostTlpError kind tlp requester => exact storageOf_finish (storageOf_hostTlpError s kind tlp requester) hx
  | groomHeartbeat => exact storageOf_finish (ite_keeps storageOf _ (storageOf_onHost s _) rfl) hx
  | lockstepMismatch b => exact storageOf_finish (storageOf_lockstepMismatch s b) hx
  | standbyReload ok => exact storageOf_finish (storageOf_standbyReload s ok) hx
  | eventVectorDelay => exact storageOf_finish (storageOf_eventVectorDelay s) hx
  | dynamicAddressAssignment a => exact storageOf_finishAon (storageOf_onBus s _ (storageOf_onPower s _)) hx
  | mctpControl q => exact storageOf_finishAon (storageOf_onBus s _ (storageOf_mctpControl s q)) hx
  | pldmRequest q => exact storageOf_finishAon (storageOf_onBus s _ (storageOf_pldmRequest s q)) hx
  | retain => exact storageOf_finishAon (storageOf_onBus s retain (storageOf_retain s)) hx
  | identifyLed on =>
    exact storageOf_finishAon (storageOf_onBus s _ (by rw [storageOf_busAnswer, storageOf_setF])) hx
  | tapInstruction i => exact storageOf_finish (storageOf_tapInstruction s i) hx
  | svnAdvance => exact storageOf_finish (storageOf_svnAdvance s) hx
  | _ => exact Bool.noConfusion hc

theorem exec_storesNothing_keeps (c : Instr) (s t : State) (hc : storesNothing c = true) (hx : exec c s = .next t) :
    storageOf t = storageOf s := by
  cases hl : settlesLimits c with
  | true => exact congrArg Prod.fst (exec_settlesLimits_keeps c s t hl hx)
  | false => exact exec_beyondLimits_keeps c s t (by rw [hc, hl]; rfl) hx

/-- Settles O55, command by command: each changes no part of the state that stores, and those on the islands' limits no unit,
no sequencer and three registers at most. -/
theorem controlCommandsStoreNothing : Obligations.ControlCommandsStoreNothing := by
  refine ⟨fun c s t hc hx => ?_, fun c s t hc hx => ?_⟩
  · have hkeep := exec_storesNothing_keeps c s t hc hx
    simp only [storageOf, Prod.mk.injEq] at hkeep
    obtain ⟨hmem, hrest⟩ := hkeep
    exact ⟨fun q => by simp only [readByte, hmem], hrest⟩
  · have hkeep := exec_settlesLimits_keeps c s t hc hx
    simp only [besideLimits, Prod.mk.injEq] at hkeep
    obtain ⟨_, hunits, hseqs, hregs⟩ := hkeep
    refine ⟨hunits, hseqs, fun a hin hcnt hsb => ?_⟩
    have hout : ¬(a = pwrInput ∨ a = pwrCnt ∨ a = grmSb) := by
      rintro (h | h | h)
      · exact hin h
      · exact hcnt h
      · exact hsb h
    have ha := congrFun hregs a
    rwa [if_neg hout, if_neg hout, Option.some.injEq] at ha

end Sys2Proof.Machine
end

section
/-! SUPPORT. The statements of the yard: the service of link outputs, arrivals, crossings and islands' steps (02), and the firing and
steering of units (03). -/

namespace Sys2Proof.Machine

/-! ### The service rule of a link output (02 R42) -/

/-- Candidates that a rule prefers, where it prefers any; else all of them. -/
def preferred (p : Source × Token → Bool) (cs : List (Source × Token)) : List (Source × Token) :=
  if cs.filter p = [] then cs else cs.filter p

theorem mem_of_mem_preferred {p : Source × Token → Bool} {cs : List (Source × Token)} {e : Source × Token}
    (he : e ∈ preferred p cs) : e ∈ cs := by
  unfold preferred at he
  split at he
  · exact he
  · exact (List.mem_filter.mp he).1

theorem preferred_ne_nil (p : Source × Token → Bool) {cs : List (Source × Token)} (h : cs ≠ []) : preferred p cs ≠ [] := by
  unfold preferred
  split
  · exact h
  · assumption

/-- A candidate that is kept is preferred as soon as some candidate is. -/
theorem preferred_of_any {p : Source × Token → Bool} {cs : List (Source × Token)} {e f : Source × Token}
    (he : e ∈ preferred p cs) (hf : f ∈ cs) (hp : p f = true) : p e = true := by
  have hsome : cs.filter p ≠ [] := List.ne_nil_of_mem (List.mem_filter.mpr ⟨hf, hp⟩)
  rw [preferred, if_neg hsome] at he
  exact (List.mem_filter.mp he).2

/-- A rule does not tell apart candidates that it judges alike: with one of them all are kept. -/
theorem mem_preferred_of_alike {p : Source × Token → Bool} {cs : List (Source × Token)} {e f : Source × Token}
    (he : e ∈ preferred p cs) (hf : f ∈ cs) (hp : p f = p e) : f ∈ preferred p cs := by
  by_cases hnone : cs.filter p = []
  · rwa [preferred, if_pos hnone]
  · rw [preferred, if_neg hnone] at he ⊢
    exact List.mem_filter.mpr ⟨hf, hp.trans (List.mem_filter.mp he).2⟩

/-- The candidates left by rules 1 and 2: of the highest priority, and among those the passing ones. -/
def foremost (cs : List (Source × Token)) : List (Source × Token) :=
  preferred (fun e => isPass e.1) (preferred (fun e => highPriority e.2) cs)

theorem mem_of_mem_foremost {cs : List (Source × Token)} {e : Source × Token} (h : e ∈ foremost cs) : e ∈ cs :=
  mem_of_mem_preferred (mem_of_mem_preferred h)

theorem foremost_ne_nil {cs : List (Source × Token)} (h : cs ≠ []) : foremost cs ≠ [] :=
  preferred_ne_nil _ (preferred_ne_nil _ h)

theorem highPriority_of_mem_foremost {cs : List (Source × Token)} {e : Source × Token} (h : e ∈ foremost cs) :
    highPriority e.2 = decide (cs.filter (fun e => highPriority e.2) ≠ []) := by
  have hmem := mem_of_mem_preferred h
  by_cases hnone : cs.filter (fun e => highPriority e.2) = []
  · rw [decide_eq_false (not_not_intro hnone)]
    exact Bool.eq_false_iff.mpr (List.filter_eq_nil_iff.mp hnone e (mem_of_mem_preferred hmem))
  · rw [preferred, if_neg hnone] at hmem
    rw [decide_eq_true hnone]
    exact (List.mem_filter.mp hmem).2

/-- The lane served last at an output at the priority of the foremost candidates. -/
def lastServed (u : UnitSt) (d : Dir) (cs : List (Source × Token)) : Nat :=
  mget u.rr 3 (dirCode d * 2 + flag (decide (cs.filter (fun e => highPriority e.2) ≠ [])))

theorem lastServed_of_mem_foremost {cs : List (Source × Token)} {e : Source × Token} (u : UnitSt) (d : Dir) (h : e ∈ foremost cs) :
    lastServed u d cs = mget u.rr 3 (dirCode d * 2 + flag (highPriority e.2)) := by
  rw [highPriority_of_mem_foremost h, lastServed]

/-- The candidates of one lane. -/
def ofLane (cs : List (Source × Token)) (lane : Nat) : List (Source × Token) := cs.filter (fun e => e.2.ctx.val == lane)

theorem mem_ofLane {cs : List (Source × Token)} {lane : Nat} {e : Source × Token} :
    e ∈ ofLane cs lane ↔ e ∈ cs ∧ e.2.ctx.val = lane := by
  rw [ofLane, List.mem_filter, beq_iff_eq]

/-- Whether a candidate of the lane waits. -/
def waitsIn (cs : List (Source × Token)) (lane : Nat) : Bool := cs.any (fun e => e.2.ctx.val == lane)

theorem waitsIn_of_mem {cs : List (Source × Token)} {e : Source × Token} (h : e ∈ cs) : waitsIn cs e.2.ctx.val = true :=
  List.any_eq_true.mpr ⟨e, h, beq_self_eq_true _⟩

theorem ofLane_ne_nil {cs : List (Source × Token)} {lane : Nat} (h : waitsIn cs lane = true) : ofLane cs lane ≠ [] := by
  obtain ⟨e, he, hlane⟩ := List.any_eq_true.mp h
  exact List.ne_nil_of_mem (mem_ofLane.mpr ⟨he, eq_of_beq hlane⟩)

/-- R42: of the foremost candidates, one of the first lane in turn in which any waits. -/
theorem chooseServe_eq (u : UnitSt) (d : Dir) (n : Nat) (cs : List (Source × Token)) :
    chooseServe u d n cs = ((laneOrder (lastServed u d cs)).find? (waitsIn (foremost cs))).bind
      (fun l => (ofLane (foremost cs) l)[n % (ofLane (foremost cs) l).length]?) := by
  unfold chooseServe
  dsimp only
  split
  · rename_i hfind
    have hnone : (laneOrder (lastServed u d cs)).find? (waitsIn (foremost cs)) = none := hfind
    rw [hnone]; rfl
  · rename_i l hfind
    have hsome : (laneOrder (lastServed u d cs)).find? (waitsIn (foremost cs)) = some l := hfind
    rw [hsome]; rfl

/-- The order of service after a lane is that of the turns. -/
theorem laneOrder_get (last i : Nat) (h : i < 4) : (laneOrder last)[i]? = some ((last + (i + 1)) % 4) := by
  match i, h with
  | 0, _ | 1, _ | 2, _ | 3, _ => rfl

theorem laneTurn_laneOrder (last i : Nat) (h : i < 4) : laneTurn last ((last + (i + 1)) % 4) = i := by
  unfold laneTurn; omega

theorem laneOrder_laneTurn (last lane : Nat) (h : lane < 4) : (last + (laneTurn last lane + 1)) % 4 = lane := by
  unfold laneTurn; omega

/-- The first lane in order that satisfies a condition stands nearest in turn of those that do. -/
theorem laneOrder_find_nearest {last l : Nat} {p : Nat → Bool} (h : (laneOrder last).find? p = some l) (m : Nat) (hm : m < 4)
    (hp : p m = true) : laneTurn last l ≤ laneTurn last m := by
  obtain ⟨_, i, hi, hget, hbefore⟩ := List.find?_eq_some_iff_getElem.mp h
  have hl : (last + (i + 1)) % 4 = l :=
    Option.some.inj ((laneOrder_get last i hi).symm.trans (List.getElem?_eq_some_iff.mpr ⟨hi, hget⟩))
  rw [← hl, laneTurn_laneOrder last i hi]
  refine Nat.le_of_not_lt (fun hlt => ?_)
  obtain ⟨hj, hgetm⟩ := List.getElem?_eq_some_iff.mp
    ((laneOrder_get last (laneTurn last m) (Nat.lt_trans hlt hi)).trans (congrArg some (laneOrder_laneTurn last m hm)))
  have hnot := hbefore (laneTurn last m) hlt
  rw [hgetm, hp] at hnot
  exact Bool.noConfusion hnot

theorem laneOrder_find_isSome {last m : Nat} {p : Nat → Bool} (hm : m < 4) (hp : p m = true) :
    ((laneOrder last).find? p).isSome = true := by
  have hget := (laneOrder_get last (laneTurn last m) (Nat.mod_lt _ (by decide))).trans (congrArg some (laneOrder_laneTurn last m hm))
  exact List.find?_isSome.mpr ⟨m, List.mem_of_getElem? hget, hp⟩

/-- Some foremost candidate is of the lane in turn, and the free number falls on one of those. -/
theorem chooseServe_isSome (u : UnitSt) (d : Dir) (n : Nat) (cs : List (Source × Token)) (h : cs ≠ []) :
    (chooseServe u d n cs).isSome = true := by
  obtain ⟨e, he⟩ := List.exists_mem_of_ne_nil _ (foremost_ne_nil h)
  obtain ⟨l, hl⟩ := Option.isSome_iff_exists.mp (laneOrder_find_isSome (last := lastServed u d cs) e.2.ctx.isLt (waitsIn_of_mem he))
  have hlane := List.length_pos_iff.mpr (ofLane_ne_nil (List.find?_some (p := waitsIn (foremost cs)) hl))
  rw [chooseServe_eq, hl, Option.bind_some, List.getElem?_eq_getElem (Nat.mod_lt n hlane)]
  rfl

/-- The chosen candidate is foremost, and of the foremost none stands nearer in turn. -/
theorem chooseServe_foremost {u : UnitSt} {d : Dir} {n : Nat} {cs : List (Source × Token)} {src : Source} {t : Token}
    (h : chooseServe u d n cs = some (src, t)) :
    (src, t) ∈ foremost cs
      ∧ ∀ e ∈ foremost cs, laneTurn (lastServed u d cs) t.ctx.val ≤ laneTurn (lastServed u d cs) e.2.ctx.val := by
  rw [chooseServe_eq] at h
  obtain ⟨l, hl, hget⟩ := Option.bind_eq_some_iff.mp h
  obtain ⟨hmem, hctx⟩ := mem_ofLane.mp (List.mem_of_getElem? hget)
  refine ⟨hmem, fun e he => ?_⟩
  rw [hctx]
  exact laneOrder_find_nearest hl _ e.2.ctx.isLt (waitsIn_of_mem he)

/-- Settles O4: rules 1 and 2 keep the foremost candidates, which are alike to both, and the lanes' turn decides among those. -/
theorem linkOutputServiceRule : Obligations.LinkOutputServiceRule := by
  intro u d n cs
  refine ⟨chooseServe_isSome u d n cs, fun src t h => ?_⟩
  obtain ⟨hmem, hturn⟩ := chooseServe_foremost h
  rw [lastServed_of_mem_foremost u d hmem] at hturn
  have hhigh := mem_of_mem_preferred hmem
  refine ⟨mem_of_mem_foremost hmem, fun e he hp => preferred_of_any hhigh he hp, fun e he hsame hpass => ?_, fun e he hsame hpass => ?_⟩
  · exact preferred_of_any hmem (mem_preferred_of_alike hhigh he hsame) hpass
  · exact hturn e (mem_preferred_of_alike hmem (mem_preferred_of_alike hhigh he hsame) hpass)

/-! ### Serving a link output (02 R42, R44, R67) -/

theorem exec_linkServe_on (s : State) (st : Stall) (site : Site) (d : Dir) (parity : Bool) (h : poweredUp s = true) :
    exec (.linkServe st site d parity) s = .next (ended s (linkServe s st site d parity)) :=
  finish_on s _ h

/-- A token whose parity is wrong is carried on poisoned. -/
def paritySpoiled (parity : Bool) (t : Token) : Token := if parity then { t with poison := true } else t

/-- A parity error is counted and recorded; the record names the sender's island (log entry 120). -/
def parityCounted (parity : Bool) (st : Stall) (site : Site) (s : State) : State :=
  if parity then emit (satF s (stallReg st 0x10) 0 32 1) (srcIsland st site) 0x0382 0 0 else s

theorem each_nil {α : Type} (f : State → α → State) (s : State) : each [] f s = s := rfl

/-- Where no asker is blocked, the chosen token leaves where it waited and goes to each of its outputs. -/
theorem linkServe_serves {s : State} {st : Stall} {site : Site} {d : Dir} {src : Source} {t : Token} (parity : Bool)
    (hrun : unitsRun s st = true)
    (hmov : ∀ e ∈ askers (unitOf s st site) d, movable s st site (unitOf s st site) e = true)
    (hchoice : serveChoice s st site d (pick s 4096).1 = some (src, t))
    (hgrant : portsGrant s (fun k => portWaits s k (pick s 4096).1) st site t ((tokenOuts (unitOf s st site) t).getD []) = true) :
    linkServe s st site d parity
      = each ((tokenOuts (unitOf s st site) t).getD [])
          (fun s' d => deliver s' (fun k => portWaits s k (pick s 4096).1) st site (paritySpoiled parity t) d)
          (parityCounted parity st site (updUnit (pick s 4096).2 st site
            (fun u => servedAt (takeSource u src) t ((tokenOuts (unitOf s st site) t).getD [])))) := by
  have hblocked : (askers (unitOf s st site) d).filter (fun e => !movable s st site (unitOf s st site) e) = [] :=
    List.filter_eq_nil_iff.mpr (fun e he => by rw [hmov e he]; decide)
  simp only [linkServe, hrun, hblocked, each_nil, hchoice, hgrant, Bool.not_true, Bool.false_eq_true, if_false]
  rfl

/-! ### Arrivals at a unit's own queue (03 R74; 02 R67) -/

theorem exec_tokenArrival_on (s : State) (st : Stall) (site : Site) (dir : Dir) (lane : Slot) (high : Bool) (h : poweredUp s = true) :
    exec (.tokenArrival st site dir lane high) s = .next (ended s (tokenArrival s st site dir lane high)) :=
  finish_on s _ h

section
variable {s : State} {st : Stall} {site : Site} {lane : Slot} {high : Bool} {tok : Token}
variable (hrun : unitsRun s st = true) (hhead : (queueOf (unitOf s st site) (queueKey .loc lane high)).head? = some tok)
variable (hopen : laneHalted (unitOf s st site) lane = false)
include hrun hhead hopen

theorem tokenArrival_accepts {w : BitVec 4096} (hcfg : cfgOf (unitOf s st site) tok.ctx = some w) (hkind : tok.kind ≠ .signal)
    (hfmt : tok.kind = .data → tok.fmt ≠ 0xF) (hsig : signalsOnAccept (siteType site) w tok = false)
    (hmat : matClosed s st site = false) (haccept : settleArrival (siteType site) (unitOf s st site) w tok = .accept) :
    tokenArrival s st site .loc lane high = matNote (updUnit (loadHalf s st site w tok).1 st site (fun u =>
      acceptTok (dequeue u (queueKey .loc lane high)) w (loadHalf s st site w tok).2)) st site := by
  have hgood : ¬(tok.kind = .data ∧ tok.fmt = 0xF) := fun h => hfmt h.1 h.2
  simp only [tokenArrival, hrun, hhead, hopen, hcfg, hkind, hsig, hmat, haccept, hgood, ne_eq, not_true_eq_false, Bool.not_true,
    Bool.false_eq_true, Bool.false_and, if_false]

/-- A token whose context the unit has no configuration of stays, its fault recorded. -/
theorem tokenArrival_without_route (hcfg : cfgOf (unitOf s st site) tok.ctx = none) :
    tokenArrival s st site .loc lane high
      = headFault s st site (queueKey .loc lane high) 0x0281 tok.route.toNat (site.val + lane.val * 2 ^ 16) := by
  simp only [tokenArrival, hrun, hhead, hopen, hcfg, ne_eq, not_true_eq_false, Bool.not_true, Bool.false_eq_true, Bool.false_and, if_false]

end

/-- Only a MAT has an operand buffer. -/
theorem loadHalf_of_not_mat (s : State) (st : Stall) {site : Site} (w : BitVec 4096) (tok : Token) (h : siteType site ≠ .mat) :
    loadHalf s st site w tok = (s, tok) :=
  if_pos (.inl h)

/-! ### Bits within a field -/

/-- A part of a field reads as that part of what was written. -/
theorem field_setBits_within (w lo len v a n : Nat) (h : lo ≤ a ∧ a + n ≤ lo + len) :
    field (setBits w lo len v) a n = field v (a - lo) n := by
  refine Nat.eq_of_testBit_eq (fun i => ?_)
  rw [field_testBit, field_testBit, setBits_testBit]
  by_cases hi : i < n
  · rw [if_pos (by omega), show a + i - lo = a - lo + i by omega]
  · simp only [hi, decide_false, Bool.false_and]

theorem getF_setF_within (s : State) (r lo len v a n : Nat) (hw : lo + len ≤ 64) (h : lo ≤ a ∧ a + n ≤ lo + len) :
    getF (setF s r lo len v) r a n = field v (a - lo) n := by
  simp only [getF, getReg_setF_same s r lo len v hw, field_setBits_within _ _ _ _ _ _ h]

theorem field_within (w lo len a n : Nat) (h : a + n ≤ len) : field (field w lo len) a n = field w (lo + a) n := by
  refine Nat.eq_of_testBit_eq (fun i => ?_)
  rw [field_testBit, field_testBit, field_testBit, Nat.add_assoc]
  by_cases hi : i < n
  · rw [decide_eq_true (by omega : a + i < len), Bool.true_and]
  · simp only [hi, decide_false, Bool.false_and]

theorem field_one (w i : Nat) : field w i 1 = (w.testBit i).toNat := by
  rw [Nat.toNat_testBit, field, Nat.shiftRight_eq_div_pow, Nat.pow_one]

/-- Taking a bit off where it stands leaves it clear. -/
theorem field_sub_bit (w i : Nat) : field (w - (if field w i 1 = 1 then 2 ^ i else 0)) i 1 = 0 := by
  have hbit : (if field w i 1 = 1 then 2 ^ i else 0) = w &&& 2 ^ i := by
    refine Nat.eq_of_testBit_eq (fun j => ?_)
    rw [Nat.testBit_and, Nat.testBit_two_pow, field_one]
    cases hw : w.testBit i with
    | true =>
      rw [Bool.toNat_true, if_pos rfl, Nat.testBit_two_pow]
      by_cases hj : i = j
      · rw [← hj, hw, Bool.true_and]
      · rw [decide_eq_false hj, Bool.and_false]
    | false =>
      rw [Bool.toNat_false, if_neg Nat.zero_ne_one, Nat.zero_testBit]
      by_cases hj : i = j
      · rw [← hj, hw, Bool.false_and]
      · rw [decide_eq_false hj, Bool.and_false]
  rw [hbit, field_one, testBit_sub_land, Nat.testBit_two_pow_self, Bool.not_true, Bool.and_false, Bool.toNat_false]

/-! ### Crossings (02 R46, R67; 16 R469) -/

theorem crossOf_ended (s t : State) (st : Stall) (e : Fin 4) (i : Fin 24) : crossOf (ended s t) st e i = crossOf t st e i := by
  simp only [crossOf, ended_yard]

theorem crossOf_setF (s : State) (a lo len v : Nat) (st : Stall) (e : Fin 4) (i : Fin 24) :
    crossOf (setF s a lo len v) st e i = crossOf s st e i := (rfl)

theorem crossOf_emit (s : State) (src : BitVec 16) (c a b : Nat) (st : Stall) (e : Fin 4) (i : Fin 24) :
    crossOf (emit s src c a b) st e i = crossOf s st e i := (rfl)

theorem getF_putCross (s : State) (st : Stall) (e : Fin 4) (i : Fin 24) (x : Crossing) (a lo len : Nat) :
    getF (putCross s st e i x) a lo len = getF s a lo len := (rfl)

theorem crossOf_addRepair (s : State) (kind : Fin 11) (die loc : Nat) (st : Stall) (e : Fin 4) (i : Fin 24) :
    crossOf (addRepair s kind die loc) st e i = crossOf s st e i := by
  unfold addRepair; split <;> rfl

theorem getF_addRepair (s : State) (kind : Fin 11) (die loc a lo len : Nat) :
    getF (addRepair s kind die loc) a lo len = getF s a lo len := by
  unfold addRepair; split <;> rfl

/-- A list with room grows by the repair. -/
theorem addRepair_length (s : State) (kind : Fin 11) (die loc : Nat) (h : s.svc.repairs.length < 16384) :
    (addRepair s kind die loc).svc.repairs.length = s.svc.repairs.length + 1 := by
  rw [addRepair, if_neg (Nat.not_le.mpr h), onSvc_svc]
  exact List.length_append

/-- A crossing's up bit is taken off where it stands. -/
def takenDown (s : State) (st : Stall) (e : Fin 4) (i : Fin 24) : State :=
  setF s (edgeReg st e) 0 24 (getF s (edgeReg st e) 0 24 - (if getF s (edgeReg st e) i.val 1 = 1 then 2 ^ i.val else 0))

/-- The up bit of a crossing that is taken down reads 0. -/
theorem getF_takenDown_up (s : State) (st : Stall) (e : Fin 4) (i : Fin 24) : getF (takenDown s st e i) (edgeReg st e) i.val 1 = 0 := by
  have hbit : getF s (edgeReg st e) i.val 1 = field (getF s (edgeReg st e) 0 24) i.val 1 := by
    rw [getF, getF, field_within _ _ _ _ _ (by omega), Nat.zero_add]
  rw [takenDown, getF_setF_within _ _ _ _ _ _ _ (by decide) (by omega), hbit, Nat.sub_zero, field_sub_bit]

/-- The counts of the edge stand as they did. -/
theorem getF_takenDown_counts (s : State) (st : Stall) (e : Fin 4) (i : Fin 24) (b n : Nat) (h : 24 ≤ b) :
    getF (takenDown s st e i) (edgeReg st e) b n = getF s (edgeReg st e) b n := by
  rw [takenDown, getF_setF_field _ _ _ _ _ _ _ (by decide) (by omega)]

theorem exec_crossingCrcError_replays {s : State} {st : Stall} {e : Fin 4} {i : Fin 24} (hon : poweredUp s = true)
    (hup : (crossOf s st e i).failed = false) (hleft : (crossOf s st e i).replays < 3) :
    exec (.crossingCrcError st e i) s = .next (ended s (putCross
      (satF (satF s (edgeReg st e) 32 16 1) (edgeReg st e) 48 16 1) st e i
      { crossOf s st e i with replays := (crossOf s st e i).replays + 1 })) := by
  refine (finish_on s _ hon).trans ?_
  simp only [hup, hleft, Bool.false_eq_true, if_false, if_true]

theorem exec_crossingCrcError_spent {s : State} {st : Stall} {e : Fin 4} {i : Fin 24} (hon : poweredUp s = true)
    (hup : (crossOf s st e i).failed = false) (hspent : 3 ≤ (crossOf s st e i).replays) :
    exec (.crossingCrcError st e i) s = .next (ended s (takenDown
      (putCross (satF s (edgeReg st e) 32 16 1) st e i { crossOf s st e i with failed := true }) st e i)) := by
  refine (finish_on s _ hon).trans ?_
  simp only [hup, Nat.not_lt.mpr hspent, Bool.false_eq_true, if_false, takenDown]

theorem exec_spareCrossingTakeover_on (s : State) (st : Stall) (e : Fin 4) (i : Fin 24) (h : poweredUp s = true) :
    exec (.spareCrossingTakeover st e i) s = .next (ended s (spareCrossing s st e i)) :=
  finish_on s _ h

/-- A failed crossing as a spare of its edge serves it: the next number of spares in use, and its up bit, are shown. -/
def spareServes (s : State) (st : Stall) (e : Fin 4) (i : Fin 24) (n : Fin 2) : State :=
  setF (setF (putCross s st e i { crossOf s st e i with failed := false, replays := 0, spare := some n })
    (edgeReg st e) 24 2 (n.val + 1)) (edgeReg st e) i.val 1 1

theorem crossOf_spareServes (s : State) (st : Stall) (e : Fin 4) (i : Fin 24) (n : Fin 2) :
    crossOf (spareServes s st e i n) st e i = { crossOf s st e i with failed := false, replays := 0, spare := some n } := by
  rw [spareServes, crossOf_setF, crossOf_setF, crossOf_putCross]

/-- The edge shows one spare more in use. -/
theorem getF_spareServes_used (s : State) (st : Stall) (e : Fin 4) (i : Fin 24) (n : Fin 2) :
    getF (spareServes s st e i n) (edgeReg st e) 24 2 = n.val + 1 := by
  rw [spareServes, getF_setF_field _ _ _ _ _ _ _ (by omega) (by omega), getF_setF_same _ _ _ _ _ (by decide)]
  omega

theorem getF_spareServes_up (s : State) (st : Stall) (e : Fin 4) (i : Fin 24) (n : Fin 2) :
    getF (spareServes s st e i n) (edgeReg st e) i.val 1 = 1 := by
  rw [spareServes, getF_setF_same _ _ _ _ _ (by omega), Nat.pow_one]

theorem repairs_spareServes (s : State) (st : Stall) (e : Fin 4) (i : Fin 24) (n : Fin 2) :
    (spareServes s st e i n).svc.repairs = s.svc.repairs := by
  rw [spareServes, setF_svc, setF_svc, putCross, onYard_svc]

/-- The takeover is recorded as an event and kept as a repair. -/
def spareRecorded (s : State) (st : Stall) (e : Fin 4) (i : Fin 24) : State :=
  addRepair (emit s (srcGroom s) 0x0B83 (st.val <<< 8) (e.val * 24 + i.val)) 4 st.val (e.val * 24 + i.val)

theorem spareCrossing_free {s : State} {st : Stall} {e : Fin 4} {i : Fin 24} (hdown : (crossOf s st e i).failed = true)
    (hfree : getF s (edgeReg st e) 24 2 < 2) :
    spareCrossing s st e i = spareRecorded (spareServes s st e i ⟨getF s (edgeReg st e) 24 2, hfree⟩) st e i := by
  simp only [spareCrossing, hdown, hfree, Bool.not_true, Bool.false_eq_true, if_false, dite_true, spareServes, spareRecorded]

theorem crossOf_spareRecorded (s : State) (st st' : Stall) (e e' : Fin 4) (i i' : Fin 24) :
    crossOf (spareRecorded s st e i) st' e' i' = crossOf s st' e' i' := by
  rw [spareRecorded, crossOf_addRepair, crossOf_emit]

theorem getF_spareRecorded (s : State) (st : Stall) (e : Fin 4) (i : Fin 24) (a lo len : Nat) :
    getF (spareRecorded s st e i) a lo len = getF s a lo len := by
  rw [spareRecorded, getF_addRepair, getF_emit]

theorem repairs_spareRecorded (s : State) (st : Stall) (e : Fin 4) (i : Fin 24) (h : s.svc.repairs.length < 16384) :
    (spareRecorded s st e i).svc.repairs.length = s.svc.repairs.length + 1 := by
  rw [spareRecorded, addRepair_length _ _ _ _ (by rw [emit_svc]; exact h), emit_svc]

/-! ### The steps of the islands (02 R52, R53; 14 R437) -/

theorem exec_frequencyChange_on (s : State) (st : Stall) (i : Island) (vf : Fin 32) (droop : Bool) (h : poweredUp s = true) :
    exec (.frequencyChange st i vf droop) s
      = .next (ended s (settleIsland s (putLimit s st i { limitOf s st i with vf := asStep vf.val, droop := droop }) st i)) :=
  finish_on s _ h

@[simp] theorem limitOf_putLimit (s : State) (st : Stall) (i : Island) (l : IslLimit) : limitOf (putLimit s st i l) st i = l :=
  mget_mset_same _ _ _ _

theorem limitOf_frequencyEvent (s : State) (st st' : Stall) (i i' : Island) : limitOf (frequencyEvent s st i) st' i' = limitOf s st' i' :=
  (rfl)

theorem limitOf_ended (s t : State) (st : Stall) (i : Island) : limitOf (ended s t) st i = limitOf t st i := by
  simp only [limitOf, ended_yard]

/-- As an island settles only its cycle count goes on; its limits stand. -/
theorem limitOf_settleIsland (s t : State) (st : Stall) (i : Island) :
    ∃ cyc since, limitOf (settleIsland s t st i) st i = { limitOf t st i with cyc := cyc, since := since } := by
  unfold settleIsland
  split
  · exact ⟨_, _, rfl⟩
  · dsimp only
    split
    · split
      · exact ⟨_, _, rfl⟩
      · rw [limitOf_frequencyEvent]; exact ⟨_, _, rfl⟩
    · split
      · rw [limitOf_putLimit]; exact ⟨_, _, rfl⟩
      · rw [limitOf_frequencyEvent, limitOf_putLimit]; exact ⟨_, _, rfl⟩

theorem asStep_of_ge_seven (vf : Fin 32) (h : 7 ≤ vf.val) : asStep vf.val = vf := by
  apply Fin.ext
  simp only [asStep]
  omega

/-- No island runs faster than its loop allows. -/
theorem islandStep_le_vf (s : State) (st : Stall) (i : Island) : islandStep s st i ≤ (limitOf s st i).vf.val := by
  simp only [islandStep, List.foldl_cons, List.foldl_nil]
  omega

/-- Settles O6, by what each command of the yard does where the stall's units run and are clocked. -/
theorem yardCommandsComplete : Obligations.YardCommandsComplete := by
  refine ⟨?_, ⟨?_, ?_⟩, ⟨?_, ?_, ?_⟩, ?_⟩
  · intro s st site d src t hon hrun hmov hchoice ws outs hgrant left
    refine ⟨?_, ?_⟩
    · rw [exec_linkServe_on s st site d false hon, linkServe_serves false hrun hmov hchoice hgrant]
      rfl
    · rw [exec_linkServe_on s st site d true hon, linkServe_serves true hrun hmov hchoice hgrant]
      rfl
  · intro s st site lane high tok w hon hrun hhead hcfg hopen hkind hfmt hsig hmat haccept
    refine ⟨?_, loadHalf_of_not_mat s st w tok⟩
    rw [exec_tokenArrival_on s st site .loc lane high hon, tokenArrival_accepts hrun hhead hopen hcfg hkind hfmt hsig hmat haccept]
  · intro s st site lane high tok hon hrun hhead hcfg hopen
    rw [exec_tokenArrival_on s st site .loc lane high hon, tokenArrival_without_route hrun hhead hopen hcfg]
  · exact fun s st e i => exec_crossingCrcError_replays
  · intro s st e i hon hup hspent
    refine ⟨_, exec_crossingCrcError_spent hon hup hspent, ?_, ?_, ?_⟩
    · rw [crossOf_ended, takenDown, crossOf_setF, crossOf_putCross]
    · rw [getF_ended, getF_takenDown_up]
    · rw [getF_ended, getF_takenDown_counts _ _ _ _ _ _ (by decide), getF_putCross]
      exact getF_satF_same s (edgeReg st e) 32 16 1 (by decide)
  · intro s st e i hon hdown hfree hrepairs
    refine ⟨_, (exec_spareCrossingTakeover_on s st e i hon).trans (by rw [spareCrossing_free hdown hfree]), ?_⟩
    rw [crossOf_ended, crossOf_spareRecorded, crossOf_spareServes, getF_ended, getF_spareRecorded, getF_spareServes_used, getF_ended,
      getF_spareRecorded, getF_spareServes_up, ended_svc,
      repairs_spareRecorded _ _ _ _ (by rw [repairs_spareServes]; exact hrepairs), repairs_spareServes]
    exact ⟨rfl, rfl, rfl, rfl, rfl⟩
  · intro s st i vf droop hon
    refine ⟨exec_frequencyChange_on s st i vf droop hon, fun h7 => ⟨_, exec_frequencyChange_on s st i vf droop hon, ?_⟩⟩
    obtain ⟨cyc, since, hlimit⟩ := limitOf_settleIsland s
      (putLimit s st i { limitOf s st i with vf := asStep vf.val, droop := droop }) st i
    rw [limitOf_putLimit] at hlimit
    have hend := (limitOf_ended s _ st i).trans hlimit
    have hvf := (congrArg IslLimit.vf hend).trans (asStep_of_ge_seven vf h7)
    exact ⟨hvf, congrArg IslLimit.droop hend, Nat.le_trans (islandStep_le_vf _ st i) (Nat.le_of_eq (congrArg Fin.val hvf))⟩

/-! ### A unit's firing (02 R50; 03 R72, R73; 04 R108) -/

theorem exec_unitFire_on (s : State) (st : Stall) (site : Site) (tag : BitVec 16) (ecc : Ecc) (h : poweredUp s = true) :
    exec (.unitFire st site tag ecc) s = .next (ended s (unitFire s st site tag ecc)) :=
  finish_on s _ h

theorem exec_steerForward_on (s : State) (st : Stall) (site : Site) (tag : BitVec 16) (h : poweredUp s = true) :
    exec (.steerForward st site tag) s = .next (ended s (steerForward s st site tag)) :=
  finish_on s _ h

theorem exec_memEntry_on (s : State) (st : Stall) (site : Site) (i : Fin 8) (tag : BitVec 16) (h : poweredUp s = true) :
    exec (.memEntry st site i tag) s = .next (ended s (memEntry s st site i tag)) :=
  finish_on s _ h

section
variable {s : State} {st : Stall} {site : Site} {tag : BitVec 16} {ecc : Ecc} {w : BitVec 4096}
variable (hcfg : cfgOf (unitOf s st site) (unitOf s st site).active = some w)
variable (hgo : unitGo s st (unitOf s st site) (unitOf s st site).active = true)
include hcfg hgo

/-- A MAT with an instruction latched takes the next operand set of its tag. -/
theorem unitFire_mat {p : MatPos} {q : MatIssue} (hplain : hdrSteer w = false) (ht : siteType site = .mat)
    (hp : mfind (unitOf s st site).mat (unitOf s st site).active.val = some p) (hq : p.issue = some q) (htag : p.tag = tag) :
    unitFire s st site tag ecc = matStep s st site w (unitOf s st site).active p q ecc := by
  simp only [unitFire, hcfg, hgo, hplain, ht, hp, hq, htag, Bool.not_true, Bool.false_eq_true, or_self, if_false, if_true]

/-- A feed unit sends the control word of the record of the tag that it may originate. -/
theorem unitFire_feed {d : Desc} {x : Tensor} (hplain : hdrSteer w = false) (ht : siteType site = .iou)
    (hroom : iouRoom s (unitOf s st site) w tag = true) (hfeed : feedDesc s st w tag = some (d, x))
    (hmay : mayOriginate s (unitOf s st site) (unitOf s st site).active tag = true) :
    unitFire s st site tag ecc = fireFeed s st site w (unitOf s st site).active tag d x := by
  have hne : SiteType.iou ≠ .mat := by decide
  simp only [unitFire, hcfg, hgo, hplain, ht, hroom, hfeed, hmay, if_neg hne, Bool.not_true, Bool.false_eq_true, or_self,
    if_false, if_true]

/-- Any other IOU moves the tiles of its block for the tag whose turn it is. -/
theorem unitFire_iou (hplain : hdrSteer w = false) (ht : siteType site = .iou)
    (hroom : iouRoom s (unitOf s st site) w tag = true) (hfeed : feedDesc s st w tag = none)
    (hturn : (if hdrSource w then sourceReady s .iou (unitOf s st site) w (unitOf s st site).active tag
      else firstTag .iou (unitOf s st site) w (unitOf s st site).active (enabledIn w) == some tag) = true) :
    unitFire s st site tag ecc = fireIou s st (siteBarrow site) w (unitOf s st site).active tag := by
  have hne : SiteType.iou ≠ .mat := by decide
  simp only [unitFire, hcfg, hgo, hplain, ht, hroom, hfeed, hturn, if_neg hne, Bool.not_true, Bool.false_eq_true, or_self,
    if_false, if_true]

/-- A MEM or an SFN fires for the tag whose turn it is once its outputs have room. -/
theorem unitFire_mem_sfn (hplain : hdrSteer w = false) (ht : siteType site = .mem ∨ siteType site = .sfn)
    (hroom : outputsRoom (siteType site) (unitOf s st site) w (unitOf s st site).active = true)
    (hturn : (if hdrSource w then sourceReady s (siteType site) (unitOf s st site) w (unitOf s st site).active tag
      else firstTag (siteType site) (unitOf s st site) w (unitOf s st site).active (enabledIn w) == some tag) = true) :
    unitFire s st site tag ecc = sourceFired
      (if siteType site = .mem then fireMem s st site w (unitOf s st site).active tag
       else fireSfn s st site w (unitOf s st site).active tag) st site w (unitOf s st site).active tag := by
  rcases ht with ht | ht <;> rw [ht] at hroom hturn
  · have hmat : SiteType.mem ≠ .mat := by decide
    have hiou : SiteType.mem ≠ .iou := by decide
    simp only [unitFire, hcfg, hgo, hplain, ht, hroom, hturn, if_neg hmat, if_neg hiou, Bool.not_true, Bool.false_eq_true, or_self,
      if_false, if_true]
  · have hmat : SiteType.sfn ≠ .mat := by decide
    have hiou : SiteType.sfn ≠ .iou := by decide
    have hmem : SiteType.sfn ≠ .mem := by decide
    simp only [unitFire, hcfg, hgo, hplain, ht, hroom, hturn, if_neg hmat, if_neg hiou, if_neg hmem, Bool.not_true, Bool.false_eq_true,
      or_self, if_false]

/-! ### Steering (03 R81, R84–R86) -/

section
variable {x : SteerIter} {t : Token}
variable (hiter : iterOf (unitOf s st site) (unitOf s st site).active tag = some x) (hsteer : hdrSteer w = true)
include hiter hsteer

theorem steerForward_forwards {o : Nat}
    (hhead : (entryOf (unitOf s st site) (unitOf s st site).active 0 tag).bind (fun e => e.toks.head?) = some t)
    (ho : steerOf (unitOf s st site) w (unitOf s st site).active x t = .forward o) :
    steerForward s st site tag = countFiring (putUnit s st site
      (pushOut (settleHead (unitOf s st site) (unitOf s st site).active (bumpAt x o)) (unitOf s st site).active o
        [{ outToken w (unitOf s st site).active tag o with
           payload := t.payload, poison := t.poison || x.bad.getD (x.settled / 64) false, last := t.last, sig := t.sig, sref := t.sref }]))
      st site (unitOf s st site).active := by
  simp only [steerForward, hcfg, hgo, hiter, hsteer, hhead, ho, Bool.not_true, Bool.false_eq_true, if_false]

theorem steerForward_consumes (hhead : (entryOf (unitOf s st site) (unitOf s st site).active 0 tag).bind (fun e => e.toks.head?) = some t)
    (ho : steerOf (unitOf s st site) w (unitOf s st site).active x t = .consume) (hsig : t.sig = false) :
    steerForward s st site tag = countFiring (putUnit s st site (settleHead (unitOf s st site) (unitOf s st site).active x))
      st site (unitOf s st site).active := by
  simp only [steerForward, hcfg, hgo, hiter, hsteer, hhead, ho, hsig, Bool.not_true, Bool.false_eq_true, if_false]

/-- With no data token waiting, an iteration all of whose tokens have come is closed. -/
theorem steerForward_closes (hhead : (entryOf (unitOf s st site) (unitOf s st site).active 0 tag).bind (fun e => e.toks.head?) = none)
    (hdata : x.settled = inTake w 0) (hctl : ctlNeed w ≤ x.ctl) :
    steerForward s st site tag = closeIter s st site w (unitOf s st site).active x := by
  simp only [steerForward, hcfg, hgo, hiter, hsteer, hhead, hdata, hctl, and_self, Bool.not_true, Bool.false_eq_true, if_false, if_true]

end

/-- A plain data token of an input that a record stores goes to its line (02 R51). -/
theorem memEntry_stores {i : Fin 8} {e : MatchEntry} {t : Token} {r : Nat} (ht : siteType site = .mem)
    (hentry : entryOf (unitOf s st site) (unitOf s st site).active i.val tag = some e) (hplain : hdrSteer w = false)
    (htok : e.toks[e.written]? = some t) (hrec : writeRec w i.val = some r) (hdata : t.kind = .data) (hscale : isScale t = false)
    (hacc : t.acc = false) (hvoid : t.void = false) (hmode : mrMode r ≠ 1) (hsig : t.sig = false) :
    memEntry s st site i tag = storeLine
      (putUnit s st site (setEntries (unitOf s st site) (unitOf s st site).active i.val
        (putEntry (entriesOf (unitOf s st site) (unitOf s st site).active i.val) { e with written := e.written + 1 })))
      st (siteIndex site)
      (lineAddr st (siteIndex site) r tag (slotIndex (e.toks.take (e.written + 1))) (lineCount (e.toks.take e.written)))
      t.payload t.live t.poison := by
  simp only [memEntry, hcfg, hgo, ht, hentry, hplain, htok, hrec, hdata, hscale, hacc, hvoid, hmode, hsig, ne_eq, not_true_eq_false,
    Bool.not_true, Bool.false_eq_true, or_self, if_false, Bool.false_and, decide_false]

end

/-- Settles O7, by what each type of unit does for the tag whose turn it is, and what a steering unit and a MEM do with their next
token. -/
theorem unitCommandsComplete : Obligations.UnitCommandsComplete := by
  refine ⟨⟨?_, ?_, ?_, ?_⟩, ⟨?_, ?_, ?_⟩, ?_⟩
  · intro s st site tag ecc w hon hcfg hgo hplain ht hroom hturn
    rw [exec_unitFire_on s st site tag ecc hon, unitFire_mem_sfn hcfg hgo hplain ht hroom hturn]
  · intro s st site tag ecc w hon hcfg hgo hplain ht hroom hfeed hturn
    rw [exec_unitFire_on s st site tag ecc hon, unitFire_iou hcfg hgo hplain ht hroom hfeed hturn]
  · intro s st site tag ecc w d x hon hcfg hgo hplain ht hroom hfeed hmay
    rw [exec_unitFire_on s st site tag ecc hon, unitFire_feed hcfg hgo hplain ht hroom hfeed hmay]
  · intro s st site tag ecc w p q hon hcfg hgo hplain ht hp hq htag
    rw [exec_unitFire_on s st site tag ecc hon, unitFire_mat hcfg hgo hplain ht hp hq htag]
  · intro s st site tag w x t o hon hgo hcfg hiter hsteer hhead ho
    rw [exec_steerForward_on s st site tag hon, steerForward_forwards hcfg hgo hiter hsteer hhead ho]
  · intro s st site tag w x t hon hgo hcfg hiter hsteer hhead ho hsig
    rw [exec_steerForward_on s st site tag hon, steerForward_consumes hcfg hgo hiter hsteer hhead ho hsig]
  · intro s st site tag w x hon hgo hcfg hiter hsteer hhead hdata hctl
    rw [exec_steerForward_on s st site tag hon, steerForward_closes hcfg hgo hiter hsteer hhead hdata hctl]
  · intro s st site i tag w e t r hon ht hgo hcfg hentry hplain htok hrec hdata hscale hacc hvoid hmode hsig
    rw [exec_memEntry_on s st site i tag hon,
      memEntry_stores hcfg hgo ht hentry hplain htok hrec hdata hscale hacc hvoid hmode hsig]

end Sys2Proof.Machine
end

section
/-! SUPPORT. The statements of power: what the input's voltage does, the limits of the islands, the wake timer, the quiesce time and the
pads (14; 02 R53). -/

namespace Sys2Proof.Machine

/-! ### The input (14 R434, R435) -/

theorem inputWarning_begins {s : State} {mv : Nat} {good : Bool} (hbad : mv < 4500 ∨ good = false)
    (hnone : inputWarn (setF (onPower s (fun p => { p with pwrgd := good })) grmSb 1 1 (flag good)) = false) :
    inputWarning s mv good =
      let u := setF (onPower s (fun p => { p with pwrgd := good })) grmSb 1 1 (flag good)
      let v := onPower (setF (setF u pwrInput 0 16 mv) pwrInput 48 3 1) (fun p => { p with
        warnSince := some u.time, lowest := BitVec.ofNat 16 mv, recoverSince := none })
      settleIslands u (emit (satF v pwrCnt 0 16 1) srcAon 0x0682 mv (flag (!good))) allIslands := by
  have hlow : ¬(4500 ≤ mv ∧ good = true) := by
    rintro ⟨hmv, hgood⟩
    rcases hbad with h | h
    · omega
    · exact Bool.noConfusion (h.symm.trans hgood)
  unfold inputWarning
  rw [if_neg hlow]
  dsimp only
  rw [hnone]
  rfl

theorem recoveryRestart_above {s : State} {mv : Nat} (hwarn : inputWarn s = true) (h : 4600 < mv) :
    recoveryRestart s mv
      = onPower (setF (setF s pwrInput 0 16 mv) pwrInput 48 3 2) (fun p => { p with recoverSince := some s.time }) := by
  rw [recoveryRestart, hwarn, if_neg (by decide), if_pos h]

theorem recoveryRestart_below {s : State} {mv : Nat} (hwarn : inputWarn s = true) (h : mv ≤ 4600) :
    recoveryRestart s mv = onPower (setF (lower s mv) pwrInput 48 3 1) (fun p => { p with recoverSince := none }) := by
  rw [recoveryRestart, hwarn, if_neg (by decide), if_neg (Nat.not_lt.mpr h)]

theorem inputRecovered_above {s : State} {mv : Nat} (hwarn : inputWarn s = true) (h : 4600 < mv) :
    inputRecovered s mv = settleIslands s (emit (setF (onPower
      (setF (setF s pwrInput 0 16 mv) pwrInput 48 3 0) (fun p => { p with pwrgd := true, warnSince := none, recoverSince := none }))
      grmSb 1 1 1) srcAon 0x0683 s.power.lowest.toNat ((s.time - s.power.warnSince.getD s.time) / 1000)) allIslands := by
  have hgo : ¬((!inputWarn s) = true ∨ mv ≤ 4600) := by
    rw [hwarn]
    rintro (hno | hle)
    · exact Bool.noConfusion hno
    · omega
  rw [inputRecovered, if_neg hgo]

/-- The first input above 60.5 V is recorded. -/
theorem highInput_first {s : State} {mv : Nat} (h : 6050 < mv) (hfirst : s.host.highAt = none) :
    highInput s mv = emit (onHost (setF s pwrInput 0 16 mv) (fun h => { h with highAt := some s.time })) srcAon 0x0688 mv 0 := by
  simp only [highInput, if_neg (Nat.not_le.mpr h), setF_host, hfirst, if_true, setF_time]

theorem exec_inputWarning_on (s : State) (mv : BitVec 16) (good : Bool) (h : poweredUp s = true) :
    exec (.inputWarning mv good) s = .next (ended s (inputWarning s mv.toNat good)) :=
  finish_on s _ h

theorem exec_recoveryRestart_on (s : State) (mv : BitVec 16) (h : poweredUp s = true) :
    exec (.recoveryRestart mv) s = .next (ended s (recoveryRestart s mv.toNat)) :=
  finish_on s _ h

theorem exec_inputRecovered_on (s : State) (mv : BitVec 16) (h : poweredUp s = true) :
    exec (.inputRecovered mv) s = .next (ended s (inputRecovered s mv.toNat)) :=
  finish_on s _ h

theorem exec_highInput_on (s : State) (mv : BitVec 16) (h : poweredUp s = true) :
    exec (.highInput mv) s = .next (ended s (highInput s mv.toNat)) :=
  finish_on s _ h

/-! ### Stops and starts by the input -/

/-- A command of the always-on island whose condition is met ends as its effect leaves the state. -/
theorem finishAon_met (s t : State) (c : Prop) [Decidable c] (h : c) : finishAon s (if c then t else s) = .next (ended s t) := by
  rw [if_pos h, finishAon]

theorem exec_powerFail_low {s : State} {mv : BitVec 16} (hon : s.power.on = true) (h : mv.toNat < 4100) :
    exec (.powerFail mv) s = .next (ended s (powerFailStop s mv.toNat 1)) :=
  finishAon_met s _ _ ⟨hon, h⟩

theorem exec_overVoltage_high {s : State} {mv : BitVec 16} (hon : s.power.on = true) (h : 6300 < mv.toNat) :
    exec (.overVoltage mv) s = .next (ended s (stopHard s 1 2)) :=
  finishAon_met s _ _ ⟨hon, h⟩

/-- The start after a stop keeps the stop's cause. -/
theorem exec_inputRestart_allowed {s : State} {mv : BitVec 16} (hoff : s.power.on = false)
    (h : (s.power.cause = 1 ∧ 4600 < mv.toNat) ∨ (s.power.cause = 2 ∧ mv.toNat < 6000)) :
    exec (.inputRestart mv) s = .next (ended s (startFrom s s.power.cause mv.toNat)) :=
  finishAon_met s _ _ ⟨Bool.not_eq_true' _ |>.mpr hoff, h⟩

theorem exec_coldStart_in_range {s : State} {mv : BitVec 16} {slot : Fin 8} (hoff : s.power.on = false) (hlo : 4600 < mv.toNat)
    (hhi : mv.toNat ≤ 6000) :
    exec (.coldStart mv slot) s
      = .next (ended s (startFrom (onPower s (fun p => { p with strap := slot })) s.power.cause mv.toNat)) :=
  finishAon_met s _ _ ⟨Bool.not_eq_true' _ |>.mpr hoff, hlo, hhi⟩

/-! ### Limits of the islands (02 R53; 14 R436) -/

theorem exec_thermalLimit_on (s : State) (st : Stall) (on : Bool) (x : Fin 32) (h : poweredUp s = true) :
    exec (.thermalLimit st on x) s = .next (ended s (setAllLimits s ((List.finRange 16).map (fun i => (st, i)))
      (fun _ _ _ l => { l with thermal := if on then some (asStep x.val) else none }))) :=
  finish_on s _ h

theorem exec_overCurrent_on (s : State) (ma : BitVec 16) (h : poweredUp s = true) :
    exec (.overCurrent ma) s = .next (ended s (overCurrent s ma.toNat)) :=
  finish_on s _ h

theorem exec_powerCapInterval_on (s : State) (w : BitVec 16) (h : poweredUp s = true) :
    exec (.powerCapInterval w) s = .next (ended s (powerCapInterval s w.toNat)) :=
  finish_on s _ h

theorem overCurrent_within {s : State} {ma : Nat} (h : ma ≤ 16000) :
    overCurrent s ma = setAllLimits (setF s pwrInput 16 16 ma) allIslands (fun _ _ _ l => { l with current := 31 }) :=
  if_pos h

theorem overCurrent_above {s : State} {ma : Nat} (h : 16000 < ma) :
    overCurrent s ma = setAllLimits (satF (unstated (setF s pwrInput 16 16 ma) 0x40).2 pwrCnt 48 16 1) allIslands (fun t st i l =>
      { l with current := asStep (islandStep t st i - 1
          - (unstated (setF s pwrInput 16 16 ma) 0x40).1 % max 1 (islandStep t st i)) }) :=
  if_neg (Nat.not_le.mpr h)

theorem powerCapInterval_above {s : State} {w : Nat}
    (h : getF (unstated (setF s pwrInput 32 16 w) 0x41).2 (aonReg 0x18) 0 16 < w) :
    powerCapInterval s w = setAllLimits (unstated (setF s pwrInput 32 16 w) 0x41).2 allIslands (fun t st i l =>
      { l with module := asStep (min l.module.val (islandStep t st i - 1 - (unstated (setF s pwrInput 32 16 w) 0x41).1 % 31)) }) :=
  if_pos h

theorem powerCapInterval_within {s : State} {w : Nat}
    (h : w ≤ getF (unstated (setF s pwrInput 32 16 w) 0x41).2 (aonReg 0x18) 0 16) :
    powerCapInterval s w = setAllLimits (unstated (setF s pwrInput 32 16 w) 0x41).2 allIslands
      (fun _ _ _ l => { l with module := asStep (l.module.val + (unstated (setF s pwrInput 32 16 w) 0x41).1 % 32) }) :=
  if_neg (Nat.not_lt.mpr h)

/-- A step below 7 is step 7 whether it is raised before or after the lower of two is taken. -/
theorem asStep_min_max_seven (a b : Nat) : asStep (min a (max 7 b)) = asStep (min a b) := by
  apply Fin.ext
  simp only [asStep]
  omega

/-! ### The wake timer, the quiesce time, the pads (14 R427–R429, R432) -/

/-- In DORM the wake timer that is set and enabled wakes the module. -/
theorem exec_wakeTimer_dorm {s : State} (hon : s.power.on = true) (hdorm : pstate s = 3) (hen : wakeEnabled s 2 = true)
    (hset : getF s (aonReg 0x28) 0 32 ≠ 0) : exec .wakeTimer s = .next (ended s (wakeBy s 2)) :=
  finishAon_met s _ _ ⟨hon, by rw [hdorm]; rfl, hen, hset⟩

theorem wakeBy_no_entry {s : State} (source : Fin 4) (hentry : s.power.entry = none) (hp : pstate s = 2 ∨ pstate s = 3) :
    wakeBy s source = exitToRun s false 0 := by
  simp only [wakeBy, hentry, if_pos hp]

/-- The wake source that the record of a quiesce time-out names: the wake that came, else a free one (log entry 102). -/
def timeoutSource (s : State) (e : PwrEntry) : Nat :=
  match e.wake with
  | some w => w.val
  | none => (unstated s 0x42).1 % 4

theorem quiesceTimeout_abandons {s : State} {e : PwrEntry} (hentry : s.power.entry = some e) (hap : getF s pwrState 3 3 = 1)
    (hbusy : quiesced s e = false) :
    quiesceTimeout s = abandonEntry (unstated s 0x42).2 e 2 0x0605 (timeoutSource s e) := by
  have hnow : getF s pwrState 3 3 = 1 ∧ (!quiesced s e) = true := ⟨hap, by rw [hbusy]; rfl⟩
  unfold quiesceTimeout
  rw [hentry]
  exact if_pos hnow

theorem exec_quiesceTimeout_on (s : State) (h : poweredUp s = true) : exec .quiesceTimeout s = .next (ended s (quiesceTimeout s)) :=
  finish_on s _ h

theorem exec_padRelease_on {s : State} (w : Word) (hon : s.power.on = true) :
    exec (.padRelease w) s = .next (ended s (writeReg s (aonReg 0x30) w.toNat (2 ^ 64 - 1))) :=
  finishAon_met s _ _ hon

/-- Settles O48: what each command of the input, the limits, the wake timer, the quiesce time and the pads does where its condition
is met. -/
theorem inputAndLimitsComplete : Obligations.InputAndLimitsComplete := by
  refine ⟨⟨?_, ?_, ?_, ?_, ?_⟩, ?_, ?_, ?_, ?_, ?_, fun s w => exec_padRelease_on w⟩
  · intro s mv good hon _ hbad u v hnone
    rw [exec_inputWarning_on s mv good hon]
    exact congrArg (fun t => Host.Outcome.next (ended s t)) (inputWarning_begins hbad hnone)
  · intro s mv hon hwarn
    refine ⟨fun h => ⟨?_, ?_⟩, fun h => ?_⟩
    · rw [exec_recoveryRestart_on s mv hon, recoveryRestart_above hwarn h]
    · rw [exec_inputRecovered_on s mv hon, inputRecovered_above hwarn h, grmSb]
    · rw [exec_recoveryRestart_on s mv hon, recoveryRestart_below hwarn h]
  · exact fun s mv hon => ⟨exec_powerFail_low hon, exec_overVoltage_high hon⟩
  · intro s mv hon h hfirst
    rw [exec_highInput_on s mv hon, highInput_first h hfirst]
  · intro s mv slot hoff
    refine ⟨fun hcause h => ?_, fun hcause h => ?_, exec_coldStart_in_range hoff⟩
    · rw [exec_inputRestart_allowed hoff (.inl ⟨hcause, h⟩), hcause]
    · rw [exec_inputRestart_allowed hoff (.inr ⟨hcause, h⟩), hcause]
  · exact exec_thermalLimit_on
  · intro s ma hon
    refine ⟨fun h => ?_, fun h => ?_⟩
    · rw [exec_overCurrent_on s ma hon, overCurrent_within h]
    · rw [exec_overCurrent_on s ma hon, overCurrent_above h]
  · intro s w hon
    refine ⟨fun h => ?_, fun h => ?_⟩
    · simp only [exec_powerCapInterval_on s w hon, powerCapInterval_above h, asStep_min_max_seven]
    · rw [exec_powerCapInterval_on s w hon, powerCapInterval_within h]
  · intro s hon hdorm hen hset
    refine ⟨exec_wakeTimer_dorm hon hdorm hen hset, fun hentry => ?_⟩
    rw [exec_wakeTimer_dorm hon hdorm hen hset, wakeBy_no_entry 2 hentry (.inr hdorm)]
  · intro s e hon hentry hap hbusy
    rw [exec_quiesceTimeout_on s hon]
    exact congrArg (fun t => Host.Outcome.next (ended s t)) (quiesceTimeout_abandons hentry hap hbusy)

end Sys2Proof.Machine
end

section
/-! SUPPORT. The statements of steering's capacity and of context slots: priority (03 R69), what an output of a steering unit takes
(R85), switches, loads and flushes of slots (R87–R92, R98, R100), the progress watch (R94, R95) and the refill of extensions (R96). -/

namespace Sys2Proof.Machine

/-! ### Priority (03 R69) -/

/-- Settles O5, by the kinds: data alone is of low priority. -/
theorem priorityFollowsKind : Obligations.PriorityFollowsKind := by
  intro t
  rw [highPriority]
  cases t.kind <;> rfl

/-! ### Capacity of a steering unit's outputs (03 R85) -/

/-- An output whose store has room gets the token, and else the token waits for it. -/
def sentWhenRoom (u : UnitSt) (c : Slot) (o : Nat) : Steered := if storeRoom u c o 1 then .forward o else .wait

/-- R85: a selected output takes the token within its capacity; past that output 7 does under ovf, within its own. -/
def withinCapacity (u : UnitSt) (w : BitVec 4096) (c : Slot) (x : SteerIter) (o : Nat) : Steered :=
  if emittedAt x o < outGive w o then sentWhenRoom u c o
  else if hdrOvf w && outEn w 7 && decide (emittedAt x 7 < outGive w 7) then sentWhenRoom u c 7
  else .drop false

theorem eq_of_sentWhenRoom_forward {u : UnitSt} {c : Slot} {o p : Nat} (h : sentWhenRoom u c o = .forward p) : o = p := by
  unfold sentWhenRoom at h
  split at h
  · exact Steered.forward.inj h
  · exact Steered.noConfusion h

/-- The output that a token goes to has not given its tokens of the iteration yet, be it the selected one or output 7. -/
theorem emittedAt_lt_of_withinCapacity {u : UnitSt} {w : BitVec 4096} {c : Slot} {x : SteerIter} {o p : Nat}
    (h : withinCapacity u w c x o = .forward p) : emittedAt x p < outGive w p := by
  unfold withinCapacity at h
  split at h
  next hroom => exact eq_of_sentWhenRoom_forward h ▸ hroom
  next =>
    split at h
    next hseven =>
      rw [Bool.and_eq_true, decide_eq_true_eq] at hseven
      exact eq_of_sentWhenRoom_forward h ▸ hseven.2
    next => exact Steered.noConfusion h

section
variable {u : UnitSt} {w : BitVec 4096} {c : Slot} {x : SteerIter} {t : Token}

/-- A token is forwarded by the rule of capacities alone. -/
theorem steerOf_forward {p : Nat} (h : steerOf u w c x t = .forward p) : ∃ o, withinCapacity u w c x o = .forward p := by
  unfold steerOf at h
  split at h
  next => exact Steered.noConfusion h
  next =>
    split at h
    next => exact Steered.noConfusion h
    next b _ =>
      dsimp only at h
      split at h
      next => exact Steered.noConfusion h
      next =>
        split at h
        next => exact Steered.noConfusion h
        next =>
          split at h
          next => exact Steered.noConfusion h
          next => exact ⟨field b.toNat 0 3, h⟩

/-- A data token whose selector names an enabled output goes by the rule of capacities. -/
theorem steerOf_selected {b : Byte} (hvoid : t.void = false) (hsel : x.sels[x.settled]? = some b) (hzero : field b.toNat 3 4 = 0)
    (hkeep : bitOf b.toNat 7 = false) (hen : outEn w (field b.toNat 0 3) = true) :
    steerOf u w c x t = withinCapacity u w c x (field b.toNat 0 3) := by
  simp only [steerOf, withinCapacity, sentWhenRoom, hvoid, hsel, hzero, hkeep, hen, ne_eq, not_true_eq_false, Bool.not_true,
    Bool.false_eq_true, if_false]

theorem withinCapacity_room {o : Nat} (hcap : emittedAt x o < outGive w o) (hroom : storeRoom u c o 1 = true) :
    withinCapacity u w c x o = .forward o := by
  rw [withinCapacity, if_pos hcap, sentWhenRoom, if_pos hroom]

/-- Past the capacity a token is dropped, unless ovf is set and output 7 is enabled and within its own. -/
theorem withinCapacity_full {o : Nat} (hcap : outGive w o ≤ emittedAt x o)
    (hseven : hdrOvf w = false ∨ outEn w 7 = false ∨ outGive w 7 ≤ emittedAt x 7) : withinCapacity u w c x o = .drop false := by
  have hno : ¬(hdrOvf w && outEn w 7 && decide (emittedAt x 7 < outGive w 7)) = true := by
    rw [Bool.and_eq_true, Bool.and_eq_true, decide_eq_true_eq]
    rintro ⟨⟨hovf, hen⟩, hlt⟩
    rcases hseven with h | h | h
    · exact Bool.noConfusion (h.symm.trans hovf)
    · exact Bool.noConfusion (h.symm.trans hen)
    · exact Nat.not_lt.mpr h hlt
  rw [withinCapacity, if_neg (Nat.not_lt.mpr hcap), if_neg hno]

theorem withinCapacity_overflow {o : Nat} (hcap : outGive w o ≤ emittedAt x o) (hovf : hdrOvf w = true) (hen : outEn w 7 = true)
    (hseven : emittedAt x 7 < outGive w 7) (hroom : storeRoom u c 7 1 = true) : withinCapacity u w c x o = .forward 7 := by
  rw [withinCapacity, if_neg (Nat.not_lt.mpr hcap), hovf, hen, decide_eq_true hseven, Bool.and_self, Bool.and_self,
    if_pos rfl, sentWhenRoom, if_pos hroom]

end

/-- A token past the capacity leaves the input store, and the slot's drop counter counts it. -/
theorem steerForward_drops {s : State} {st : Stall} {site : Site} {tag : BitVec 16} {w : BitVec 4096} {x : SteerIter} {t : Token}
    (hcfg : cfgOf (unitOf s st site) (unitOf s st site).active = some w)
    (hgo : unitGo s st (unitOf s st site) (unitOf s st site).active = true)
    (hiter : iterOf (unitOf s st site) (unitOf s st site).active tag = some x) (hsteer : hdrSteer w = true)
    (hhead : (entryOf (unitOf s st site) (unitOf s st site).active 0 tag).bind (fun e => e.toks.head?) = some t)
    (ho : steerOf (unitOf s st site) w (unitOf s st site).active x t = .drop false) (hsig : t.sig = false) :
    steerForward s st site tag = countFiring (putUnit s st site
      { settleHead (unitOf s st site) (unitOf s st site).active x with
        drops := mupd (settleHead (unitOf s st site) (unitOf s st site).active x).drops 0 (unitOf s st site).active.val
          (fun k => min (k + 1) (2 ^ 32 - 1)) }) st site (unitOf s st site).active := by
  simp only [steerForward, hcfg, hgo, hiter, hsteer, hhead, ho, hsig, Bool.not_true, Bool.false_eq_true, if_false]

/-- Settles O8: by the rule of capacities, and by what the unit does with a token that it drops. -/
theorem steeringRule : Obligations.SteeringRule := by
  refine ⟨?_, ?_, ?_⟩
  · intro u w c x t o h
    obtain ⟨_, hcap⟩ := steerOf_forward h
    exact emittedAt_lt_of_withinCapacity hcap
  · intro u w c x t b hvoid hsel hzero hkeep hen
    rw [steerOf_selected hvoid hsel hzero hkeep hen]
    refine ⟨withinCapacity_room, fun hcap => ⟨fun hovf => ?_, withinCapacity_overflow hcap, fun _ hseven => ?_⟩⟩
    · exact withinCapacity_full hcap (.inl hovf)
    · exact withinCapacity_full hcap (.inr hseven)
  · intro s st site tag w x t hon hgo hcfg hiter hsteer hhead ho hsig
    rw [exec_steerForward_on s st site tag hon, steerForward_drops hcfg hgo hiter hsteer hhead ho hsig]

/-! ### Switching to a slot (03 R88, R89) -/

theorem exec_contextSwitchRequest_on (s : State) (st : Stall) (r : Region) (c : Slot) (h : poweredUp s = true) :
    exec (.contextSwitchRequest st r c) s = .next (ended s (contextSwitch s st r c)) :=
  finish_on s _ h

theorem contextSwitch_halted {s : State} {st : Stall} {r : Region} {c : Slot} (h : rgnHalted s st r = true) :
    contextSwitch s st r c = rgnStatus s st r 0x0206 :=
  if_pos h

/-- The units of a region in a stall, each asked for the slot. -/
def switchAsked (s : State) (st : Stall) (r : Region) (c : Slot) : State :=
  each (stallUnits s st r) (fun s site => updUnit s st site (slotRequested r c)) s

section
variable {s : State} {st : Stall} {r : Region} {c : Slot}
variable (hgo : rgnHalted s st r = false)
include hgo

theorem contextSwitch_unloaded (hslot : rgnLoaded s st r c.val = false) : contextSwitch s st r c = rgnStatus s st r 0x0203 := by
  simp only [contextSwitch, hgo, hslot, Bool.not_false, Bool.false_eq_true, if_false, if_true]

/-- A request that changes something asks every unit, and shows the switch until the last one has made it. -/
theorem contextSwitch_asks (hslot : rgnLoaded s st r c.val = true) (hnew : rgnActive s st r ≠ c.val ∨ switchingOf s st r = true)
    (hunits : ∀ site ∈ stallUnits s st r, slotRegion (unitOf s st site) c r = true) :
    contextSwitch s st r c = if switchLeft (switchAsked s st r c) st r then setF (switchAsked s st r c) (rgnReg st r) 10 1 1
      else switchedTo (switchAsked s st r c) st r c := by
  have hchange : ¬(rgnActive s st r = c.val ∧ (!switchingOf s st r) = true) := by
    rintro ⟨hsame, hidle⟩
    rcases hnew with h | h
    · exact h hsame
    · rw [h] at hidle
      exact Bool.noConfusion hidle
  have hall : (stallUnits s st r).all (fun site => slotRegion (unitOf s st site) c r) = true := List.all_eq_true.mpr hunits
  simp only [contextSwitch, hgo, hslot, if_neg hchange, hall, Bool.not_true, Bool.false_eq_true, if_false, if_true]
  rfl

end

/-- A unit with its request applied. -/
def slotTaken (s : State) (st : Stall) (site : Site) (c : Slot) : State :=
  putUnit s st site { unitOf s st site with active := c, pendSwitch := none }

section
variable {s : State} {st : Stall} {site : Site} {c : Slot}
variable (hon : poweredUp s = true) (hpend : (unitOf s st site).pendSwitch = some c)
variable (hidle : midFiring s st site (unitOf s st site) = false)
include hon hpend hidle

theorem exec_unitSwitch_clear (hclear : unitRegion (unitOf s st site) c = none) :
    exec (.unitSwitch st site) s = .next (ended s (slotTaken s st site c)) := by
  refine (finish_on s _ hon).trans ?_
  simp only [unitSwitch, hpend, hidle, hclear, Bool.false_eq_true, if_false]
  rfl

/-- The last unit of a stall completes its switch there; the region's sequencer goes on with the last stall. -/
theorem exec_unitSwitch_region {r : Region} (hregion : unitRegion (unitOf s st site) c = some r) :
    exec (.unitSwitch st site) s = .next (ended s (seqSwitched (if switchLeft (slotTaken s st site c) st r
      then slotTaken s st site c else switchedTo (slotTaken s st site c) st r c) r)) := by
  refine (finish_on s _ hon).trans ?_
  simp only [unitSwitch, hpend, hidle, hregion, Bool.false_eq_true, if_false]
  rfl

end

/-! ### Loads and flushes of a slot (03 R90–R92, R98, R100) -/

/-- The fields of a write of YRD_CTX_LOAD, kept beside the status. -/
def ctxFieldsKept (s : State) (st : Stall) (w : Nat) : State :=
  setReg s (ctxReg st) (BitVec.ofNat 64 (field w 0 6 + field w 8 2 * 2 ^ 8 + field w 12 3 * 2 ^ 12 + getF s (ctxReg st) 32 16 * 2 ^ 32))

theorem ctxLoadWrite_load {s : State} {st : Stall} {w : Nat} (hrun : bitOf w 16 = true) (hload : bitOf w 13 = false) :
    ctxLoadWrite s st w = contextLoad (ctxFieldsKept s st w) st (asRegion (field w 0 6)) (asSlot (field w 8 2)) (bitOf w 12) (bitOf w 14)
      (getF (ctxFieldsKept s st w) (stallReg st 0x410) 0 48) := by
  simp only [ctxLoadWrite, hrun, hload, Bool.not_true, Bool.false_eq_true, if_false, ctxFieldsKept, asRegion, asSlot]

theorem ctxLoadWrite_flush {s : State} {st : Stall} {w : Nat} (hrun : bitOf w 16 = true) (hflush : bitOf w 13 = true) :
    ctxLoadWrite s st w = flushOnly (ctxFieldsKept s st w) st (asRegion (field w 0 6)) (asSlot (field w 8 2)) := by
  simp only [ctxLoadWrite, hrun, hflush, Bool.not_true, Bool.false_eq_true, if_false, if_true, ctxFieldsKept, asRegion, asSlot]

/-- Where the image of a slot came from is kept for a restart (16 R463). -/
def loadNoted (s : State) (st : Stall) (r : Region) (c : Slot) (src : Nat) : State :=
  match loadKey s st r c with
  | some k => onSvc s (fun v => { v with loads := mput v.loads k (BitVec.ofNat 48 src) })
  | none => s

def loadForgotten (s : State) (st : Stall) (r : Region) (c : Slot) : State :=
  match loadKey s st r c with
  | some k => onSvc s (fun v => { v with loads := mdel v.loads k })
  | none => s

/-- The image's records written, the slot loaded, and its lane open unless it is to be held. -/
def imageLoaded (s : State) (st : Stall) (r : Region) (c : Slot) (hold : Bool) (es : List ImageEntry) : State :=
  setF (setF (writeImage s st r c es) (rgnReg st r) (2 + c.val) 1 1) (rgnReg st r) (6 + c.val) 1 (flag (!hold))

/-- A checked image is loaded into a slot that is not loaded and whose lane is idle. -/
theorem contextLoad_checked {s : State} {st : Stall} {r : Region} {c : Slot} {flush hold : Bool} {src : Nat} {es : List ImageEntry}
    (hslot : rgnLoaded s st r c.val = false) (hempty : laneSum s st r c = 0) (hok : checkImage s st r c src = .ok es) :
    contextLoad s st r c flush hold src = endHalt (ctxStatus (loadNoted (imageLoaded s st r c hold es) st r c src) st 0) r := by
  simp only [contextLoad, hslot, hempty, hok, Bool.false_and, Bool.false_eq_true, false_and, ne_eq, not_true_eq_false, if_false]
  rfl

/-- A lane of a slot that is not loaded is flushed in any state of its region. -/
theorem flushOnly_idle {s : State} {st : Stall} {r : Region} {c : Slot} (hslot : rgnLoaded s st r c.val = false) :
    flushOnly s st r c = endHalt (ctxStatus (loadForgotten (flushLane s st r c) st r c) st 0) r := by
  simp only [flushOnly, hslot, Bool.false_eq_true, false_and, if_false]
  rfl

theorem exec_contextLoad_on (s : State) (st : Stall) (w : Word) (h : poweredUp s = true) :
    exec (.contextLoad st w) s = .next (ended s (seqsFill (ctxLoadWrite s st w.toNat))) :=
  finish_on s _ h

theorem exec_flushOnly_on (s : State) (st : Stall) (w : Word) (h : poweredUp s = true) :
    exec (.flushOnly st w) s = .next (ended s (ctxLoadWrite s st w.toNat)) :=
  finish_on s _ h

theorem exec_laneOpen_on (s : State) (st : Stall) (r : Region) (c : Slot) (h : poweredUp s = true) :
    exec (.laneOpen st r c) s = .next (ended s (laneOpen s st r c)) :=
  finish_on s _ h

/-! ### The progress watch (03 R94, R95) -/

theorem exec_progressWatchExpiry_on (s : State) (r : Region) (h : poweredUp s = true) :
    exec (.progressWatchExpiry r) s = .next (ended s (progressWatch s r)) :=
  finish_on s _ h

/-- The units that take part in the watch of a region's context. -/
def watchedIn (s : State) (r : Region) (c : Slot) : List Nat := (watched s r).filter (fun k => slotRegion (keyUnit s k) c r)

/-- The slow event names the first of the watched units that holds a token, and the watch counts anew. -/
def slowRecorded (s : State) (h : Stall) (r : Region) (c : Slot) : State :=
  rearm (watchOutcome (emit s (srcStall h 0x3F) 0x0287
    (keySite (((watchedIn s r c).find? (fun k => decide (0 < heldAt s k c))).getD 0)).val 0) h 0x0287) r

/-- Units that wait for nothing add no edge to the wait graph and no chain's end. -/
theorem waitsOf_collected_nil {s : State} {r : Region} {c : Slot} {us : List Nat} (h : ∀ k ∈ us, waitsOf s r c k = ([], [])) :
    (us.map (waitsOf s r c)).flatMap Prod.fst = [] ∧ (us.map (waitsOf s r c)).flatMap Prod.snd = [] := by
  have hwaits : ∀ e ∈ us.map (waitsOf s r c), e = ([], []) := List.forall_mem_map.mpr h
  exact ⟨List.flatMap_eq_nil_iff.mpr (fun e he => congrArg Prod.fst (hwaits e he)),
    List.flatMap_eq_nil_iff.mpr (fun e he => congrArg Prod.snd (hwaits e he))⟩

/-- Without a wait among the units there is no cycle and no chain, so the region is slow and neither extended nor halted. -/
theorem progressWatch_without_waits {s : State} {r : Region} {h : Stall} (hhome : regionHome s r = some h)
    (hdue : watchDue s h r (asSlot (rgnActive s h r)) = true)
    (hnone : ∀ k ∈ watchedIn s r (asSlot (rgnActive s h r)), waitsOf s r (asSlot (rgnActive s h r)) k = ([], [])) :
    progressWatch s r = slowRecorded s h r (asSlot (rgnActive s h r)) := by
  obtain ⟨hedges, hends⟩ := waitsOf_collected_nil hnone
  simp only [asSlot, watchedIn] at hdue hedges hends
  simp only [progressWatch, hhome, hdue, hedges, hends, smallest, List.filter_nil, List.filterMap_nil, List.flatMap_nil, List.append_nil,
    List.foldl_nil, List.contains_nil, List.any_nil, Bool.not_true, Bool.false_eq_true, ne_eq, not_true_eq_false, or_self, if_false]
  rfl

/-! ### Refill of an extension (03 R96) -/

theorem exec_extensionRefill_on (s : State) (st : Stall) (site : Site) (d : Dir) (lane : Slot) (high : Bool) (h : poweredUp s = true) :
    exec (.extensionRefill st site d lane high) s = .next (ended s (extensionRefill s st site d lane high)) :=
  finish_on s _ h

/-- A queue with the first tokens of its extension's head in its free entries. -/
def queueRefilled (u : UnitSt) (q : Nat) (x : Extension) : UnitSt :=
  setQueue u q (queueOf u q ++ x.head.take (4 - (queueOf u q).length))

/-- What the extension keeps of its head. -/
def refillLeft (u : UnitSt) (q : Nat) (x : Extension) : Extension := { x with head := x.head.drop (4 - (queueOf u q).length) }

/-- An extension that holds tokens refills its queue; with its last token it ends, which is recorded. -/
theorem extensionRefill_moves {s : State} {st : Stall} {site : Site} {d : Dir} {lane : Slot} {high : Bool} {e : Extension}
    (hext : extOf (unitOf s st site) (queueKey d lane high) = some e) (hheld : extCount e ≠ 0) :
    let u := unitOf s st site
    let q := queueKey d lane high
    let x := loadHead s (unitRegion u lane) e
    let v := queueRefilled u q x
    extensionRefill s st site d lane high
      = if extCount (refillLeft u q x) = 0 then
          emit (putUnit s st site { v with exts := mdel v.exts q }) (srcIsland st site) 0x0285 (queueArg site q) 0
        else putUnit s st site { v with exts := mput v.exts q (refillLeft u q x) } := by
  intro u q x v
  unfold extensionRefill
  dsimp only
  rw [hext]
  exact if_neg hheld

/-- Settles O9, by what each command of the context slots, the watch and the extensions does where its condition is met: a switch
tests a halt before an empty slot (log entry 31), a load is one step (log entry 32) and an extension's head is a record of 576 B
(log entry 33). -/
theorem contextAndWatchCommandsComplete : Obligations.ContextAndWatchCommandsComplete := by
  refine ⟨⟨?_, ?_, ?_, ?_, exec_laneOpen_on, ?_, ?_⟩, ?_, ?_⟩
  · intro s st r c hon hhalt
    rw [exec_contextSwitchRequest_on s st r c hon, contextSwitch_halted hhalt]
  · intro s st r c hon hgo hslot
    rw [exec_contextSwitchRequest_on s st r c hon, contextSwitch_unloaded hgo hslot]
  · intro s st r c hon hgo hslot hnew hunits u
    rw [exec_contextSwitchRequest_on s st r c hon, contextSwitch_asks hgo hslot hnew hunits]
    rfl
  · intro s st site c hon hpend hidle u
    exact ⟨exec_unitSwitch_clear hon hpend hidle, fun r => exec_unitSwitch_region hon hpend hidle⟩
  · intro s st w es hon hrun hload r c u src hslot hempty hok v
    rw [exec_contextLoad_on s st w hon, ctxLoadWrite_load hrun hload]
    exact congrArg (fun t => Host.Outcome.next (ended s (seqsFill t))) (contextLoad_checked hslot hempty hok)
  · intro s st w hon hrun hflush r c u hslot v
    rw [exec_flushOnly_on s st w hon, ctxLoadWrite_flush hrun hflush]
    exact congrArg (fun t => Host.Outcome.next (ended s t)) (flushOnly_idle hslot)
  · intro s r h hon hhome hdue us hnone
    rw [exec_progressWatchExpiry_on s r hon]
    exact congrArg (fun t => Host.Outcome.next (ended s t)) (progressWatch_without_waits hhome hdue hnone)
  · intro s st site d lane high e hon hext hheld u q n x left v
    rw [exec_extensionRefill_on s st site d lane high hon]
    exact congrArg (fun t => Host.Outcome.next (ended s t)) (extensionRefill_moves hext hheld)

end Sys2Proof.Machine
end

section
/-! SUPPORT. The statements of the matrix units and of the ledger's statistics: what a command leaves of a register that it does not
write, also where it writes memory (10 R305–R312), the count of a tile at its end (04 R116, R137), issue and its checks (04 R113,
R118), retirement and takeover (04 R134), folds and the advance (05 R162, R163, R175), and the return of a pre-pass (05 R170). -/

namespace Sys2Proof.Machine

/-! ### Registers that a step leaves alone -/

/-- The register at an address reads as it did. -/
def KeepsReg (a : Nat) (s t : State) : Prop := getReg t a = getReg s a

section
variable {a : Nat} {s t u : State}

theorem KeepsReg.refl (a : Nat) (s : State) : KeepsReg a s s := Eq.refl (getReg s a)

theorem KeepsReg.trans (h : KeepsReg a s t) (h2 : KeepsReg a t u) : KeepsReg a s u := Eq.trans h2 h

theorem KeepsReg.of_regs (h : t.regs = s.regs) : KeepsReg a s t := getReg_of_regs s t a h

theorem KeepsReg.getF (h : KeepsReg a s t) (lo len : Nat) : getF t a lo len = getF s a lo len :=
  congrArg (fun w : Word => field w.toNat lo len) h

/-- A step that is taken on a condition keeps a register when the step does. -/
theorem KeepsReg.ite {c : Prop} [Decidable c] (h : KeepsReg a s t) : KeepsReg a s (if c then t else s) := by
  split
  · exact h
  · exact .refl a s

theorem keepsReg_setF {b : Nat} (lo len v : Nat) (h : a ≠ b) : KeepsReg a s (setF s b lo len v) := getReg_setF_other s b a lo len v h

theorem keepsReg_satF {b : Nat} (lo len n : Nat) (h : a ≠ b) : KeepsReg a s (satF s b lo len n) := keepsReg_setF lo len _ h

theorem keepsReg_emit (src : BitVec 16) (c x y : Nat) : KeepsReg a s (emit s src c x y) := .of_regs rfl

theorem keepsReg_each {α : Type} {f : State → α → State} (h : ∀ s x, KeepsReg a s (f s x)) (l : List α) (s : State) :
    KeepsReg a s (each l f s) := by
  induction l generalizing s with
  | nil => exact .refl a s
  | cons x l ih => exact (h s x).trans (ih (f s x))

end

/-! ### A folded accumulator (05 R162, R178) -/

/-- An accumulator that is folded is free, and the fold is counted in LDG_FOLDED. -/
def accFreed (s : State) (st : Stall) (key : Nat) : State := satF { s with stats := mdel s.stats key } (stallReg st 0x140088) 0 32 1

/-- With its layer in the table and the record readable, a folded accumulator is added to the record. -/
theorem foldAcc_lands {s : State} {st : Stall} {key l : Nat} {x : StatAcc} (hst : st = ⟨key / 16 % 32, by omega⟩)
    (hkey : mfind s.stats key = some x) (hlayer : layerAddr (accFreed s st key) x.layer = some l)
    (hread : rangeCode (accFreed s st key) l 256 = 0) : foldAcc s key = foldInto (accFreed s st key) l x := by
  subst hst
  fun_cases foldAcc s key with
  | case1 hnone => cases hnone.symm.trans hkey
  | case2 y hy _ _ _ hout =>
    cases hy.symm.trans hkey
    exact nomatch hout.symm.trans hlayer
  | case3 y hy _ _ _ f hin =>
    cases hy.symm.trans hkey
    cases Option.some.inj (hin.symm.trans hlayer)
    rfl
  | case4 y hy _ _ _ f hin hno =>
    cases hy.symm.trans hkey
    cases Option.some.inj (hin.symm.trans hlayer)
    exact absurd hread hno

/-! ### Writes to memory keep the registers of the stalls (10 R305–R312, R318)

A name that is re-homed on the way counts its evictions in registers of the mangers, which lie above those of the stalls. -/

theorem copyFrame_regs (s : State) (src dst : Loc) : (copyFrame s src dst).regs = s.regs := by
  unfold copyFrame; split <;> rfl

theorem poisonFrame_regs (s : State) (l : Loc) : (poisonFrame s l).regs = s.regs := by
  unfold poisonFrame; split <;> rfl

theorem keepQuota_regs (s : State) (task : Nat) : (keepQuota s task).regs = s.regs := by
  unfold keepQuota; split <;> rfl

theorem rehouse_regs (s : State) (n : Nat) (r : HomeRec) (t f : Nat) : (rehouse s n r t f).regs = s.regs :=
  (keepQuota_regs _ _).trans (copyFrame_regs s _ _)

theorem touchName_regs (s : State) (n : Nat) : (touchName s n).regs = s.regs := by
  unfold touchName; split <;> rfl

theorem takeFrame_regs {s t : State} {tier f : Nat} {only : Option Nat} (h : takeFrame s tier only = some (f, t)) : t.regs = s.regs := by
  unfold takeFrame at h
  dsimp only at h
  split at h
  · cases h
  · cases h; rfl

/-- A placing that keeps the registers below those of the mangers. -/
def PlacingKeeps (a : Nat) (place : Placing) : Prop :=
  ∀ s n r u v f t, place s n r u = .ok (v, f, t) → KeepsReg a s t

section
variable {a : Nat} (ha : a < mangerReg 0 0)
include ha

theorem ne_homPin (t : Nat) : a ≠ homPin t := by
  unfold homPin mangerReg at *; omega

section
variable {place : Placing} (hp : PlacingKeeps a place)
include hp

theorem keepsReg_evictOne {s t : State} {tier turn : Nat} {skip left : List Nat}
    (h : evictOne place s tier turn skip = some (t, left)) : KeepsReg a s t := by
  unfold evictOne at h
  split at h
  next n r u _ _ =>
    dsimp only at h
    split at h
    · cases h; exact .refl a _
    next v f x hplace =>
      cases h
      exact (hp _ _ _ _ _ _ _ hplace).trans (.trans (.of_regs (rehouse_regs x n r v f))
        ((keepsReg_satF 32 32 1 (ne_homPin ha tier)).trans (keepsReg_emit _ _ _ _)))
  · cases h

theorem keepsReg_evictTo (fuel : Nat) (s : State) (tier turn : Nat) (skip : List Nat) :
    KeepsReg a s (evictTo place s tier turn skip fuel) := by
  induction fuel generalizing s turn skip with
  | zero => exact .refl a s
  | succ fuel ih =>
    unfold evictTo
    split
    · exact .refl a s
    · split
      · exact .refl a s
      next h => exact (keepsReg_evictOne ha hp h).trans (ih _ _ _)

theorem keepsReg_evictPool (s : State) (tier : Nat) : KeepsReg a s (evictPool place s tier) := by
  unfold evictPool
  split
  · exact .refl a s
  · exact .ite (keepsReg_evictTo ha hp _ s tier 0 [])

end

theorem keepsReg_allocIn {fuel : Nat} {s t : State} {task tier v f : Nat} {spill : Bool} {only : Option Nat}
    (h : allocIn s task spill only fuel tier = .ok (v, f, t)) : KeepsReg a s t := by
  induction fuel generalizing s t task spill only tier v f with
  | zero => cases h
  | succ fuel ih =>
    unfold allocIn at h
    split at h
    · split at h
      · split at h
        · cases h
        · exact ih h
      · cases h
    · dsimp only at h
      split at h
      next htake =>
        cases h
        exact (keepsReg_evictPool ha (fun _ _ _ _ _ _ _ hplace => ih hplace) s tier).trans (.of_regs (takeFrame_regs htake))
      · cases h

theorem keepsReg_rehome (s : State) (n : Nat) : KeepsReg a s (rehome s n) := by
  unfold rehome
  split
  · split
    · exact .refl a s
    · split
      · exact .refl a s
      · split
        · exact .refl a s
        next halloc =>
          exact (keepsReg_allocIn ha halloc).trans (.of_regs ((keepQuota_regs _ _).trans (poisonFrame_regs _ _)))
  · exact .refl a s

theorem keepsReg_touchAt (s : State) (b : Nat) : KeepsReg a s (touchAt s b) := by
  unfold touchAt
  split
  · split
    · exact .refl a s
    · exact (keepsReg_rehome ha s _).trans (.of_regs (touchName_regs _ _))
  · exact .refl a s

omit ha in
theorem writePiece_regs (s : State) (b : Nat) (d : List Byte) (poison : Bool) : (writePiece s b d poison).regs = s.regs := by
  have hmark (s : State) (mark n : Nat) : (markAfter s mark n poison).regs = s.regs := by
    unfold markAfter
    split
    · rfl
    · split <;> rfl
  unfold writePiece
  split
  · split
    · rfl
    · dsimp only
      split <;> split <;> exact hmark _ _ _
  · rfl
  · rfl

theorem keepsReg_writeRange (s : State) (b : Nat) (d : List Byte) (poison : Bool) : KeepsReg a s (writeRange s b d poison) := by
  have hpieces (l : List (Nat × Nat)) (d : List Byte) (s : State) : KeepsReg a s (writePieces s poison l d) := by
    induction l generalizing d s with
    | nil => exact .refl a s
    | cons p l ih => exact (KeepsReg.of_regs (writePiece_regs s p.1 _ poison)).trans (ih _ _)
  exact (keepsReg_each (keepsReg_touchAt ha) _ s).trans (hpieces _ _ _)

/-! ### Statistics keep the registers of the stalls but those of the folds (05 R162) -/

theorem keepsReg_foldInto (s : State) (b : Nat) (x : StatAcc) : KeepsReg a s (foldInto s b x) := by
  have hwrite (s : State) (p : Nat) (d : List Byte) : KeepsReg a s (writeRange s p d false) := keepsReg_writeRange ha s p d false
  unfold foldInto
  refine .trans (.ite ?_) (.trans (keepsReg_each (fun s e => hwrite s _ _) _ _)
    (.trans (keepsReg_each (fun s e => hwrite s _ _) _ _) (hwrite _ _ _)))
  exact ((hwrite _ _ _).trans (hwrite _ _ _)).trans ((hwrite _ _ _).trans (hwrite _ _ _))

omit ha in
theorem keepsReg_refuseAt (s : State) (src : BitVec 16) (b n : Nat) : KeepsReg a s (refuseAt s src b n) := by
  unfold refuseAt
  split
  · exact .refl a s
  · exact keepsReg_emit _ _ _ _

section
variable (hfold : ∀ st, a ≠ stallReg st 0x140088)
include hfold

omit ha in
theorem keepsReg_accFreed (s : State) (st : Stall) (key : Nat) : KeepsReg a s (accFreed s st key) :=
  keepsReg_satF (s := { s with stats := mdel s.stats key }) 0 32 1 (hfold st)

theorem keepsReg_foldAcc (s : State) (key : Nat) : KeepsReg a s (foldAcc s key) := by
  fun_cases foldAcc s key with
  | case1 => exact .refl a s
  | case2 => exact (keepsReg_accFreed hfold s _ key).trans (keepsReg_emit _ _ _ _)
  | case3 => exact (keepsReg_accFreed hfold s _ key).trans (keepsReg_foldInto ha _ _ _)
  | case4 => exact (keepsReg_accFreed hfold s _ key).trans (keepsReg_refuseAt _ _ _ _)

theorem keepsReg_gather (s : State) (st : Stall) (isl : Island) (layer : Nat) (c : Counts) : KeepsReg a s (gather s st isl layer c) := by
  unfold gather
  split
  · exact keepsReg_emit _ _ _ _
  · extract_lets mine next
    split
    next s' key hroom =>
    suffices h : KeepsReg a s s' from h.trans (.of_regs rfl)
    split at hroom
    · cases hroom
      exact .refl a s
    · split at hroom
      · cases hroom
        exact .refl a s
      · split at hroom
        · cases hroom
          exact (keepsReg_foldAcc ha hfold s _).trans (keepsReg_satF _ _ _ (hfold _))
        · cases hroom
          exact .refl a s

end

end

/-! ### A tile's end counts the tile (04 R116, R137) -/

theorem exec_tileEnd_on (s : State) (st : Stall) (mat : Fin 256) (ecc : Ecc) (h : poweredUp s = true) :
    exec (.tileEnd st mat ecc) s = .next (ended s (tileEnd s st mat ecc)) :=
  finish_on s _ h

theorem stallReg_add (st : Stall) (off n : Nat) : stallReg st off + n = stallReg st (off + n) := Nat.add_assoc _ off n

/-- MAT_TILES is no register at another offset within its 64 bytes. -/
theorem matTiles_ne {st st2 : Stall} {k off : Nat} (h : off % 64 ≠ 0x10) : matReg st k 0x10 ≠ stallReg st2 off := by
  unfold matReg stallReg regSpace
  omega

/-- MAT_TILES is no register of the SFNs. -/
theorem matTiles_ne_sfn {st : Stall} {k off : Nat} (hk : k < 256) (h : 0x120000 ≤ off) : matReg st k 0x10 ≠ stallReg st off := by
  unfold matReg stallReg
  omega

theorem matTiles_lt_mangers {st : Stall} {k : Nat} (hk : k < 256) : matReg st k 0x10 < mangerReg 0 0 := by
  unfold matReg stallReg mangerReg
  omega

theorem updUnit_regs (s : State) (st : Stall) (site : Site) (f : UnitSt → UnitSt) : (updUnit s st site f).regs = s.regs := rfl

theorem countFiring_regs (s : State) (st : Stall) (site : Site) (c : Slot) : (countFiring s st site c).regs = s.regs := by
  fun_cases countFiring s st site c <;> rfl

section
variable {st : Stall} {k : Nat}

theorem keepsTiles_matNote (s : State) (site : Site) : KeepsReg (matReg st k 0x10) s (matNote s st site) := by
  fun_cases matNote s st site with
  | case1 => exact .refl _ s
  | case2 u w p _ _ now _ reg waited =>
    have hdrain : matReg st k 0x10 ≠ reg + 8 := by
      rw [stallReg_add]
      exact matTiles_ne (by omega)
    have hwaited : KeepsReg (matReg st k 0x10) s waited :=
      (keepsReg_satF _ _ _ (matTiles_ne (by omega))).trans (keepsReg_satF _ _ _ hdrain)
    exact hwaited.trans (.of_regs (updUnit_regs _ _ _ _))
  | case3 => exact .refl _ s

theorem keepsTiles_matShow (s : State) (i v : Nat) : KeepsReg (matReg st k 0x10) s (matShow s st i v) := by
  unfold matShow
  split
  · exact .refl _ s
  · exact keepsReg_setF _ _ _ (matTiles_ne (by omega))

theorem keepsTiles_nextInstr (s : State) (site : Site) (w : BitVec 4096) (c : Slot) (p : MatPos) :
    KeepsReg (matReg st k 0x10) s (nextInstr s st site w c p) := by
  fun_cases nextInstr s st site w c p with
  | case1 => exact .of_regs (updUnit_regs _ _ _ _)
  | case2 => exact .trans (.of_regs (updUnit_regs _ _ _ _)) (keepsTiles_matShow _ _ _)

theorem keepsTiles_eccFound (s : State) (i : Nat) (e : Ecc) : KeepsReg (matReg st k 0x10) s (eccFound s st i e) := by
  fun_cases eccFound s st i e with
  | case1 => exact .refl _ s
  | case2 => exact keepsReg_satF _ _ _ (matTiles_ne (by omega))
  | case3 =>
    exact (keepsReg_satF _ _ _ (matTiles_ne (by omega))).trans
      ((keepsReg_emit _ _ _ _).trans (keepsReg_setF _ _ _ (matTiles_ne (by omega))))
  | case4 => exact (keepsReg_satF _ _ _ (matTiles_ne (by omega))).trans (keepsReg_emit _ _ _ _)

end

theorem keepsReg_noteArray {a : Nat} (s : State) (src : BitVec 16) (brec : Nat) : KeepsReg a s (noteArray s src brec) := by
  unfold noteArray
  exact .ite (keepsReg_emit _ _ _ _)

section
variable {s : State} {st : Stall} {mat : Fin 256} {w : BitVec 4096} {p : MatPos} {q : MatIssue}
variable (hcfg : cfgOf (unitOf s st (matSite mat)) (unitOf s st (matSite mat)).active = some w)
variable (hpos : mfind (unitOf s st (matSite mat)).mat (unitOf s st (matSite mat)).active.val = some p) (hissue : p.issue = some q)
variable (hgo : unitGo s st (unitOf s st (matSite mat)) (unitOf s st (matSite mat)).active = true)
variable (hlast : stepsOf q ≤ p.step) (hsteps : stepsOf q ≠ 0)
include hcfg hpos hissue hgo hlast hsteps

/-- A tile that ends is counted once: what leads up to the count and what follows it keep MAT_TILES. -/
theorem tileEnd_counts (ecc : Ecc) : getF (tileEnd s st mat ecc) (matReg st mat.val 0x10) 0 48
    = min (getF s (matReg st mat.val 0x10) 0 48 + 1) (2 ^ 48 - 1) := by
  fun_cases tileEnd s st mat ecc
  case case1 hp _ hnone =>
    cases hp.symm.trans hpos
    cases hnone.symm.trans hissue
  case case2 hp _ _ hq _ hidle =>
    cases hp.symm.trans hpos
    cases hq.symm.trans hissue
    rcases hidle with hearly | hheld | ⟨hzero, _⟩
    · exact absurd hearly (Nat.not_lt.mpr hlast)
    · rw [hgo] at hheld; cases hheld
    · exact absurd hzero hsteps
  case case3 =>
    rename_i _ _ _ drained claimed gathered arrayed before counted fired found
    have hsfn (n : Nat) : matReg st mat.val 0x10 ≠ stallReg st (0x120000 + 0x40 * siteIndex (sfnOfMat (matSite mat))) + n := by
      rw [stallReg_add]
      exact matTiles_ne_sfn mat.isLt (by omega)
    have hbefore : KeepsReg (matReg st mat.val 0x10) s before := by
      refine .trans (t := drained) (.of_regs rfl) (.trans (t := claimed) (.ite (keepsReg_emit _ _ _ _)) ?_)
      refine .trans (t := gathered) (.ite (keepsReg_gather (matTiles_lt_mangers mat.isLt)
        (fun _ => matTiles_ne (by decide)) _ _ _ _ _)) ?_
      refine .trans (t := arrayed) (.ite (keepsReg_noteArray _ _ _)) (.ite ?_)
      exact (keepsReg_satF _ _ _ (hsfn 0x10)).trans (keepsReg_satF _ _ _ (hsfn 0x20))
    have hcounted : getF counted (matReg st mat.val 0x10) 0 48 = min (getF s (matReg st mat.val 0x10) 0 48 + 1) (2 ^ 48 - 1) := by
      rw [← hbefore.getF]
      exact getF_satF_same _ _ _ _ _ (by decide)
    have hfound : KeepsReg (matReg st mat.val 0x10) counted found :=
      (keepsReg_setF 8 24 _ (matTiles_ne (by omega))).trans (.trans (.of_regs (countFiring_regs _ _ _ _)) (keepsTiles_eccFound _ _ _))
    exact ((hfound.trans (.ite (keepsTiles_nextInstr _ _ _ _ _))).trans (keepsTiles_matNote _ _)).getF 0 48 |>.trans hcounted
  case case4 hno => exact absurd hpos (hno _ _ hcfg)

end

/-! ### Issue (04 R113, R118) -/

theorem exec_matIssue_on (s : State) (st : Stall) (mat : Fin 256) (tag : BitVec 16) (h : poweredUp s = true) :
    exec (.matIssue st mat tag) s = .next (ended s (matIssue s st mat tag)) :=
  finish_on s _ h

/-- A MAT shows its slot and the instruction's index, and reads the descriptors that the instruction names. -/
def issueRead (s : State) (st : Stall) (mat : Fin 256) (c : Slot) (w : BitVec 4096) (i : Nat) : State :=
  each (matDescs (matInstr w i)) (fun s d => noteDesc s (.unit st (matSite mat)) d.1)
    (setF (setF s (matReg st mat.val 0) 3 2 c.val) (matReg st mat.val 0) 5 2 i)

/-- The status of an instruction that passed its checks, and the record of a layer that its C names outside the table. -/
def issuePassed (s : State) (st : Stall) (mat : Fin 256) (o : MatOps) : State :=
  noteLayer (setF s (matReg st mat.val 0) 32 16 0) (srcIsland st (matSite mat)) o.c

/-- The position of a tag at the first step of a latched instruction. -/
def issueStart (tag : BitVec 16) (i : Nat) (q : MatIssue) : MatPos := { tag := tag, instr := i, issue := some q }

/-- The latched instruction is the one under way, at its first tile. -/
def issueLatched (s : State) (st : Stall) (mat : Fin 256) (c : Slot) (p : MatPos) : State :=
  matNote (matShow (setF (updUnit s st (matSite mat) (fun u => putPos u c (some p))) (matReg st mat.val 0) 8 24 0) st mat.val 1) st (matSite mat)

section
variable {s : State} {st : Stall} {mat : Fin 256} {tag : BitVec 16} {w : BitVec 4096} {i : Nat} {c : Slot} {o : MatOps}
variable (hc : (unitOf s st (matSite mat)).active = c)
variable (hcfg : cfgOf (unitOf s st (matSite mat)) c = some w) (hgo : unitGo s st (unitOf s st (matSite mat)) c = true)
variable (hserves : ¬(getF s (matReg st mat.val 0) 0 3 = 2 ∨ getF s (matReg st mat.val 0) 0 3 = 3 ∨ getF s (matReg st mat.val 0) 0 3 = 5))
variable (hheld : (hdrSource w && (mfind (unitOf s st (matSite mat)).mat c.val).isNone) = false)
variable (hissuable : issuable (unitOf s st (matSite mat)) w c tag = some i) (hlegal : recordLegal (matInstr w i) = true)
variable (hcode : issueCode (issueRead s st mat c w i) w (matInstr w i) = 0)
variable (hops : matOps (issueRead s st mat c w i) (matInstr w i) = .ok o)
variable (htiles : tilesOf (latch (issuePassed (issueRead s st mat c w i) st mat o) (matInstr w i) o) ≠ 0)
include hc hcfg hgo hserves hheld hissuable hlegal hcode hops htiles

theorem matIssue_latches : matIssue s st mat tag
    = issueLatched (issuePassed (issueRead s st mat c w i) st mat o) st mat c
        (issueStart tag i (latch (issuePassed (issueRead s st mat c w i) st mat o) (matInstr w i) o)) := by
  subst hc
  unfold issueRead issuePassed at *
  simp only [matIssue, hcfg, hgo, hserves, hheld, hissuable, hlegal, hcode, hops, htiles, Bool.not_true, Bool.false_eq_true, Bool.false_and,
    false_or, if_true, if_false, issueLatched, issueStart]

end

/-! ### Retirement and takeover (04 R134, R137) -/

/-- The record of a write made by hand leaves the MAT's state as it stands. -/
theorem exec_matRetire_closes {s : State} {st : Stall} {mat : Fin 256} (hon : poweredUp s = true)
    (hserves : getF s (matReg st mat.val 0) 0 3 < 3) :
    exec (.matRetire st mat) s = .next (ended s (setF (handRecord s (srcStall st 0x3F)) (matReg st mat.val 0) 0 3 3)) := by
  have hstate : getF (handRecord s (srcStall st 0x3F)) (matReg st mat.val 0) 0 3 < 3 := hserves
  refine (finish_on s _ hon).trans ?_
  dsimp only
  rw [if_pos hstate]

theorem exec_matTakeover_on (s : State) (st : Stall) (mat : Fin 256) (h : poweredUp s = true) :
    exec (.matTakeover st mat) s = .next (ended s (matTakeover s st mat)) :=
  finish_on s _ h

/-- Hops between a MAT and an island's spare, as the registers hold them (log entry 39). -/
def spareHops (mat : Fin 256) (i : Nat) : Nat := min 15 (siteDist (matSite mat) (spareSite i))

/-- The spare of an island serves a MAT's site. -/
def spareServesMat (s : State) (st : Stall) (mat : Fin 256) (i : Nat) : State :=
  setF (setReg s (spareReg st i) (BitVec.ofNat 64
    (mat.val + 2 ^ 8 + (flag (i ≠ (islandOf (matSite mat)).val)) <<< 10 + (spareHops mat i) <<< 12))) (matReg st mat.val 0) 0 3 4

/-- A MAT that is being retired and has ended its tile is taken over by the spare that is chosen. -/
theorem matTakeover_by_spare {s u : State} {st : Stall} {mat : Fin 256} {i : Nat} (hstate : getF s (matReg st mat.val 0) 0 3 = 3)
    (hdone : tileDone s st (matSite mat) = true) (hspare : chooseSpare s st (islandOf (matSite mat)).val = (some i, u)) :
    matTakeover s st mat = addRepair (emit (spareServesMat u st mat i) (srcIsland st (matSite mat)) 0x0288 mat.val
      (i + (spareHops mat i) <<< 4)) 1 st.val ((matSite mat).val + i <<< 10) := by
  simp only [matTakeover, hstate, hdone, hspare, ne_eq, not_true_eq_false, Bool.not_true, Bool.false_eq_true, or_self, if_false]
  rfl

/-! ### Folds, the advance, the pre-pass (05 R162, R163, R170, R175) -/

theorem exec_statisticsFold_on (s : State) (st : Stall) (a : Fin 16) (h : poweredUp s = true) :
    exec (.statisticsFold st a) s = .next (ended s (foldAcc s (st.val * 16 + a.val))) :=
  finish_on s _ h

theorem exec_ldgFold_on (s : State) (st : Stall) (h : poweredUp s = true) :
    exec (.ldgFold st) s = .next (ended s (each (stallAccs s st) foldAcc s)) :=
  finish_on s _ h

theorem exec_ledgerAdvance_on (s : State) (h : poweredUp s = true) : exec .ledgerAdvance s = .next (ended s (ledgerAdvance s)) :=
  finish_on s _ h

/-- The stall of an accumulator's key. -/
theorem stall_of_accKey (st : Stall) (a : Fin 16) : st = ⟨(st.val * 16 + a.val) / 16 % 32, by omega⟩ := by
  apply Fin.ext
  dsimp only
  omega

theorem exec_prePassReturn_agrees {s : State} {b : BrwId} {exps : List Byte} {j : BrwJob} (hon : poweredUp s = true)
    (hjob : (brwOf s b).job = some j) (hpre : j.prepass.isSome = true) :
    exec (.prePassReturn b exps) s
      = .next (ended s (updBrw s b (fun x => { x with job := some { j with agreed := some exps, prepass := none } }))) := by
  refine (finish_on s _ hon).trans ?_
  rw [hjob]
  exact congrArg (fun t => Host.Outcome.next (ended s t)) (if_pos hpre)

/-- Settles O10, command by command: a tile's end changes MAT_TILES once, since no other step of it writes that register; a takeover's
hops are the distance of the two sites (log entry 39), its spare the island's own or a free choice next to it (log entry 15), and the
record of a retirement by hand has a free code (log entry 14). -/
theorem matAndLedgerCommandsComplete : Obligations.MatAndLedgerCommandsComplete := by
  refine ⟨⟨?_, ?_, ?_, ?_⟩, ?_, exec_ldgFold_on, exec_ledgerAdvance_on, ?_⟩
  · intro s st mat tag w i o hon hcfg hgo hnot2 hnot3 hnot5 hheld hissuable c r hlegal s1 hcode hops s2 htiles
    rw [exec_matIssue_on s st mat tag hon, matIssue_latches rfl hcfg hgo (by simp only [hnot2, hnot3, hnot5, or_self, not_false_eq_true])
      hheld hissuable hlegal hcode hops htiles]
    rfl
  · intro s st mat ecc w p q hon hcfg hpos hissue hgo hlast hsteps
    exact ⟨_, exec_tileEnd_on s st mat ecc hon, (getF_ended _ _ _ _ _).trans (tileEnd_counts hcfg hpos hissue hgo hlast hsteps ecc)⟩
  · intro s st mat hon hserves
    exact exec_matRetire_closes hon hserves
  · intro s st mat i u hon hstate hdone hspare
    rw [exec_matTakeover_on s st mat hon, matTakeover_by_spare hstate hdone hspare]
    rfl
  · intro s st a x l hon hkey u hlayer hread
    rw [exec_statisticsFold_on s st a hon, foldAcc_lands (stall_of_accKey st a) hkey hlayer hread]
    rfl
  · intro s b exps j hon hjob hpre
    exact exec_prePassReturn_agrees hon hjob hpre

end Sys2Proof.Machine
end

section
/-! SUPPORT. The statement of the numerics: the format that a ledger record gets (05 R164). -/

namespace Sys2Proof.Machine

/-! ### The decision (05 R164) -/

section
variable (s : State) (elems uf4 uf5 st8 : Nat)

theorem decide164_mode_one : decide164 s 1 elems uf4 uf5 st8 = 5 := rfl

theorem decide164_mode_two : decide164 s 2 elems uf4 uf5 st8 = 4 := rfl

theorem decide164_mode_three : decide164 s 3 elems uf4 uf5 st8 = 2 := rfl

/-- In mode 0 the three comparisons of R164 decide, in its order. -/
theorem decide164_mode_zero : decide164 s 0 elems uf4 uf5 st8
    = if overRate st8 elems (BitVec.ofNat 32 (field (getReg s (mangerReg 0 0x200020)).toNat 32 32)) then 2
      else if withinRate uf4 elems (BitVec.ofNat 32 (field (getReg s (mangerReg 0 0x200020)).toNat 0 32)) then 5
      else if withinRate uf5 elems (BitVec.ofNat 32 (field (getReg s (mangerReg 0 0x200028)).toNat 0 32)) then 4
      else 2 := rfl

end

/-- Settles O11: the modes other than 0 name their format, and in mode 0 the first comparison of R164 that holds does. -/
theorem ledgerFormatRule : Obligations.LedgerFormatRule := by
  refine ⟨?_, ?_, ?_, ?_⟩
  · intro s mode elems uf4 uf5 st8
    refine ⟨?_, ?_, ?_⟩
    · rintro rfl
      exact decide164_mode_one s elems uf4 uf5 st8
    · rintro rfl
      exact decide164_mode_two s elems uf4 uf5 st8
    · rintro rfl
      exact decide164_mode_three s elems uf4 uf5 st8
  · intro s elems uf4 uf5 st8 hsaturates
    rw [decide164_mode_zero, if_pos hsaturates]
  · intro s elems uf4 uf5 st8 hfits hwithin4
    rw [decide164_mode_zero, if_neg (ne_true_of_eq_false hfits), if_pos hwithin4]
  · intro s elems uf4 uf5 st8 hfits hexceeds4
    rw [decide164_mode_zero, if_neg (ne_true_of_eq_false hfits), if_neg (ne_true_of_eq_false hexceeds4)]

end Sys2Proof.Machine
end

section
/-! SUPPORT. The statements of region sequencers (06 R182–R189): the registers of a sequencer in its region's home stall, counting a
wait, stopping, and going on to an entry. -/

namespace Sys2Proof.Machine

/-! ### A region's home, and the registers of its sequencer (03 R103; 06 R182, R204) -/

/-- Only the yard decides where a region has its home. -/
theorem regionHome_of_yard {s t : State} (r : Region) (h : t.yard = s.yard) : regionHome t r = regionHome s r := by
  unfold regionHome regionStalls regionUnits stallLp stallState outColumn
  rw [h]

/-- The yard and the registers decide what a sequencer's register reads as. -/
theorem seqGet_of_regs {s t : State} (r : Region) (off lo len : Nat) (hy : t.yard = s.yard) (hr : t.regs = s.regs) :
    seqGet t r off lo len = seqGet s r off lo len := by
  simp only [seqGet, seqReg, regionHome_of_yard r hy, getF_of_regs s t _ lo len hr]

section
variable (s : State) (r : Region)

@[simp] theorem seqGet_putSeq (q : SeqSt) (off lo len : Nat) : seqGet (putSeq s r q) r off lo len = seqGet s r off lo len :=
  seqGet_of_regs r off lo len rfl rfl

theorem seqSet_home {st : Stall} (hhome : regionHome s r = some st) (off lo len v : Nat) :
    seqSet s r off lo len v = setF s (stallReg st (off + 8 * r.val)) lo len v := by
  simp only [seqSet, seqReg, hhome, Option.map_some]

theorem seqGet_home {st : Stall} (hhome : regionHome s r = some st) (off lo len : Nat) :
    seqGet s r off lo len = getF s (stallReg st (off + 8 * r.val)) lo len := by
  simp only [seqGet, seqReg, hhome, Option.map_some]

theorem seqSet_homeless (hhome : regionHome s r = none) (off lo len v : Nat) : seqSet s r off lo len v = s := by
  simp only [seqSet, seqReg, hhome, Option.map_none]

@[simp] theorem seqSet_yard (off lo len v : Nat) : (seqSet s r off lo len v).yard = s.yard := by
  unfold seqSet; split <;> rfl

@[simp] theorem seqSet_time (off lo len v : Nat) : (seqSet s r off lo len v).time = s.time := by
  unfold seqSet; split <;> rfl

@[simp] theorem seqOf_seqSet (off lo len v : Nat) : seqOf (seqSet s r off lo len v) r = seqOf s r := by
  unfold seqSet; split <;> rfl

/-- Two registers of one stall at different offsets stand apart. -/
theorem stallReg_ne {st : Stall} {a b : Nat} (h : a ≠ b) : stallReg st a ≠ stallReg st b :=
  fun he => h (Nat.add_left_cancel he)

theorem seqGet_seqSet_same (off lo len v : Nat) (hhome : (regionHome s r).isSome = true) (h : lo + len ≤ 64) :
    seqGet (seqSet s r off lo len v) r off lo len = v % 2 ^ len := by
  obtain ⟨st, hst⟩ := Option.isSome_iff_exists.mp hhome
  rw [seqGet_home _ r ((regionHome_of_yard r (seqSet_yard ..)).trans hst), seqSet_home s r hst, getF_setF_same s _ lo len v h]

/-- Another field of the register stays. -/
theorem seqGet_seqSet_field (off lo len v b n : Nat) (hw : lo + len ≤ 64) (h : b + n ≤ lo ∨ lo + len ≤ b) :
    seqGet (seqSet s r off lo len v) r off b n = seqGet s r off b n := by
  cases hhome : regionHome s r with
  | none => rw [seqSet_homeless s r hhome]
  | some st =>
    rw [seqGet_home _ r ((regionHome_of_yard r (seqSet_yard ..)).trans hhome), seqGet_home s r hhome, seqSet_home s r hhome,
      getF_setF_field s _ lo len v b n hw h]

/-- Another register stays. -/
theorem seqGet_seqSet_other (off off2 lo len v b n : Nat) (h : off2 ≠ off) :
    seqGet (seqSet s r off lo len v) r off2 b n = seqGet s r off2 b n := by
  cases hhome : regionHome s r with
  | none => rw [seqSet_homeless s r hhome]
  | some st =>
    rw [seqGet_home _ r ((regionHome_of_yard r (seqSet_yard ..)).trans hhome), seqGet_home s r hhome, seqSet_home s r hhome,
      getF_setF_other s _ _ lo len v b n (stallReg_ne (by omega))]

/-! ### Counting a wait, stopping (06 R187, R189) -/

/-- The cycles of a wait are counted in one of the two counters or in none, and from now on. -/
theorem seqCount_cases : ∃ u : State, (u = s ∨ ∃ off v, (off = 0x1000 ∨ off = 0x1200) ∧ u = seqSet s r off 0 48 v)
    ∧ seqCount s r = updSeq u r (fun q => { q with counted := u.time }) := by
  have hadd (off n : Nat) : (match seqReg s r off with | some a => satF s a 0 48 n | none => s)
      = seqSet s r off 0 48 (min (seqGet s r off 0 48 + n) (2 ^ 48 - 1)) := by
    unfold seqSet seqGet
    cases seqReg s r off <;> rfl
  have hcounter (held : Bool) : (if held then 0x1000 else 0x1200) = 0x1000 ∨ (if held then 0x1000 else 0x1200) = 0x1200 := by
    cases held
    · exact .inr rfl
    · exact .inl rfl
  unfold seqCount
  dsimp only
  split
  · split
    · exact ⟨s, .inl rfl, rfl⟩
    · exact ⟨_, .inr ⟨_, _, hcounter _, hadd _ _⟩, rfl⟩
  · exact ⟨_, .inr ⟨_, _, hcounter _, hadd _ _⟩, rfl⟩
  · exact ⟨_, .inr ⟨_, _, .inr rfl, hadd _ _⟩, rfl⟩
  · exact ⟨s, .inl rfl, rfl⟩

@[simp] theorem seqCount_yard : (seqCount s r).yard = s.yard := by
  obtain ⟨u, hu, heq⟩ := seqCount_cases s r
  rw [heq]
  obtain rfl | ⟨off, v, -, rfl⟩ := hu
  · rfl
  · exact seqSet_yard ..

@[simp] theorem seqCount_time : (seqCount s r).time = s.time := by
  obtain ⟨u, hu, heq⟩ := seqCount_cases s r
  rw [heq]
  obtain rfl | ⟨off, v, -, rfl⟩ := hu
  · rfl
  · exact seqSet_time ..

@[simp] theorem seqOf_seqCount : seqOf (seqCount s r) r = { seqOf s r with counted := s.time } := by
  obtain ⟨u, hu, heq⟩ := seqCount_cases s r
  rw [heq, updSeq, seqOf_putSeq]
  obtain rfl | ⟨off, v, -, rfl⟩ := hu
  · rfl
  · rw [seqOf_seqSet, seqSet_time]

/-- Registers other than the two counters stay. -/
theorem seqGet_seqCount (off lo len : Nat) (h : off < 0x1000) : seqGet (seqCount s r) r off lo len = seqGet s r off lo len := by
  obtain ⟨u, hu, heq⟩ := seqCount_cases s r
  rw [heq, updSeq, seqGet_putSeq]
  obtain rfl | ⟨off2, v, hoff, rfl⟩ := hu
  · rfl
  · exact seqGet_seqSet_other s r off2 off 0 48 v lo len (by omega)

theorem seqGet_emit (src : BitVec 16) (c a b off lo len : Nat) : seqGet (emit s src c a b) r off lo len = seqGet s r off lo len :=
  seqGet_of_regs r off lo len rfl rfl

/-- A stop leaves the sequencer stopped, with nothing asked of it. -/
theorem seqOf_seqStop (code : Nat) :
    seqOf (seqStop s r code) r = { seqOf s r with counted := s.time, phase := .stopped, stopReq := false, mapLeft := [] } := by
  change seqOf (seqSet (updSeq (seqCount s r) r _) r 0xE00 32 16 code) r = _
  rw [seqOf_seqSet, updSeq, seqOf_putSeq, seqOf_seqCount]

/-- A stop leaves the entry's index as it is shown. -/
theorem seqEntry_seqStop (code : Nat) : seqEntry (seqStop s r code) r = seqEntry s r := by
  unfold seqEntry seqStop updSeq
  dsimp only
  rw [seqGet_emit, seqGet_seqSet_field _ _ _ _ _ _ _ _ (by decide) (.inl (by decide)), seqGet_putSeq,
    seqGet_seqCount _ _ _ _ _ (by decide)]

/-! ### Going on to an entry (06 R184, R188, R189, R204) -/

/-- The wait is counted, and the index of the entry to go on to is shown. -/
def shownEntry (s : State) (r : Region) (idx : Nat) : State := seqSet (seqCount s r) r 0xE00 0 16 idx

/-- The sequencer as it stands at an entry that it has not read. -/
def unreadSeq (s : State) (r : Region) : SeqSt :=
  { phase := .waiting, since := s.time, counted := s.time, back := (seqOf s r).back, ahead := (seqOf s r).ahead
    batch := (seqOf s r).batch }

end

section
variable {s : State} {r : Region} {idx : Nat}

theorem seqEntry_shownEntry (hhome : (regionHome s r).isSome = true) : seqEntry (shownEntry s r idx) r = idx % 2 ^ 16 :=
  seqGet_seqSet_same _ r _ _ _ _ (by rwa [regionHome_of_yard r (seqCount_yard s r)]) (by decide)

theorem seqEntry_putSeq (q : SeqSt) : seqEntry (putSeq s r q) r = seqEntry s r := seqGet_putSeq s r q 0xE00 0 16

/-- Where a sequencer goes on: a stop asked for comes before the table's end. -/
theorem nextEntry_eq : nextEntry s r idx =
    if (seqOf s r).stopReq then putSeq (shownEntry s r idx) r { unreadSeq s r with phase := .stopped }
    else if seqGet s r 0xA00 48 16 < idx then seqStop (putSeq (shownEntry s r idx) r (unreadSeq s r)) r 0x0212
    else putSeq (shownEntry s r idx) r (unreadSeq s r) := by
  have htable : seqGet (shownEntry s r idx) r 0xA00 48 16 = seqGet s r 0xA00 48 16 :=
    (seqGet_seqSet_other _ r _ _ _ _ _ _ _ (by decide)).trans (seqGet_seqCount s r _ _ _ (by decide))
  have htime : (shownEntry s r idx).time = s.time := (seqSet_time ..).trans (seqCount_time s r)
  rw [← htable]
  unfold unreadSeq
  rw [← htime]
  unfold nextEntry
  dsimp only
  rw [seqOf_seqCount]
  rfl

theorem nextEntry_held (hstop : (seqOf s r).stopReq = true) :
    nextEntry s r idx = putSeq (shownEntry s r idx) r { unreadSeq s r with phase := .stopped } := by
  rw [nextEntry_eq, if_pos hstop]

theorem nextEntry_past (hstop : (seqOf s r).stopReq = false) (hpast : seqGet s r 0xA00 48 16 < idx) :
    nextEntry s r idx = seqStop (putSeq (shownEntry s r idx) r (unreadSeq s r)) r 0x0212 := by
  rw [nextEntry_eq, if_neg (ne_true_of_eq_false hstop), if_pos hpast]

theorem nextEntry_within (hstop : (seqOf s r).stopReq = false) (hin : idx ≤ seqGet s r 0xA00 48 16) :
    nextEntry s r idx = putSeq (shownEntry s r idx) r (unreadSeq s r) := by
  rw [nextEntry_eq, if_neg (ne_true_of_eq_false hstop), if_neg (Nat.not_lt.mpr hin)]

/-- However it goes on, no entry is under way. -/
theorem nextEntry_entry : (seqOf (nextEntry s r idx) r).entry = none := by
  rw [nextEntry_eq]
  split
  · rw [seqOf_putSeq]; rfl
  · split
    · rw [seqOf_seqStop, seqOf_putSeq]; rfl
    · rw [seqOf_putSeq]; rfl

/-- However it goes on, the index of the entry is shown. -/
theorem seqEntry_nextEntry (hhome : (regionHome s r).isSome = true) : seqEntry (nextEntry s r idx) r = idx % 2 ^ 16 := by
  rw [nextEntry_eq]
  split
  · rw [seqEntry_putSeq, seqEntry_shownEntry hhome]
  · split
    · rw [seqEntry_seqStop, seqEntry_putSeq, seqEntry_shownEntry hhome]
    · rw [seqEntry_putSeq, seqEntry_shownEntry hhome]

theorem nextEntry_past_stops (hpast : seqGet s r 0xA00 48 16 < idx) : (seqOf (nextEntry s r idx) r).phase = .stopped := by
  cases hstop : (seqOf s r).stopReq with
  | true => rw [nextEntry_held hstop, seqOf_putSeq]
  | false => rw [nextEntry_past hstop hpast, seqOf_seqStop]

/-- With no post and no step to end, completing an entry is going on. -/
theorem completeEntry_plain {e : Sched} (hpost : seKind e 3 = 0) (hstep : seStepEnd e = false) :
    completeEntry s r e idx = nextEntry s r idx := by
  simp only [completeEntry, hpost, hstep, Bool.false_eq_true, if_false]

end

/-- Settles O14: each of the three ways to go on, and what they have in common. The stop past the table's end carries status 0x0212
(`nextEntry_past`). -/
theorem sequencerGoesOn : Obligations.SequencerGoesOn := by
  intro s r idx e hpost hstep hhome
  rw [completeEntry_plain hpost hstep]
  refine ⟨nextEntry_entry, ?_, nextEntry_past_stops, ?_, seqEntry_nextEntry hhome⟩
  · intro hstop
    rw [nextEntry_held hstop, seqOf_putSeq]
  · intro hstop hin
    rw [nextEntry_within hstop hin, seqOf_putSeq]
    rfl

end Sys2Proof.Machine
end

section
/-! SUPPORT. The statements of region sequencers (06 R184, R185): what a wait does at its object (11 R331–R341), and what a sequencer does
with the entry that it reads. -/

namespace Sys2Proof.Machine

/-! ### Operations on an object (11 R331, R334, R336, R339, R341, R350) -/

section
variable {s : State} {a : Agent} {op : SyncOp} {obj : Sref} {n : BitVec 32} {k : Nat} {o : SyncObj} {l : List (Waiter × BitVec 32)}

/-- Whether the overflow list of an object's stall has an entry. -/
def ovfRoom (s : State) (k : Nat) : Bool := ovfUsed s (keyObjStall k) < 1024

/-- An operation that waits, or sends no reply, ends with what its object makes of it. -/
theorem syncOp_unanswered (hobj : findObj s obj = .ok k)
    (hop : applyOp (objOf s k) a op n (ovfRoom s k) = { obj := o, releases := l }) : syncOp s a op obj n = syncEnd s k o l := by
  unfold ovfRoom at hop
  simp only [syncOp, syncCore, hobj, hop, if_true]
  rfl

/-- One that is answered at once sends the reply on its way too. -/
theorem syncOp_answered {v : BitVec 32} (hobj : findObj s obj = .ok k)
    (hop : applyOp (objOf s k) a op n (ovfRoom s k) = { obj := o, reply := some v, releases := l }) :
    syncOp s a op obj n = wakeAgent (syncEnd s k o l) { agent := a, result := v } := by
  unfold ovfRoom at hop
  simp only [syncOp, syncCore, hobj, hop, if_true]
  rfl

end

section
variable {o : SyncObj} {a : Agent} {n : BitVec 32} {room : Bool}

theorem register_own {w : Waiter} (hown : o.own.length < 16) (hovf : o.ovf = []) :
    register o w room = some { o with own := o.own ++ [w] } :=
  if_pos ⟨hown, hovf⟩

/-- One participant of a plain gate that is not complete arrives and waits. -/
theorem applyOp_arriveWait_incomplete (hkind : o.kind = .gate) (hlatch : o.latch = false) (hown : o.own.length < 16) (hovf : o.ovf = [])
    (hmore : o.arrivals.toNat + 1 < o.count.toNat) :
    applyOp o a .arriveWait n room = { obj := { o with arrivals := o.arrivals + 1, own := o.own ++ [{ agent := a, kind := .gate }] } } := by
  simp only [applyOp, hkind, hlatch, register_own hown hovf, countArrival, if_neg (Nat.not_le.mpr hmore), Bool.false_eq_true, if_false]

/-- TAKE of a tally that holds enough, before which no other TAKE waits. -/
theorem applyOp_take_met (hkind : o.kind = .tally) (hn : n.toNat ≤ o.value.toNat) (hfirst : ∀ y ∈ waiters o, y.kind ≠ .take) :
    applyOp o a .take n room = { obj := { o with value := o.value - n }, reply := some (o.value - n) } := by
  have hnone : (waiters o).any (fun w => w.kind = .take) = false := by
    rw [List.any_eq_false]
    exact fun y hy => by simpa using hfirst y hy
  simp only [applyOp, hkind, hnone, hn, Bool.not_false, and_self, if_true]

theorem applyOp_take_waits (hkind : o.kind = .tally) (hn : o.value.toNat < n.toNat) (hown : o.own.length < 16) (hovf : o.ovf = []) :
    applyOp o a .take n room = { obj := { o with own := o.own ++ [{ agent := a, kind := .take, n := n }] } } := by
  simp only [applyOp, hkind, Nat.not_le.mpr hn, false_and, if_false, register_own hown hovf]

theorem applyOp_waitGe_met (hkind : o.kind = .tally) (hn : n.toNat ≤ o.value.toNat) :
    applyOp o a .waitGe n room = { obj := o, reply := some o.value } := by
  simp only [applyOp, hkind, if_pos hn]

theorem applyOp_waitGe_waits (hkind : o.kind = .tally) (hn : o.value.toNat < n.toNat) (hown : o.own.length < 16) (hovf : o.ovf = []) :
    applyOp o a .waitGe n room = { obj := { o with own := o.own ++ [{ agent := a, kind := .ge, n := n }] } } := by
  simp only [applyOp, hkind, if_neg (Nat.not_le.mpr hn), register_own hown hovf]

end

/-! ### An entry is read (06 R184, R185, R189) -/

section
variable {s : State} {r : Region} {e : Sched}

/-- The sequencer as it stands at an entry that it has just read. -/
def readSeq (s : State) (r : Region) (e : Sched) (metA metB : Bool) : SeqSt :=
  { seqOf s r with
    entry := some e, since := s.time, counted := s.time, waitEvent := false, batch := batchAt (seqOf s r) e
    metA := metA, metB := metB }

/-- The entry under way has just been read, and the next one ahead. -/
def entryBegun (s : State) (r : Region) (e : Sched) (metA metB : Bool) : State := readAhead (putSeq s r (readSeq s r e metA metB)) r e

/-- The two waits of an entry are registered. -/
def entryWaits (s : State) (r : Region) (e : Sched) : State :=
  regWait (regWait s r 0 (seKind e 0) (seObj e 0) (seNa e)) r 1 (seKind e 1) (seObj e 1) (seNa e)

theorem SeqReads.ready (hreads : SeqReads s r) : ¬(!seqLive (seqOf s r) ∨ (seqOf s r).phase ≠ .waiting ∨ (seqOf s r).entry.isSome
    ∨ (regionHome s r).isNone ∨ seqGet s r 0xC00 0 1 = 0) := by
  obtain ⟨hlive, hphase, hentry, hhome, hrun⟩ := hreads
  simp [hlive, hphase, hentry, Option.isNone_eq_false_iff.mpr hhome, hrun]

theorem readEntry_unreadable (hreads : SeqReads s r) (hwords : entryWords s r = none) (op : Nat) :
    readEntry s r op = seqStop s r 0x0213 := by
  simp only [readEntry, if_neg hreads.ready, hwords]

section
variable (hreads : SeqReads s r) (hwords : entryWords s r = some e.toNat)
include hreads hwords

theorem readEntry_illegal (hlegal : schedLegal e = false) (op : Nat) : readEntry s r op = seqStop s r 0x0212 := by
  simp only [readEntry, if_neg hreads.ready, hwords, BitVec.ofNat_toNat, BitVec.setWidth_eq, hlegal, Bool.not_false, if_true]

/-- NOP and END wait for nothing. -/
theorem readEntry_unwaited (hlegal : schedLegal e = true) (hop : seOp e = 0 ∨ seOp e = 6) :
    readEntry s r (seOp e) = entryBegun s r e true true := by
  have hwaits : (seOp e != 0 && seOp e != 6) = false := by
    obtain hop | hop := hop <;> rw [hop] <;> rfl
  simp only [readEntry, if_neg hreads.ready, hwords, BitVec.ofNat_toNat, BitVec.setWidth_eq, hlegal, hwaits, Bool.not_true, Bool.not_false,
    Bool.true_or, Bool.false_eq_true, ne_eq, not_true_eq_false, if_true, if_false]
  rfl

/-- The other operations wait for two objects, of which kind 0 is none, and may fill. -/
theorem readEntry_waited (hlegal : schedLegal e = true) (hop0 : seOp e ≠ 0) (hop6 : seOp e ≠ 6) :
    readEntry s r (seOp e) = seqFill (entryWaits (entryBegun s r e (seKind e 0 == 0) (seKind e 1 == 0)) r e) r := by
  have hwaits : (seOp e != 0 && seOp e != 6) = true := by
    rw [Bool.and_eq_true, bne_iff_ne, bne_iff_ne]
    exact ⟨hop0, hop6⟩
  simp only [readEntry, if_neg hreads.ready, hwords, BitVec.ofNat_toNat, BitVec.setWidth_eq, hlegal, hwaits, Bool.not_true,
    Bool.false_or, Bool.false_eq_true, ne_eq, not_true_eq_false, if_false]
  rfl

end

/-- A wait for none, or a done object of none, is illegal (06 R184). -/
theorem schedLegal_without_count (h : ((2 ≤ seKind e 0 ∨ 2 ≤ seKind e 1) ∧ seNa e = 0) ∨ (2 ≤ seKind e 2 ∧ seNd e = 0)) :
    schedLegal e = false := by
  obtain ⟨hkind, hn⟩ | ⟨hkind, hn⟩ := h
  · have hwait : (decide (2 ≤ seKind e 0) || decide (2 ≤ seKind e 1)) = true := by
      rwa [Bool.or_eq_true, decide_eq_true_eq, decide_eq_true_eq]
    simp only [schedLegal, hwait, hn, beq_self_eq_true, Bool.and_self, Bool.not_true, Bool.and_false, Bool.false_and]
  · simp only [schedLegal, hkind, hn, decide_true, beq_self_eq_true, Bool.and_self, Bool.not_true, Bool.and_false]

theorem exec_seqRun_on (h : poweredUp s = true) : exec (.seqRun r) s = .next (ended s (readEntry s r 1)) :=
  finish_on s _ h

end

/-- Settles O13: a wait is the object's operation by its kind, and what an operation does is told by whether its object answers it at
once; an entry without its count is not legal. -/
theorem sequencerWaitsAsItsKind : Obligations.SequencerWaitsAsItsKind := by
  refine ⟨fun _ _ _ _ _ => rfl, ?_, ?_⟩
  · intro s r w obj n k hobj hn o a
    have hcount : (BitVec.ofNat 32 n).toNat = n := by rw [BitVec.toNat_ofNat, Nat.mod_eq_of_lt hn]
    refine ⟨rfl, ?_, ?_, ?_, ?_, ?_⟩
    · intro hkind hlatch hown hovf hmore
      exact syncOp_unanswered hobj (applyOp_arriveWait_incomplete hkind hlatch hown hovf hmore)
    · intro hkind henough hfirst
      exact syncOp_answered hobj (applyOp_take_met hkind (hcount.symm ▸ henough) hfirst)
    · intro hkind hless hown hovf
      exact syncOp_unanswered hobj (applyOp_take_waits hkind (hcount.symm ▸ hless) hown hovf)
    · intro hkind henough
      exact syncOp_answered hobj (applyOp_waitGe_met hkind (hcount.symm ▸ henough))
    · intro hkind hless hown hovf
      exact syncOp_unanswered hobj (applyOp_waitGe_waits hkind (hcount.symm ▸ hless) hown hovf)
  · intro s r e hon hreads hwords hcount
    rw [exec_seqRun_on hon, readEntry_illegal hreads hwords (schedLegal_without_count hcount)]

section
variable {s : State} {r : Region} {e : Sched}

theorem entryWords_unless_ahead (h : ∀ w, (seqOf s r).ahead ≠ some (seqEntry s r, w)) :
    entryWords s r = readRec s (seqGet s r 0xA00 0 48 + 32 * seqEntry s r) 32 := by
  unfold entryWords
  split
  · next i w hahead =>
    have hother : i ≠ seqEntry s r := fun hi => h w (by rw [hahead, hi])
    rw [if_neg hother]
    rfl
  · rfl

/-- Reading ahead changes nothing else of the sequencer. -/
theorem seqOf_entryBegun (s : State) (r : Region) (e : Sched) (metA metB : Bool) :
    ∃ x, seqOf (entryBegun s r e metA metB) r = { readSeq s r e metA metB with ahead := x } :=
  ⟨_, (seqOf_putSeq ..).trans (by rw [seqOf_putSeq])⟩

theorem seqEntry_entryBegun (metA metB : Bool) : seqEntry (entryBegun s r e metA metB) r = seqEntry s r :=
  (seqEntry_putSeq _).trans (seqEntry_putSeq _)

/-- An entry that waits for nothing is met as soon as it has been read. -/
theorem waited_entryBegun (hlive : seqLive (seqOf s r) = true) : waited (entryBegun s r e true true) r (seOp e) = some e := by
  obtain ⟨x, hx⟩ := seqOf_entryBegun s r e true true
  have hstill : seqLive (seqOf (entryBegun s r e true true) r) = true := by rw [hx]; exact hlive
  rw [waited, hstill, hx]
  simp only [readSeq, beq_self_eq_true, Bool.and_self, if_true]

theorem exec_seqNop_on (hon : poweredUp s = true) (hmet : waited (readEntry s r 0) r 0 = some e) :
    exec (.seqNop r) s = .next (ended s (completeEntry (readEntry s r 0) r e (seqEntry (readEntry s r 0) r + 1))) := by
  refine (finish_on s _ hon).trans ?_
  simp only [hmet]

end

/-- Settles O12, by what the sequencer finds at its index: nothing that can be read, an illegal entry, or one to begin. That an entry is
read in its own operation's row, and the next one ahead in the same step, is log entry 46's. -/
theorem sequencerReadsEntry : Obligations.SequencerReadsEntry := by
  intro s r hon hreads
  refine ⟨entryWords_unless_ahead, ?_, ?_⟩
  · intro hwords
    rw [exec_seqRun_on hon, readEntry_unreadable hreads hwords]
  · intro e hwords began
    refine ⟨?_, ?_, ?_⟩
    · intro hlegal
      rw [exec_seqRun_on hon, readEntry_illegal hreads hwords hlegal]
    · intro hlegal hop
      have hread := readEntry_waited hreads hwords hlegal (by omega) (by omega)
      rw [hop] at hread
      rw [exec_seqRun_on hon, hread]
      rfl
    · intro hlegal hop
      have hread := readEntry_unwaited hreads hwords hlegal (.inl hop)
      obtain ⟨hlive, -⟩ := hreads
      have hmet : waited (entryBegun s r e true true) r (seOp e) = some e := waited_entryBegun hlive
      rw [hop] at hread hmet
      rw [exec_seqNop_on hon (hread ▸ hmet), hread, seqEntry_entryBegun]
      rfl

end Sys2Proof.Machine
end

section
/-! SUPPORT. The statements of region sequencers (06 R185–R189, R200, R204) and of claimers (06 R193, R194): what each operation of a
sequencer does once its waits are met, its control register, and a claimer's claim and its completion. -/

namespace Sys2Proof.Machine

section
variable {s : State} {r : Region} {e : Sched}

/-! ### RUN, DRAIN, ADVANCE, JUMP, END (06 R185, R186, R189) -/

theorem exec_seqWaitsMet_on (hon : poweredUp s = true) : exec (.seqWaitsMet r) s = .next (ended s (waitsMet s r)) :=
  finish_on s _ hon

theorem waitsMet_loaded (hmet : waited s r 1 = some e) (hphase : (seqOf s r).phase = .waiting)
    (hslot : slotLoaded (seqCount s r) r (seSlot e) = true) :
    waitsMet s r = seqSwitched (updSeq (requestSlot (seqCount s r) r (seSlot e)) r (fun q => { q with
      phase := .running, since := (requestSlot (seqCount s r) r (seSlot e)).time, held := false, back := none
      batch := batchRun q e })) r := by
  simp only [waitsMet, hmet, hphase, hslot, ne_eq, not_true_eq_false, Bool.not_true, Bool.false_eq_true, if_false]

theorem waitsMet_unloaded (hmet : waited s r 1 = some e) (hphase : (seqOf s r).phase = .waiting)
    (hslot : slotLoaded (seqCount s r) r (seSlot e) = false) :
    waitsMet s r = seqStop (requestSlot (seqCount s r) r (seSlot e)) r 0x0203 := by
  simp only [waitsMet, hmet, hphase, hslot, ne_eq, not_true_eq_false, Bool.not_false, if_true, if_false]

theorem exec_seqDoneMet_on (hon : poweredUp s = true) (hmet : waited s r 1 = some e) (hphase : (seqOf s r).phase = .running)
    (hasked : (seqOf s r).asked = true) (hdone : (seqOf s r).metDone = true) :
    exec (.seqDoneMet r) s = .next (ended s (completeEntry s r e (seqEntry s r + 1))) := by
  refine (finish_on s _ hon).trans ?_
  simp only [hmet, hphase, hasked, hdone, and_self, if_true]

theorem exec_seqDrain_on (hon : poweredUp s = true) : exec (.seqDrain r) s = .next (ended s (seqDrain s r)) :=
  finish_on s _ hon

/-- A DRAIN under way ends with its done object, or, where it has none, with its region's claimers. -/
theorem seqDrain_ends (hmet : waited (readEntry s r 2) r 2 = some e) (hphase : (seqOf (readEntry s r 2) r).phase = .draining)
    (hdone : (seqOf (readEntry s r 2) r).metDone = true)
    (hquit : seKind e 2 ≠ 0 ∨ ∀ k ∈ regionClaimers (readEntry s r 2) r, quitAll (readEntry s r 2) k.1 k.2 = true) :
    seqDrain s r = completeEntry (readEntry s r 2) r e (seqEntry (readEntry s r 2) r + 1) := by
  have hends : (seKind e 2 != 0 || (regionClaimers (readEntry s r 2) r).all (fun k => quitAll (readEntry s r 2) k.1 k.2)) = true := by
    rwa [Bool.or_eq_true, bne_iff_ne, List.all_eq_true]
  have hnot : SeqPhase.draining ≠ .waiting := by decide
  simp only [seqDrain, hmet, hphase, hdone, if_neg hnot, hends, Bool.and_self, if_true]

theorem exec_seqAdvance_on (hon : poweredUp s = true) : exec (.seqAdvance r) s = .next (ended s (seqAdvance s r)) :=
  finish_on s _ hon

/-- The ledger advances once in a step of a region. -/
def advancedOnce (s : State) (r : Region) : State :=
  if seqGet s r 0x1400 16 1 = 1 then s else seqSet (ledgerAdvance s) r 0x1400 16 1 1

theorem seqAdvance_completes (hmet : waited (readEntry s r 4) r 4 = some e) :
    seqAdvance s r = completeEntry (advancedOnce (readEntry s r 4) r) r e (seqEntry (advancedOnce (readEntry s r 4) r) r + 1) := by
  simp only [seqAdvance, hmet, advancedOnce]
  split <;> rfl

theorem exec_seqJump_on (hon : poweredUp s = true) (hmet : waited (readEntry s r 5) r 5 = some e) :
    exec (.seqJump r) s = .next (ended s (completeEntry (readEntry s r 5) r e (seArg e % 2 ^ 16))) := by
  refine (finish_on s _ hon).trans ?_
  simp only [hmet]

theorem exec_seqEnd_on (hon : poweredUp s = true) (hmet : waited (readEntry s r 6) r 6 = some e) :
    exec (.seqEnd r) s = .next (ended s (seqSet
      (putSeq (leaveFill (completeEntry (readEntry s r 6) r e (seqEntry (readEntry s r 6) r)) r) r {}) r 0xC00 0 1 0)) := by
  refine (finish_on s _ hon).trans ?_
  simp only [hmet]

/-! ### MAP (06 R200) -/

/-- Steps none of which changes the state change nothing. -/
theorem each_fixed {α : Type} {f : State → α → State} {l : List α} (h : ∀ x ∈ l, f s x = s) : each l f s = s := by
  induction l with
  | nil => rfl
  | cons x l ih =>
    change each l f (f s x) = s
    rw [h x List.mem_cons_self]
    exact ih (fun y hy => h y (List.mem_cons_of_mem x hy))

theorem exec_seqMap_on (hon : poweredUp s = true) : exec (.seqMap r) s = .next (ended s (seqMap s r)) :=
  finish_on s _ hon

/-- A MAP whose record names no position has nothing to load. -/
theorem seqMap_unnamed {m : Nat} (hmet : waited (readEntry s r 3) r 3 = some e) (hphase : (seqOf (readEntry s r 3) r).phase = .waiting)
    (hrec : readRec (leaveFill (readEntry s r 3) r) (seArg e) 256 = some m) (hnone : ∀ p < 28, bitOf (mapWord m p) 63 = false) :
    seqMap s r = mapFinish (updSeq (leaveFill (readEntry s r 3) r) r (fun q => { q with
      phase := .mapping, mapSince := (leaveFill (readEntry s r 3) r).time, mapLeft := [] })) r e m := by
  simp only [seqMap, hmet, hphase, hrec, ne_eq, not_true_eq_false, if_false]
  rw [each_fixed]
  intro p hp
  rw [hnone p (List.mem_range.mp hp)]
  exact if_neg (fun h => Bool.false_ne_true h.1)

theorem mapFinish_completes {m : Nat} (hphase : (seqOf s r).phase = .mapping) (hleft : (seqOf s r).mapLeft = [])
    (hflow : bitOf m 1800 = false) : mapFinish s r e m = completeEntry s r e (seqEntry s r + 1) := by
  simp only [mapFinish, hphase, hleft, hflow, ne_eq, not_true_eq_false, or_self, Bool.false_eq_true, if_false]

theorem exec_mapLoadRetry_on {st : Stall} (hon : poweredUp s = true) : exec (.mapLoadRetry r st) s = .next (ended s (mapRetry s r st)) :=
  finish_on s _ hon

theorem mapRetry_loads {st : Stall} {p m : Nat} (hentry : (seqOf s r).entry = some e) (hlp : stallLp s st = some p)
    (hphase : (seqOf s r).phase = .mapping) (hleft : st ∈ (seqOf s r).mapLeft) (hrec : readRec s (seArg e) 256 = some m) :
    mapRetry s r st = mapFinish (mapSettle (mapLoad s r m p).1 r (mapLoad s r m p).2.1 (mapLoad s r m p).2.2) r e m := by
  have hin : (seqOf s r).mapLeft.contains st = true := List.contains_iff_mem.mpr hleft
  simp only [mapRetry, hentry, hlp, hphase, hin, hrec, ne_eq, not_true_eq_false, Bool.not_true, Bool.false_eq_true, or_self, if_false]

theorem exec_mapStalled_on (hon : poweredUp s = true) (hphase : (seqOf s r).phase = .mapping) (hleft : (seqOf s r).mapLeft ≠ [])
    (hlate : (seqOf s r).mapSince + 10000000 ≤ s.time) : exec (.mapStalled r) s = .next (ended s (seqStop s r 0x0215)) :=
  (finish_on s _ hon).trans (congrArg (fun t => Host.Outcome.next (ended s t)) (if_pos ⟨hphase, hleft, hlate⟩))

/-! ### The control register (06 R204) -/

section
variable {st : Stall} {w : Word}

theorem exec_seqCtlGo_on (hon : poweredUp s = true) : exec (.seqCtlGo st r w) s = .next (ended s (seqCtlWrite s st r w.toNat)) :=
  finish_on s _ hon

theorem exec_seqCtlStop_on (hon : poweredUp s = true) : exec (.seqCtlStop st r w) s = .next (ended s (seqCtlWrite s st r w.toNat)) :=
  finish_on s _ hon

/-- Go and stop are not kept: the mask has no bit at their places. -/
theorem seqCtl_kept (w : Word) : BitVec.ofNat 64 (setBits (setBits w.toNat 1 1 0) 2 1 0 &&& 0xFFFF1F79) = w &&& 0xFFFF1F79#64 := by
  have hgo : (0xFFFF1F79 : Nat).testBit 1 = false := rfl
  have hstop : (0xFFFF1F79 : Nat).testBit 2 = false := rfl
  have hnat : setBits (setBits w.toNat 1 1 0) 2 1 0 &&& 0xFFFF1F79 = w.toNat &&& 0xFFFF1F79 := by
    refine Nat.eq_of_testBit_eq (fun i => ?_)
    rw [Nat.testBit_and, Nat.testBit_and, setBits_testBit, setBits_testBit]
    by_cases h1 : i = 1
    · rw [h1, hgo, Bool.and_false, Bool.and_false]
    · by_cases h2 : i = 2
      · rw [h2, hstop, Bool.and_false, Bool.and_false]
      · rw [if_neg (by omega), if_neg (by omega)]
  rw [hnat, BitVec.ofNat_and, BitVec.ofNat_toNat, BitVec.setWidth_eq]

/-- The control register holds what was written, and the region's fill follows it. -/
def seqCtlHeld (s : State) (st : Stall) (r : Region) (w : Word) : State :=
  seqFill (setReg s (stallReg st (0xC00 + 8 * r.val)) (w &&& 0xFFFF1F79#64)) r

theorem seqCtlWrite_go (hhome : regionHome s r = some st) (hgo : bitOf w.toNat 1 = true) (hstop : bitOf w.toNat 2 = false) :
    seqCtlWrite s st r w.toNat = seqGo (seqCtlHeld s st r w) r := by
  rw [seqCtlWrite_starts s st r w.toNat hhome hgo hstop, seqCtl_kept, seqCtlHeld]

theorem seqCtlWrite_stop (hhome : regionHome s r = some st) (hgo : bitOf w.toNat 1 = false) (hstop : bitOf w.toNat 2 = true) :
    seqCtlWrite s st r w.toNat = seqStopReq (seqCtlHeld s st r w) r := by
  simp only [seqCtlWrite, hhome, hgo, hstop, seqCtl_kept, ne_eq, not_true_eq_false, Bool.false_eq_true, if_false, if_true, seqCtlHeld]

end

theorem seqGo_live (hlive : seqLive (seqOf s r) = true) : seqGo s r = seqSet s r 0xE00 32 16 0x0214 := if_pos hlive

theorem seqStopReq_live (hlive : seqLive (seqOf s r) = true) :
    seqStopReq s r = updSeq s r (fun q => { q with stopReq := true }) := if_pos hlive

/-! ### The limit of a wait (06 R189) -/

theorem exec_sequencerWaitLimit_on (hon : poweredUp s = true) (hentry : (seqOf s r).entry = some e) (hphase : (seqOf s r).phase = .waiting)
    (hunmet : ((seqOf s r).metA && (seqOf s r).metB) = false) (hfirst : (seqOf s r).waitEvent = false) (hlimit : seqGet s r 0xC00 8 5 ≠ 0)
    (hlate : (seqOf s r).since + 2 ^ seqGet s r 0xC00 8 5 * 5 / 9 ≤ s.time) :
    exec (.sequencerWaitLimit r) s
      = .next (ended s (emit (updSeq s r (fun q => { q with waitEvent := true })) (regionSource s r) 0x028D (seqEntry s r) r.val)) := by
  refine (finish_on s _ hon).trans ?_
  have hlim : (seqGet s r 0xC00 8 5 != 0) = true := bne_iff_ne.mpr hlimit
  simp only [hentry, hphase, hunmet, hfirst, hlim, hlate, Option.isSome_some, Bool.not_false, Bool.and_self, decide_true, if_true]

end

/-! ### Claimers (06 R193, R194) -/

section
variable {s : State} {st : Stall} {b : Fin 32} {r : Region} {c : Slot}

theorem exec_claim_on (hon : poweredUp s = true) : exec (.claim st b) s = .next (ended s (claim s st b)) :=
  finish_on s _ hon

/-- The claimer's list has been opened. -/
def claimOpened (s : State) (st : Stall) (b : Fin 32) (c : Slot) (first : Nat) : State :=
  if (claimerOf s st b).opened then s else openList s st b c ((grwOf (keyUnit s first) c).getD 0)

/-- A claimer in its fill slot, with a free MAT, passes over its open pools. -/
theorem claim_passes {mat first : Nat} (hregion : claimerRegion s st b = some (r, c)) (hactive : (unitOf s st (iouSite b)).active = c)
    (hgo : unitGo s st (unitOf s st (iouSite b)) c = true) (hfill : ((regionHome s r).any (fun h => rgnActive s h r == c.val)) = true)
    (hfree : (fedMats s st (iouSite b) c).find?
      (fun k => !(claimerOf s st b).claims.any (fun y => unitKey st y.site == k && !claimStarted s c st y)) = some mat)
    (hfirst : (fedMats s st (iouSite b) c).head? = some first) :
    claim s st b = claimFrom (claimOpened s st b c first) st b c mat ((grwOf (keyUnit s mat) c).getD 0)
      (claimerOf (claimOpened s st b c first) st b).pools := by
  simp only [claim, hregion, hactive, hgo, hfill, hfree, hfirst, ne_eq, not_true_eq_false, Bool.not_true, Bool.false_eq_true, or_self,
    if_false, claimOpened]

/-- A pool with nothing released and unclaimed is passed over. -/
theorem claimFrom_unreleased {mat instr w : Nat} {p : Addr} {rest : List Addr} (hrec : readRec s p.toNat 128 = some w)
    (hleft : tallyValue s (BitVec.ofNat 24 (field w 64 24)) < field w 0 32)
    (hclaimed : tallyValue s (BitVec.ofNat 24 (field w 88 24)) ≤ tallyValue s (BitVec.ofNat 24 (field w 64 24))) :
    claimFrom s st b c mat instr (p :: rest) = claimFrom s st b c mat instr rest := by
  rw [claimFrom, hrec]
  exact if_pos ⟨hleft, hclaimed⟩

theorem exec_claimComplete_on (hon : poweredUp s = true) : exec (.claimComplete st b) s = .next (ended s (claimComplete s st b)) :=
  finish_on s _ hon

theorem claimComplete_counts {y : Claim} {rest : List Claim} {w : Nat} (hregion : claimerRegion s st b = some (r, c))
    (hclaims : (claimerOf s st b).claims = y :: rest) (hmet : y.met = true) (hactive : (unitOf s st (iouSite b)).active = c)
    (hrec : readRec (putClaimer s st b { claimerOf s st b with claims := rest }) y.pool.toNat 128 = some w) :
    claimComplete s st b = claimerOp (putClaimer s st b { claimerOf s st b with claims := rest }) st b .add
      (BitVec.ofNat 24 (field w 112 24)) 1 := by
  simp only [claimComplete, hregion, hclaims, hmet, hactive, hrec, ne_eq, not_true_eq_false, Bool.not_true, Bool.false_eq_true, or_self,
    if_false]

end

/-- Settles O15, operation by operation: the operations whose waits are met, MAP with nothing to load, with all loaded, with one load
retried and with one refused too long, the control register, and the limit of a wait. MAP and END leave the fill slot for the slot that
the region left (log entry 129); the map's states are log entry 48's. -/
theorem sequencerCommandsComplete : Obligations.SequencerCommandsComplete := by
  refine ⟨?_, ⟨?_, ?_, ?_, ?_⟩, ?_, ?_⟩
  · intro s r e hon
    refine ⟨exec_seqNop_on hon, ?_, ?_, exec_seqDoneMet_on hon, ?_, ?_, exec_seqJump_on hon, exec_seqEnd_on hon⟩
    · intro hmet hphase hslot u
      rw [exec_seqWaitsMet_on hon, waitsMet_loaded hmet hphase hslot]
    · intro hmet hphase hslot
      rw [exec_seqWaitsMet_on hon, waitsMet_unloaded hmet hphase hslot]
    · intro u hmet hphase hdone hquit
      rw [exec_seqDrain_on hon, seqDrain_ends hmet hphase hdone hquit]
    · intro u hmet
      rw [exec_seqAdvance_on hon, seqAdvance_completes hmet]
      rfl
  · intro s r e m hon u hmet hphase hrec hnone
    rw [exec_seqMap_on hon, seqMap_unnamed hmet hphase hrec hnone]
  · intro s r e m hphase hleft hflow
    exact mapFinish_completes hphase hleft hflow
  · intro s r st e p m hon hentry hlp hphase hleft hrec
    rw [exec_mapLoadRetry_on hon, mapRetry_loads hentry hlp hphase hleft hrec]
  · intro s r hon hphase hleft hlate
    exact exec_mapStalled_on hon hphase hleft hlate
  · intro s st r w hon hhome v
    refine ⟨?_, ?_, ?_⟩
    · intro hgo hstop hidle
      rw [exec_seqCtlGo_on hon, seqCtlWrite_go hhome hgo hstop]
      rfl
    · intro hgo hstop hlive
      have hheld : seqLive (seqOf (seqCtlHeld s st r w) r) = true := hlive
      rw [exec_seqCtlGo_on hon, seqCtlWrite_go hhome hgo hstop, seqGo_live hheld]
      rfl
    · intro hgo hstop hlive
      have hheld : seqLive (seqOf (seqCtlHeld s st r w) r) = true := hlive
      rw [exec_seqCtlStop_on hon, seqCtlWrite_stop hhome hgo hstop, seqStopReq_live hheld]
      rfl
  · intro s r e hon hentry hphase hunmet hfirst hlimit hlate
    exact exec_sequencerWaitLimit_on hon hentry hphase hunmet hfirst hlimit hlate

/-- Settles O16: the pass by the state in which the list is open, a pool's passing over by its three tallies, and a completion by the
oldest claim. -/
theorem claimersComplete : Obligations.ClaimersComplete := by
  refine ⟨?_, ?_, ?_⟩
  · intro s st b r c mat first hon hregion hactive hgo hfill hfree hfirst u
    rw [exec_claim_on hon, claim_passes hregion hactive hgo hfill hfree hfirst]
    rfl
  · intro s st b c mat instr p rest w hrec hleft hclaimed
    exact claimFrom_unreleased hrec hleft hclaimed
  · intro s st b r c y rest w hon hregion hclaims hmet hactive hrec
    rw [exec_claimComplete_on hon, claimComplete_counts hregion hclaims hmet hactive hrec]

end Sys2Proof.Machine
end

section
/-! SUPPORT. The statement of a trigger's comparison with the journal (07 R224, R229, R231; 16 R476): what serving a trigger makes of
its step, once the update's records are found legal and the journal is read. -/

namespace Sys2Proof.Machine

section
variable {s : State} {e : Fin 16} {set : BitVec 16} {shard : BitVec 24} {low d r j : Nat}

/-- What a trigger of a step does, by the journal's step and phase. -/
def comparedTrigger (s : State) (e : Fin 16) (set : BitVec 16) (shard : BitVec 24) (d r j st : Nat) : State :=
  if st = jStep j + 1 ∧ jPhase j = 3 then
    if pointHolds s set st then parkRun s e { set := set, shard := shard, step := st } .point else beginRun s e set shard st d r
  else if st = jStep j ∧ jPhase j < 3 then resumeRun s e set shard d r j
  else if st ≤ jStep j then dropDuplicate s e set shard st
  else emit (parkRun s e { set := set, shard := shard, step := st } .early) (engSrc e) 0x088A (setShard set shard) st

/-- An update trigger of a sound shard is compared with the journal at once. -/
theorem serveTrigger_compared (hlegal : checkUpdate s e set shard = .ok (d, r)) (hjournal : journal s r = some j)
    (hsound : isSuspect s set shard = false) :
    serveTrigger s e set shard low false = comparedTrigger s e set shard d r j (fullStep (jStep j + 1) low 16) := by
  simp only [serveTrigger, hlegal, hjournal, hsound, Bool.false_eq_true, false_and, if_false, comparedTrigger]

/-- A trigger of a step that the journal has already, and that is not the journal's own step unfinished, is a duplicate. -/
theorem comparedTrigger_duplicate {st : Nat} (hpast : st ≤ jStep j) (hfinished : ¬(st = jStep j ∧ jPhase j < 3)) :
    comparedTrigger s e set shard d r j st = dropDuplicate s e set shard st := by
  rw [comparedTrigger, if_neg (by omega), if_neg hfinished, if_pos hpast]

end

/-- Settles O18: the five places a trigger's step can have beside the journal's, each by the first test of the comparison that it meets. -/
theorem triggerFollowsJournal : Obligations.TriggerFollowsJournal := by
  intro s e set shard low d r j hlegal hjournal hsound st
  rw [serveTrigger_compared hlegal hjournal hsound]
  refine ⟨?_, ?_, ?_, ?_, ?_, ?_⟩
  · intro hnext hdone hfree
    rw [comparedTrigger, if_pos ⟨hnext, hdone⟩, hfree]
    rfl
  · intro hnext hdone hheld
    rw [comparedTrigger, if_pos ⟨hnext, hdone⟩, if_pos hheld]
  · intro hsame hunfinished
    have hnot : ¬(st = jStep j + 1 ∧ jPhase j = 3) := by omega
    rw [comparedTrigger, if_neg hnot, if_pos ⟨hsame, hunfinished⟩]
  · intro hearlier
    exact comparedTrigger_duplicate (by omega) (by omega)
  · intro hsame hdone
    exact comparedTrigger_duplicate (by omega) (by omega)
  · intro hlater
    rw [comparedTrigger, if_neg (by omega), if_neg (by omega), if_neg (by omega)]

end Sys2Proof.Machine
end

section
/-! SUPPORT. The statement of the update engines' commands (07 R220–R245; 08 R244, R245): triggers and rings, a block's commit, the
norms' exchanges, fetches, an engine's stop, resumption and failure, retried moves, and the refill of pinned copies. -/

namespace Sys2Proof.Machine

/-! ### Rings (07 R222, R237) -/

section
variable {s : State} {e t : Fin 16} {w : Word}

/-- Which engine serves another is read off registers alone. -/
theorem servingFrom_of_regs {u : State} (hregs : u.regs = s.regs) (n : Nat) (e : Fin 16) : servingFrom u n e = servingFrom s n e := by
  have hup (f : Fin 16) : engUp u f = engUp s f := by
    simp only [engUp, engState, engineDomOn, getF_of_regs s u _ _ _ hregs]
  induction n generalizing e with
  | zero => rfl
  | succ n ih => simp only [servingFrom, hup, ih, getF_of_regs s u _ _ _ hregs]

theorem serving_putEng (x : EngSt) : serving (putEng s t x) e = serving s e := by
  rw [serving, serving]
  exact servingFrom_of_regs (onUpd_regs s _) 16 e

/-- A trigger stands last in an engine's ring. -/
def joinRing (s : State) (e : Fin 16) (w : Word) : State := putEng s e { engOf s e with ring := (engOf s e).ring ++ [w] }

theorem pushTrigger_joins (hroom : (engOf s (serving s e)).ring.length < 256) : pushTrigger s e w = some (joinRing s (serving s e) w) :=
  if_neg (Nat.not_le.mpr hroom)

theorem pushTrigger_full (hfull : 256 ≤ (engOf s (serving s e)).ring.length) : pushTrigger s e w = none := if_pos hfull

/-- With none that waits for room, a trigger joins the ring of an engine that serves itself. -/
theorem pushLater_joins (hnone : s.upd.trigs = []) (hserves : serving s t = t) (hroom : (engOf s t).ring.length < 256) :
    pushLater s t w = joinRing s t w := by
  have hpush : pushTrigger s t w = some (joinRing s t w) := by
    rw [pushTrigger_joins (by rwa [hserves]), hserves]
  simp only [pushLater, hnone, List.any_nil, Bool.false_eq_true, if_false, hpush]

/-- Triggers that all have room join the ring in order, and no other engine is touched. -/
theorem each_pushLater_engOf (ws : List Word) {s : State} (hnone : s.upd.trigs = []) (hserves : serving s t = t)
    (hroom : (engOf s t).ring.length + ws.length ≤ 256) :
    engOf (each ws (fun s w => pushLater s t w) s) t = { engOf s t with ring := (engOf s t).ring ++ ws }
    ∧ ∀ x, x ≠ t → engOf (each ws (fun s w => pushLater s t w) s) x = engOf s x := by
  induction ws generalizing s with
  | nil => exact ⟨by rw [List.append_nil]; rfl, fun _ _ => rfl⟩
  | cons w ws ih =>
    have hfirst : pushLater s t w = joinRing s t w := by
      refine pushLater_joins hnone hserves ?_
      rw [List.length_cons] at hroom
      omega
    have hring : engOf (joinRing s t w) t = { engOf s t with ring := (engOf s t).ring ++ [w] } := engOf_putEng s t _
    have hrest := ih (s := joinRing s t w) hnone ((serving_putEng _).trans hserves) (by
      rw [hring, List.length_append, List.length_singleton]
      rw [List.length_cons] at hroom
      omega)
    obtain ⟨hsame, hother⟩ := hrest
    change engOf (each ws _ (pushLater s t w)) t = _ ∧ ∀ x, x ≠ t → engOf (each ws _ (pushLater s t w)) x = _
    rw [hfirst]
    refine ⟨?_, fun x hx => (hother x hx).trans (engOf_putEng_other s t x _ hx)⟩
    rw [hsame, hring, List.append_assoc, List.singleton_append]

end

/-! ### Triggers (07 R222, R224, R226, R229, R231) -/

section
variable {s : State} {m : Mg} {e : Fin 4} {w : Word}

theorem exec_triggerPush_joins (hon : poweredUp s = true) (hroom : (engOf s (serving s (engAt m e))).ring.length < 256) :
    exec (.triggerPush m e w) s = .next (ended s (joinRing s (serving s (engAt m e)) w)) := by
  refine (finish_on s _ hon).trans ?_
  rw [pushTrigger_joins hroom]

theorem exec_triggerPush_full (hon : poweredUp s = true) (hfull : 256 ≤ (engOf s (serving s (engAt m e))).ring.length) :
    exec (.triggerPush m e w) s = .next (ended s (engStatus (setF s (engReg (engAt m e) 8) 6 1 1) (engAt m e) 0x0804)) := by
  refine (finish_on s _ hon).trans ?_
  rw [pushTrigger_full hfull]

theorem exec_updateTrigger_on (hon : poweredUp s = true) :
    exec (.updateTrigger m e) s = .next (ended s (updateTrigger s (engAt m e))) := finish_on s _ hon

theorem exec_regenerateTrigger_on (hon : poweredUp s = true) :
    exec (.regenerateTrigger m e) s = .next (ended s (regenerateTrigger s (engAt m e))) := finish_on s _ hon

theorem exec_resumeTrigger_on (hon : poweredUp s = true) :
    exec (.resumeTrigger m e) s = .next (ended s (resumeTrigger s (engAt m e))) := finish_on s _ hon

end

section
variable {s : State} {e : Fin 16} {w : Word} {rest : List Word}

/-- An idle engine with no released shard serves an update trigger whose gradient is there. -/
theorem updateTrigger_serves (hready : engReady s e = true) (hidle : (engOf s e).run = none) (hring : (engOf s e).ring = w :: rest)
    (hparked : (engOf s e).parked.find? (·.released) = none) (hroom : (engOf s e).parked.length < 16) (hkind : trigKind w = 0)
    (hgrad : gradReady s (trigSet w) (trigShard w) (trigStep w) = true) :
    updateTrigger s e = serveTrigger (popRing s e) e (trigSet w) (trigShard w) (trigStep w) false := by
  have hother : (0 : Nat) ≠ 3 := by decide
  simp only [updateTrigger, hready, hidle, hring, hparked, hkind, hgrad, Nat.not_le.mpr hroom, if_neg hother, ne_eq, not_true_eq_false,
    Bool.not_true, Bool.false_eq_true, or_self, if_false]

theorem regenerateTrigger_serves (hready : engReady s e = true) (hidle : (engOf s e).run = none) (hring : (engOf s e).ring = w :: rest)
    (hkind : trigKind w = 1) :
    regenerateTrigger s e = regenerate (popRing s e) e (trigSet w) (trigShard w) (trigStep w % 2 == 1) := by
  simp only [regenerateTrigger, hready, hidle, hring, hkind, Option.isSome_none, ne_eq, not_true_eq_false, Bool.not_true,
    Bool.false_eq_true, or_self, if_false]

theorem resumeTrigger_serves (hready : engReady s e = true) (hidle : (engOf s e).run = none) (hring : (engOf s e).ring = w :: rest)
    (hroom : (engOf s e).parked.length < 16) (hkind : trigKind w = 2) :
    resumeTrigger s e = serveTrigger (popRing s e) e (trigSet w) (trigShard w) (trigStep w) true := by
  simp only [resumeTrigger, hready, hidle, hring, hkind, Nat.not_le.mpr hroom, Option.isSome_none, ne_eq, not_true_eq_false,
    Bool.not_true, Bool.false_eq_true, or_self, if_false]

end

/-! ### Block commits (07 R228, R235) -/

section
variable {s : State} {e : Fin 16} {run : UpdRun} {d r j : Nat}

/-- A begun update whose records are legal and whose block is at rest commits it, or loses it to poison. -/
theorem blockCommit_begun (hrun : (engOf s e).run = some run) (hready : engReady s e = true) (hbegun : run.begun = true)
    (hmoves : (engOf s e).moves = []) (hlegal : checkUpdate s e run.set run.shard = .ok (d, r)) (hjournal : journal s r = some j)
    (hstill : blockMoving s d r run.cursor = false) :
    blockCommit s e = if blockPoisoned s d r run.cursor then journalLost (setEng s e 0) (engSrc e) run.set run.shard
      else commitBlock s e run d r j := by
  simp only [blockCommit, hrun, hready, hbegun, hmoves, hlegal, hjournal, hstill, ne_eq, not_true_eq_false, Bool.not_true,
    Bool.false_eq_true, or_self, if_false]

theorem exec_blockCommit_on {m : Mg} {e : Fin 4} (hon : poweredUp s = true) :
    exec (.blockCommit m e) s = .next (ended s (blockCommit s (engAt m e))) := finish_on s _ hon

end

/-! ### Norms (07 R220, R221) -/

section
variable {s u : State} {set : BitVec 16} {n : NormSt} {d : Nat}

theorem exec_normExchange_on (hon : poweredUp s = true) : exec (.normExchange set) s = .next (ended s (normExchange s set)) :=
  finish_on s _ hon

/-- The clip factor that a set's exchanged norm gives. -/
def exchangedClip (s : State) (d : Nat) : F32 := clipFactor (sdClipc d) (sqrt32 (sumCells s (sdNrec d) (sdNown d) 0))

/-- A complete norm exchange fixes the clip factor and releases the shards that wait for it. -/
theorem normExchange_norm (htaken : (takeWake s (.norm set)).2 = u) (hnorm : normOf u set = some n) (hset : setDesc u set = some d)
    (hsent : n.sent = true) (hmet : n.met = true) (hpart : n.part = .norm) :
    normExchange s set = unpark (putNorm u set { n with clipf := some (exchangedClip u d), sent := false })
      (fun p => if p.reason = .norm ∧ p.run.set = set ∧ p.run.step = n.step then some { p.run with stage := 1 } else none) := by
  subst htaken
  simp only [normExchange, hnorm, hset, hsent, hmet, hpart, Bool.not_true, Bool.true_or, Bool.false_eq_true, or_self, if_false,
    if_true, exchangedClip]

/-- The sum that the global norm's accumulator holds for a step. -/
def closedSum (s : State) : NormSt :=
  { step := s.upd.gnStep, part := .norm, gsq := BitVec.ofNat 32 (getF s gnAcc (gnBank s.upd.gnStep) 32), sent := true }

/-- The accumulator's bank is free for a later step. -/
def bankCleared (s : State) : State := setF s gnAcc (gnBank s.upd.gnStep) 32 0

/-- A sum that closes while another is exchanged waits behind it. -/
theorem gnClose_queued (hbusy : s.upd.gn.isSome = true) :
    gnClose s s.upd.gnStep = onUpd (bankCleared s) (fun x => { x with gnNext := x.gnNext ++ [closedSum s] }) := if_pos hbusy

theorem gnClose_exchanges (hfree : s.upd.gn = none) : gnClose s s.upd.gnStep = gnExchange (bankCleared s) (closedSum s) := by
  have hidle : ¬((bankCleared s).upd.gn.isSome = true) := by
    rw [bankCleared, setF_upd, hfree]
    decide
  exact if_neg hidle

theorem exec_updGnClose_on (hon : poweredUp s = true) : exec .updGnClose s = .next (ended s (gnClose s s.upd.gnStep)) :=
  finish_on s _ hon

theorem exec_normWaitTimeout_waits (hon : poweredUp s = true) (hlocal : set ≠ 0xFFFF) (hnorm : normOf s set = some n)
    (hsent : n.sent = true) :
    exec (.normWaitTimeout set) s = .next (ended s (emit s (srcManger 0 0x3F) 0x0888 set.toNat 0)) := by
  refine (finish_on s _ hon).trans ?_
  simp only [if_neg hlocal, hnorm, hsent, when, if_true]

end

/-! ### Fetches (07 R225) -/

theorem exec_shardFetch_met {s : State} {m : Mg} {b : Fin 4} {f : Fetch} (hon : poweredUp s = true)
    (hmet : (fetchList s m b).find? (·.met) = some f) : exec (.shardFetch m b) s = .next (ended s (runFetch s m b f)) := by
  refine (finish_on s _ hon).trans ?_
  rw [shardFetch, hmet]

/-! ### Stop, resumption, failure (07 R235, R237) -/

section
variable {s : State} {m : Mg} {e : Fin 4}

theorem exec_engineStop_sound (hon : poweredUp s = true) (hsound : engState s (engAt m e) ≠ 5) :
    exec (.engineStop m e) s = .next (ended s (setEng s (engAt m e) 4)) := by
  refine (finish_on s _ hon).trans ?_
  rw [engineStop, if_neg hsound]

theorem exec_engineResume_stopped (hon : poweredUp s = true) (hstopped : engState s (engAt m e) = 4) :
    exec (.engineResume m e) s = .next (ended s (setEng s (engAt m e) (engShown (engOf s (engAt m e))))) := by
  refine (finish_on s _ hon).trans ?_
  rw [engineResume, if_pos hstopped]

theorem exec_engineFault_on (hon : poweredUp s = true) : exec (.engineFault m e) s = .next (ended s (engineFault s (engAt m e))) :=
  finish_on s _ hon

end

section
variable {s u : State} {x t : Fin 16}

/-- An engine has failed: it, and each of its manger that failed before it, names the engine that serves its shards now. -/
def heirsNamed (s : State) (x : Fin 16) : State :=
  each ((List.finRange 16).filter (fun f => f.val / 4 == x.val / 4 && engState (setEng s x 5) f == 5))
    (fun s f => setF s (engReg f 8) 4 2 (heirOf s f)) (setEng s x 5)

theorem engineFault_passes (hsound : engState s x ≠ 5) (hpasses : serving (heirsNamed s x) x ≠ x) :
    engineFault s x = emit (passShards (heirsNamed s x) x (serving (heirsNamed s x) x)) (engSrc x) 0x0887 x.val 0 := by
  rw [engineFault, if_neg hsound]
  exact congrArg (fun u => emit u (engSrc x) 0x0887 x.val 0) (if_neg hpasses)

theorem engineFault_alone (hsound : engState s x ≠ 5) (halone : serving (heirsNamed s x) x = x) :
    engineFault s x = emit (heirsNamed s x) (engSrc x) 0x0887 x.val 0 := by
  rw [engineFault, if_neg hsound]
  exact congrArg (fun u => emit u (engSrc x) 0x0887 x.val 0) (if_pos halone)

/-- An engine that has been given what another has parked, and its waiting signals. -/
def givenParked (u : State) (x t : Fin 16) : EngSt :=
  { engOf u t with parked := (engOf u t).parked ++ (engOf u x).parked, sigWait := (engOf u t).sigWait ++ (engOf u x).sigWait }

/-- The failed engine holds nothing, and the other its parked shards; the ring has not passed yet. -/
def parkedPassed (u : State) (x t : Fin 16) : State := putEng (putEng u x {}) t (givenParked u x t)

theorem passShards_idle (hother : t ≠ x) (hidle : (engOf u x).run = none) :
    passShards u x t = each (engOf u x).ring (fun s w => pushLater s t w) (parkedPassed u x t) := by
  have hemptied : engOf (putEng u x {}) t = engOf u t := engOf_putEng_other u x t {} hother
  simp only [passShards, hidle, updEng, hemptied, List.nil_append, parkedPassed, givenParked]

/-- What an idle engine holds passes whole to one whose ring has room for it. -/
theorem passShards_moves (hother : t ≠ x) (hidle : (engOf u x).run = none) (hnone : u.upd.trigs = []) (hserves : serving u t = t)
    (hroom : (engOf u t).ring.length + (engOf u x).ring.length ≤ 256) :
    engOf (passShards u x t) x = {} ∧ (engOf (passShards u x t) t).ring = (engOf u t).ring ++ (engOf u x).ring
      ∧ (engOf (passShards u x t) t).parked = (engOf u t).parked ++ (engOf u x).parked := by
  have hgiven : engOf (parkedPassed u x t) t = givenParked u x t := engOf_putEng _ t _
  have hemptied : engOf (parkedPassed u x t) x = {} := (engOf_putEng_other _ t x _ hother.symm).trans (engOf_putEng u x {})
  obtain ⟨hsame, hrest⟩ := each_pushLater_engOf (engOf u x).ring (s := parkedPassed u x t) hnone
    ((serving_putEng _).trans ((serving_putEng _).trans hserves)) (by rw [hgiven]; exact hroom)
  rw [passShards_idle hother hidle, hsame, hgiven, hrest x hother.symm]
  exact ⟨hemptied, rfl, rfl⟩

end

/-! ### Retried moves (07 R233) -/

theorem exec_moveUpRetry_requests {s : State} {m : Mg} {e : Fin 4} {n : BitVec 27} {h : HomeRec} (hon : poweredUp s = true)
    (hmoves : (engOf s (engAt m e)).moves = [n]) (hrec : nameRec s n.toNat = some h) (htier : h.tier = 4) (hstill : h.move = 0) :
    exec (.moveUpRetry m e) s
      = .next (ended s (requestMove s { moveOf n.toNat with pinAfter := some true, forEngine := some (engAt m e) } 1).2) := by
  refine (finish_on s _ hon).trans ?_
  simp only [moveUpRetry, hmoves, each, List.foldl_cons, List.foldl_nil, hrec, htier, hstill, and_self, if_true]

/-! ### Pinned copies (08 R244, R245, R251) -/

section
variable {s u : State} {map : Addr} {entry h e d : Nat} {t : Tensor}

theorem exec_pinRefill_on (hon : poweredUp s = true) : exec (.pinRefill map entry) s = .next (ended s (pinRefill s map entry)) :=
  finish_on s _ hon

/-- An entry of a pin map waits for the gate, or for the rollout batch that runs. -/
def pinWaits (s : State) (map : Addr) (entry : Nat) (met : Bool) : State :=
  onUpd s (fun x => { x with pins := x.pins ++ [(map, entry, met)] })

/-- An entry is legal, with its set's descriptor and the tensor that it refills (08 R244). -/
structure PinLegal (s : State) (map : Addr) (entry h e d : Nat) (t : Tensor) : Prop where
  head : readRec s map.toNat 64 = some h
  entries : 1 ≤ pmN h
  bound : pmN h ≤ 4096
  reserved : field h 40 472 = 0
  within : entry < pmN h
  body : readRec s (map.toNat + 64 + 32 * entry) 32 = some e
  bits : field e 113 143 = 0
  set : setDesc s (peSet e) = some d
  tensor : pinTensor s d e = some t

theorem PinLegal.entry_ok (hpin : PinLegal s map entry h e d t) : pinEntry s map h entry = .ok (e, d, t) := by
  have hlegal : ¬(pmN h = 0 ∨ 4096 < pmN h ∨ field h 40 472 ≠ 0) := by
    have := hpin.entries; have := hpin.bound; have := hpin.reserved; omega
  simp only [pinEntry, if_neg hlegal, hpin.body, hpin.set, hpin.tensor, hpin.bits, if_true]

theorem PinLegal.not_past (hpin : PinLegal s map entry h e d t) : ¬(pmN h ≤ entry ∧ pmN h ≠ 0) :=
  fun hpast => Nat.not_le.mpr hpin.within hpast.1

/-- A refill whose gate has released runs unless a rollout batch does. -/
theorem pinRefill_released (hpin : PinLegal s map entry h e d t)
    (hfound : s.upd.pins.find? (fun p => p.1 == map && p.2.1 == entry) = some (map, entry, true)) (hfree : batchRuns s (pmRtally h) = false) :
    pinRefill s map entry = pinCopy (pinDone s map entry) map entry h e d t := by
  simp only [pinRefill, hpin.head, if_neg hpin.not_past, hpin.entry_ok, hfound, hfree, Bool.false_eq_true, if_false]

/-- A new refill that the gate lets pass at once runs, or waits for the rollout batch. -/
theorem pinRefill_through (hpin : PinLegal s map entry h e d t) (hnew : s.upd.pins.find? (fun p => p.1 == map && p.2.1 == entry) = none)
    (hask : askNow s (.pin map entry) .arriveWait (sdUgate d) 0 = (some 0, u)) :
    pinRefill s map entry = if batchRuns s (pmRtally h) then pinWaits u map entry true else pinCopy u map entry h e d t := by
  simp only [pinRefill, hpin.head, if_neg hpin.not_past, hpin.entry_ok, hnew, hask]
  rfl

theorem pinRefill_gated (hpin : PinLegal s map entry h e d t) (hnew : s.upd.pins.find? (fun p => p.1 == map && p.2.1 == entry) = none)
    (hask : askNow s (.pin map entry) .arriveWait (sdUgate d) 0 = (none, u)) : pinRefill s map entry = pinWaits u map entry false := by
  simp only [pinRefill, hpin.head, if_neg hpin.not_past, hpin.entry_ok, hnew, hask, pinWaits]

end

/-- Settles O17, engine by engine: its ring and the three kinds of trigger, a block's commit, the norms, fetches, stop, resumption and
failure, a retried move, and the refill of a pinned copy. The members of the norm group are consecutive modules (log entry 53), the heir
of a failed engine is log entry 59's, the refill of a pinned copy log entry 60's, and the end of a rollout batch log entry 131's. -/
theorem engineCommandsComplete : Obligations.EngineCommandsComplete := by
  refine ⟨⟨?_, ?_⟩, ⟨?_, ?_, ?_, ?_, ?_, ?_, ?_, ?_, ?_⟩⟩
  · intro s m e w hon x
    exact ⟨exec_triggerPush_joins hon, exec_triggerPush_full hon⟩
  · intro s m e w rest hon x hready hidle hring
    refine ⟨?_, ?_, ?_⟩
    · intro hparked hroom hkind hgrad
      rw [exec_updateTrigger_on hon, updateTrigger_serves hready hidle hring hparked hroom hkind hgrad]
    · intro hkind
      rw [exec_regenerateTrigger_on hon, regenerateTrigger_serves hready hidle hring hkind]
    · intro hroom hkind
      rw [exec_resumeTrigger_on hon, resumeTrigger_serves hready hidle hring hroom hkind]
  · intro s m e run d r j hon hrun hready hbegun hmoves hlegal hjournal hstill
    rw [exec_blockCommit_on hon, blockCommit_begun hrun hready hbegun hmoves hlegal hjournal hstill]
    refine ⟨?_, ?_⟩
    · intro hclean
      rw [hclean]
      rfl
    · intro hpoisoned
      rw [hpoisoned]
      rfl
  · intro s set n d u hon htaken hnorm hset hsent hmet hpart
    rw [exec_normExchange_on hon, normExchange_norm htaken hnorm hset hsent hmet hpart]
    rfl
  · intro s hon n
    rw [exec_updGnClose_on hon]
    refine ⟨?_, ?_⟩
    · intro hbusy
      rw [gnClose_queued hbusy]
      rfl
    · intro hfree
      rw [gnClose_exchanges hfree]
      rfl
  · intro s set n hon hlocal hnorm hsent
    exact exec_normWaitTimeout_waits hon hlocal hnorm hsent
  · intro s m b f hon hmet
    exact exec_shardFetch_met hon hmet
  · intro s m e hon
    exact ⟨exec_engineStop_sound hon, exec_engineResume_stopped hon⟩
  · intro s m e hon hsound x u
    rw [exec_engineFault_on hon]
    refine ⟨?_, ?_, ?_⟩
    · intro hpasses
      rw [engineFault_passes hsound hpasses]
      rfl
    · intro halone
      rw [engineFault_alone hsound halone]
      rfl
    · intro t hother hidle hnone hserves hroom
      exact passShards_moves hother hidle hnone hserves hroom
  · intro s m e n h hon hmoves hrec htier hstill
    exact exec_moveUpRetry_requests hon hmoves hrec htier hstill
  · intro s map entry h e d t hon hhead hentries hbound hreserved hwithin hbody hbits hset htensor
    have hpin : PinLegal s map entry h e d t := ⟨hhead, hentries, hbound, hreserved, hwithin, hbody, hbits, hset, htensor⟩
    rw [exec_pinRefill_on hon]
    refine ⟨?_, ?_⟩
    · intro hfound hfree
      rw [pinRefill_released hpin hfound hfree]
    · intro hnew
      refine ⟨?_, ?_, ?_⟩
      · intro u hask hfree
        rw [pinRefill_through hpin hnew hask, hfree]
        rfl
      · intro u hask hruns
        rw [pinRefill_through hpin hnew hask, hruns]
        rfl
      · intro u hask
        rw [pinRefill_gated hpin hnew hask]
        rfl

end Sys2Proof.Machine
end

section
/-! SUPPORT. The statement of the PARAM commands (07 R206, R213, R226; 10 R320; 13 R407) and of a secure point's writing, reading and
restore (16 R471–R476). -/

namespace Sys2Proof.Machine

/-! ### The commands end as their bodies leave the slot begun (13 R400, R404) -/

section
variable {s : State} {k : MbSlot}

theorem exec_setTable_ready (h : CommandReady s k 0x0501 (fun l => l == 40)) :
    exec (.setTable k) s = .next (settled s (setTable (mbBegin s k) k (mbOf s k))) := finish_exactly s k _ 40 setTable h

theorem exec_restoreList_ready (h : CommandReady s k 0x0502 (fun l => decide (2 ≤ l ∧ l ≤ 10) && l % 2 == 0)) :
    exec (.restoreList k) s = .next (settled s (restoreList (mbBegin s k) k (mbOf s k))) :=
  finish_runCommand s k _ (fun _ l => decide (2 ≤ l ∧ l ≤ 10) && l % 2 == 0) restoreList h

theorem exec_regenerate_ready (h : CommandReady s k 0x0503 (fun l => l == 12)) :
    exec (.regenerate k) s = .next (settled s (regenerateCommand (mbBegin s k) k (mbOf s k))) :=
  finish_exactly s k _ 12 regenerateCommand h

theorem exec_program_ready (h : CommandReady s k 0x0504 (fun l => decide (16 ≤ l ∧ l ≤ 520) && l % 8 == 0)) :
    exec (.program k) s = .next (settled s (program (mbBegin s k) k (mbOf s k))) :=
  finish_runCommand s k _ (fun _ l => decide (16 ≤ l ∧ l ≤ 520) && l % 8 == 0) program h

theorem exec_securePoint_ready (h : CommandReady s k 0x0505 (fun l => l == 10)) :
    exec (.securePoint k) s = .next (settled s (securePoint (mbBegin s k) k (mbOf s k))) := finish_exactly s k _ 10 securePoint h

theorem exec_restore_ready (h : CommandReady s k 0x0506 (fun l => l == 10)) :
    exec (.restore k) s = .next (settled s (restore (mbBegin s k) k (mbOf s k))) := finish_exactly s k _ 10 restore h

end

/-! ### SET-TABLE, REGENERATE, PROGRAM (07 R206, R213, R226) -/

section
variable {s u : State} {k : MbSlot} {m : MbSt}

/-- The table's register, the two pools' and every manger's rounding key hold the command's words. -/
def tableSet (s : State) (m : MbSt) : State :=
  each allMangers (fun s g => setReg s (mangerReg g 0x300018) (BitVec.ofNat 64 (mbArg m 32 8)))
    (setReg (setReg (setReg s (mangerReg 0 0x300000) (BitVec.ofNat 64 (mbArg m 0 8 + mbArg m 8 2 <<< 48)))
      (poolReg false) (BitVec.ofNat 64 (mbArg m 16 8))) (poolReg true) (BitVec.ofNat 64 (mbArg m 24 8)))

theorem setTable_legal (hplace : mbArg m 0 8 < 2 ^ 48) (haligned : mbArg m 0 8 % 256 = 0)
    (hpools : ∀ o, o = 16 ∨ o = 24 → field (mbArg m o 8) 27 5 = 0 ∧ field (mbArg m o 8) 43 21 = 0) :
    setTable s k m = mbOk (tableSet s m) k [] := by
  obtain ⟨hloftLow, hloftHigh⟩ := hpools 16 (Or.inl rfl)
  obtain ⟨hspillLow, hspillHigh⟩ := hpools 24 (Or.inr rfl)
  have htable : ¬(2 ^ 48 ≤ mbArg m 0 8 ∨ mbArg m 0 8 % 256 ≠ 0) := by omega
  simp only [setTable, if_neg htable, hloftLow, hloftHigh, hspillLow, hspillHigh, decide_true, Bool.and_self, Bool.not_true,
    Bool.false_eq_true, if_false, tableSet]

/-- The regenerate triggers of a command that has found its set: how many were pushed, the status, and the state. -/
def regenerated (s : State) (m : MbSt) (d : Nat) : Nat × Nat × State :=
  pushRegenerates (BitVec.ofNat 16 (mbArg m 0 2)) d (pick s 2).1 (mbArg m 8 4) (pick s 2).2 (mbArg m 4 4) 0

theorem regenerateCommand_legal {d : Nat} (hset : setDesc s (BitVec.ofNat 16 (mbArg m 0 2)) = some d) (hlegal : sdLegal d = true) :
    regenerateCommand s k m = mbComplete (regenerated s m d).2.2 k (regenerated s m d).2.1 [(4, (regenerated s m d).1)] 0xFFFF := by
  simp only [regenerateCommand, hset, hlegal, Bool.not_true, Bool.false_eq_true, if_false, regenerated]

/-- One shard's trigger is pushed and counted. -/
theorem pushRegenerates_one {set : BitVec 16} {d announce i r : Nat} (hshard : i < sdShards d)
    (hrec : shardRec s d (BitVec.ofNat 24 i) = some r)
    (hpush : pushTrigger s (srEng r) (triggerWord set (BitVec.ofNat 24 i) announce 1) = some u) :
    pushRegenerates set d announce 1 s i 0 = (1, 0, u) := by
  simp only [pushRegenerates, if_neg (Nat.not_le.mpr hshard), hrec, hpush]

/-- The words of a slot are written in all four mangers. -/
def programmed (s : State) (m : MbSt) : State :=
  each allMangers (fun s g => each (List.range ((mbLen m - 8) / 8)) (fun s i =>
    setReg s (progReg g (mbArg m 0 1) i) (BitVec.ofNat 64 (mbArg m (8 + 8 * i) 8))) s) s

theorem program_writes (hlow : 5 ≤ mbArg m 0 1) (hhigh : mbArg m 0 1 ≤ 7) (hfree : ∀ g, progInUse s g (mbArg m 0 1) = false) :
    program s k m = mbOk (programmed s m) k [] := by
  have hslot : ¬(mbArg m 0 1 < 5 ∨ 7 < mbArg m 0 1) := by omega
  have hnone : allMangers.any (fun g => progInUse s g (mbArg m 0 1)) = false := List.any_eq_false.mpr (fun g _ => by
    rw [hfree g]
    exact Bool.false_ne_true)
  simp only [program, if_neg hslot, hnone, Bool.false_eq_true, if_false, programmed]

end

/-! ### An image is written (16 R471, R473, R474) -/

section
variable {s : State} {p : Point}

theorem length_toBytes (n v : Nat) : (toBytes n v).length = n := by
  induction n generalizing v with
  | zero => rfl
  | succ n ih => rw [toBytes, List.length_cons, ih]

theorem length_headerBytes (complete : Bool) : (headerBytes p complete).length = 128 := length_toBytes 128 _

@[simp] theorem writeHost_svc (a : Nat) (d : List Byte) : (writeHost s a d).svc = s.svc := by
  unfold writeHost
  split <;> rfl

@[simp] theorem writeHostPieces_svc (l : List (Nat × Nat)) (d : List Byte) : (writeHostPieces s l d).svc = s.svc := by
  induction l generalizing s d with
  | nil => rfl
  | cons q l ih => rw [writeHostPieces, ih, writeHost_svc]

theorem writeImageAt_host {off : Nat} {x : List Byte} (hown : p.module = ownModule s)
    (hwritable : hostWritable s (p.target + off) x.length = true) :
    writeImageAt s p off x = writeHostPieces s (pieces (p.target + off) x.length) x := by
  simp only [writeImageAt, if_pos hown, hwritable, if_true]

theorem writeImageAt_partner {off : Nat} {x : List Byte} (haway : p.module ≠ ownModule s) :
    writeImageAt s p off x = writePartner p.module s (chunk 4096 x) (p.target + off) := if_neg haway

/-- The entry of a section that stands next in an image. -/
def nextSection (p : Point) (kind : Nat) (set : BitVec 16) (x : List Byte) : Section :=
  { kind := kind, set := set, off := p.next, len := x.length, dig := Config.digest 0 x }

theorem writeSection_point (hpoint : s.svc.point = some p) (kind : Nat) (set : BitVec 16) (x : List Byte) :
    writeSection s kind set x
      = writeImageAt (writeImageAt (onPoint s (fun q => { q with
          sections := q.sections ++ [nextSection p kind set x], next := q.next + ceilDiv x.length 64 * 64 })) p p.next x)
        p (128 + 64 * p.sections.length) (entryBytes (nextSection p kind set x)) := by
  simp only [writeSection, hpoint, nextSection]

/-! ### Taking a point (16 R472, R476) -/

/-- A point whose step is not fixed, or that has sets left, waits for them. -/
theorem settlePoint_waits (hpoint : s.svc.point = some p) (hsound : p.failed = 0) (hopen : p.fixed = false ∨ p.setsLeft ≠ []) :
    settlePoint s = s := by
  have hleft : (!p.fixed) = true ∨ p.setsLeft ≠ [] ∨ (!(waitingOf s .groom 2).isEmpty) = true :=
    hopen.elim (fun h => Or.inl (by rw [h]; rfl)) (fun h => Or.inr (Or.inl h))
  simp only [settlePoint, hpoint, hsound, ne_eq, not_true_eq_false, if_false]
  exact if_pos hleft

theorem readSet_without_bales {set : BitVec 16} {d st : Nat} (hnone : sdBrec d = 0) :
    readSet s set d st = unpark (onPoint (writeSection (writeSection s 1 set (shardData s d)) 3 set
        (journalData (writeSection s 1 set (shardData s d)) d)) (fun p => { p with setsLeft := p.setsLeft.filter (fun x => x != set) }))
      (fun p => if p.reason = .point ∧ p.run.set = set then some p.run else none) := by
  simp only [readSet, if_pos hnone]

theorem exec_securePointSetRead_fixed {set : BitVec 16} {d st : Nat} (hon : poweredUp s = true) (hpoint : s.svc.point = some p)
    (hset : (ownedSets s).find? (fun e => e.1 == set) = some (set, d)) (hleft : set ∈ p.setsLeft) (hstands : setStands s d = some st)
    (hfixed : p.fixed = true) (hstep : st = p.step) :
    exec (.securePointSetRead set) s = .next (settled s (settlePoint (readSet s set d st))) := by
  refine (finish_on s _ hon).trans ?_
  have hin : p.setsLeft.contains set = true := List.contains_iff_mem.mpr hleft
  simp only [setRead, hpoint, hset, hin, hstands, hfixed, if_pos hstep, Bool.not_true, Bool.false_eq_true, if_false, if_true, settled]

end

/-! ### SECURE-POINT (16 R472) -/

section
variable {s : State} {k : MbSlot} {m : MbSt}

/-- The identifier of the next point: its number, and the module above it. -/
def nextPointId (s : State) : Nat := (s.svc.pointsTaken + 1) % 2 ^ 48 + (ownModule s).toNat <<< 48

/-- The point that a command begins, for an image at a target. -/
def begunPoint (s : State) (k : MbSlot) (md : ModuleId) (target : Nat) : Point :=
  let sets := ownedSets s
  let nsec := sumOf (sets.map (fun e => if sdBrec e.2 = 0 then 2 else 3)) + 2
  { id := BitVec.ofNat 64 (nextPointId s), module := md, target := target, slot := some k
    setsLeft := sets.map Prod.fst, stood := sets.filterMap (fun e => (setStands s e.2).map (fun st => (e.1, st)))
    nsec := nsec, next := 128 + 64 * nsec }

/-- The point that a command begins in its own module's host memory. -/
def ownPoint (s : State) (k : MbSlot) (target : Nat) : Point := begunPoint s k (ownModule s) target

/-- The point that a command begins for a partner. -/
def partnerPoint (s : State) (k : MbSlot) (md : ModuleId) : Point := begunPoint s k md (partnerPlace (nextPointId s))

/-- A point is under way, and counted. -/
def pointBegun (s : State) (p : Point) : State :=
  onSvc s (fun v => { v with pointsTaken := s.svc.pointsTaken + 1, point := some p })

theorem hostWritable_onSvc (f : Service → Service) (a n : Nat) : hostWritable (onSvc s f) a n = hostWritable s a n := rfl

/-- The header of a point that has begun is written where the host range takes it. -/
theorem header_at_host {p : Point} {complete : Bool} (hown : p.module = ownModule s) (hwritable : hostWritable s p.target 128 = true) :
    writeImageAt (pointBegun s p) p 0 (headerBytes p complete)
      = writeHostPieces (pointBegun s p) (pieces p.target 128) (headerBytes p complete) := by
  have hroom : hostWritable (pointBegun s p) (p.target + 0) (headerBytes p complete).length = true := by
    rw [pointBegun, hostWritable_onSvc, length_headerBytes, Nat.add_zero]
    exact hwritable
  rw [writeImageAt_host (s := pointBegun s p) hown hroom, length_headerBytes, Nat.add_zero]

/-- A point whose step is not fixed waits for a set once its header is written. -/
theorem settlePoint_header {p : Point} (hsound : p.failed = 0) (hopen : p.fixed = false) (l : List (Nat × Nat)) (x : List Byte) :
    settlePoint (writeHostPieces (pointBegun s p) l x) = writeHostPieces (pointBegun s p) l x := by
  have hpoint : (writeHostPieces (pointBegun s p) l x).svc.point = some p := by
    rw [writeHostPieces_svc]
    rfl
  exact settlePoint_waits hpoint hsound (Or.inl hopen)

theorem securePoint_second (hbusy : s.svc.point.isSome = true) : securePoint s k m = mbFail s k 0x0B02 := if_pos hbusy

/-- A point for this module's host memory writes its header where the host range takes it, and waits for a set. -/
theorem securePoint_own (hfree : s.svc.point = none) (hown : BitVec.ofNat 16 (mbArg m 8 2) = ownModule s)
    (hwritable : hostWritable s (mbArg m 0 8) 128 = true) :
    securePoint s k m = writeHostPieces (pointBegun s (ownPoint s k (mbArg m 0 8))) (pieces (mbArg m 0 8) 128)
      (headerBytes (ownPoint s k (mbArg m 0 8)) false) := by
  have hbegins : securePoint s k m = settlePoint (writeImageAt (pointBegun s (ownPoint s k (mbArg m 0 8)))
      (ownPoint s k (mbArg m 0 8)) 0 (headerBytes (ownPoint s k (mbArg m 0 8)) false)) := by
    simp only [securePoint, hfree, hown, hwritable, Option.isSome_none, decide_true, Bool.not_true, Bool.false_eq_true,
      false_and, if_false, if_true]
    rfl
  rw [hbegins, header_at_host (p := ownPoint s k (mbArg m 0 8)) rfl hwritable]
  exact settlePoint_header rfl rfl _ _

/-- A point for a partner goes to its module, at the partner's place. -/
theorem securePoint_partner (hfree : s.svc.point = none) (haway : BitVec.ofNat 16 (mbArg m 8 2) ≠ ownModule s) (hzero : mbArg m 0 8 = 0) :
    securePoint s k m = settlePoint (writePartner (BitVec.ofNat 16 (mbArg m 8 2))
      (pointBegun s (partnerPoint s k (BitVec.ofNat 16 (mbArg m 8 2))))
      (chunk 4096 (headerBytes (partnerPoint s k (BitVec.ofNat 16 (mbArg m 8 2))) false)) (partnerPlace (nextPointId s))) := by
  have hbegins : securePoint s k m = settlePoint (writeImageAt (pointBegun s (partnerPoint s k (BitVec.ofNat 16 (mbArg m 8 2))))
      (partnerPoint s k (BitVec.ofNat 16 (mbArg m 8 2))) 0 (headerBytes (partnerPoint s k (BitVec.ofNat 16 (mbArg m 8 2))) false)) := by
    simp only [securePoint, hfree, haway, hzero, Option.isSome_none, decide_false, ne_eq, not_true_eq_false, and_false,
      Bool.false_eq_true, false_and, if_false]
    rfl
  rw [hbegins, writeImageAt_partner haway]
  rfl

end

/-! ### RESTORE (16 R475) -/

section
variable {s : State} {k : MbSlot} {m : MbSt}

/-- Nothing runs on the module: no live region, no trigger in a ring, no restore. -/
structure RestoreReady (s : State) : Prop where
  regions : liveRegions s = []
  rings : ∀ e ∈ s.upd.engines, e.2.ring = []
  restores : s.svc.restore = none

theorem RestoreReady.not_busy (h : RestoreReady s) : ¬(liveRegions s ≠ [] ∨ s.upd.engines.any (fun e => !e.2.ring.isEmpty) = true) := by
  rintro (hlive | hring)
  · exact hlive h.regions
  · obtain ⟨e, he, hwaits⟩ := List.any_eq_true.mp hring
    rw [h.rings e he] at hwaits
    exact Bool.false_ne_true hwaits

theorem restore_away (hready : RestoreReady s) (haway : BitVec.ofNat 16 (mbArg m 8 2) ≠ ownModule s) :
    restore s k m = settleRestore (onSvc s (fun v => { v with restore := some {
      slot := k, id := BitVec.ofNat 64 (mbArg m 0 8), module := BitVec.ofNat 16 (mbArg m 8 2)
      base := partnerPlace (BitVec.ofNat 64 (mbArg m 0 8)).toNat, asked := 0 } })) := by
  simp only [restore, if_neg hready.not_busy, hready.restores, Option.isSome_none, Bool.false_eq_true, if_false, if_neg haway]

theorem restore_own {p : Point} {img : List Byte} (hready : RestoreReady s) (hown : BitVec.ofNat 16 (mbArg m 8 2) = ownModule s)
    (hkept : s.svc.points.find? (fun p => p.id == BitVec.ofNat 64 (mbArg m 0 8) && p.module == BitVec.ofNat 16 (mbArg m 8 2)) = some p)
    (himg : hostImage s p.target = some img) :
    restore s k m = applyImage s k (BitVec.ofNat 64 (mbArg m 0 8)) img := by
  simp only [restore, if_neg hready.not_busy, hready.restores, Option.isSome_none, Bool.false_eq_true, if_false, if_pos hown, hkept, himg]

/-- The sections of an image stand at their homes. -/
def imageRestored (s : State) (img : List Byte) : State := each (imgSections img) (restoreSection (imgStep img) img) s

/-- Every owned shard of the restored sets is announced. -/
def restoredAnnounced (u : State) : State :=
  each (ownedSets u) (fun s e => each (localShards s e.2) (fun s x => announceShard s e.1 x.1 e.2 x.2) s) u

/-- The restored sets' gates are open, and fetches await the image's step. -/
def restoredOpened (u : State) (img : List Byte) : State :=
  each (ownedSets u) (fun s e => openGate s e.2) (awaitStep (restoredAnnounced u) (imgStep img))

theorem applyImage_sound {id : Word} {img : List Byte} (hsound : imgSound s id img = true) :
    applyImage s k id img = mbOk (emit (restoredOpened (imageRestored s img) img) (srcGroom (restoredOpened (imageRestored s img) img))
      0x0B89 (id.toNat % 2 ^ 48) (imgStep img)) k [(8, imgStep img)] := by
  rw [applyImage, hsound]
  rfl

end

/-- Settles O45, command by command; then the reading of a set that stands at the point's step, and the rules by which an image is
written: a set's sections, a section with its entry, a place in host memory, and a point that waits. The words of a program begin at
byte 8 and whether REGENERATE announces is free (log entry 96); a partner's place and the order within sections are log entry 112's. -/
theorem paramCommandsComplete : Obligations.ParamCommandsComplete := by
  refine ⟨fun s k => ⟨?_, ?_, ?_, ?_, ?_, ?_⟩, ?_, ?_⟩
  · intro hready hplace haligned hpools
    rw [exec_setTable_ready hready, setTable_legal hplace haligned hpools]
    rfl
  · intro hready
    exact exec_restoreList_ready hready
  · intro d hready hset hlegal x
    have hends := (exec_regenerate_ready hready).trans
      (congrArg (fun u => Host.Outcome.next (settled s u)) (regenerateCommand_legal (k := k) hset hlegal))
    refine ⟨hends, ?_⟩
    intro r u hone hshard hrec hpush
    rw [hends, regenerated, hone, pushRegenerates_one hshard hrec hpush]
  · intro hready hlow hhigh hfree
    rw [exec_program_ready hready, program_writes hlow hhigh hfree]
    rfl
  · intro hready
    rw [exec_securePoint_ready hready]
    refine ⟨?_, ?_, ?_⟩
    · intro hbusy
      rw [securePoint_second hbusy]
    · intro hfree hown hwritable
      rw [securePoint_own hfree hown hwritable]
      rfl
    · intro hfree haway hzero
      rw [securePoint_partner hfree haway hzero]
      rfl
  · intro hready hregions hrings hnone
    have hrestore : RestoreReady (mbBegin s k) := ⟨hregions, hrings, hnone⟩
    rw [exec_restore_ready hready]
    refine ⟨?_, ?_⟩
    · intro haway
      rw [restore_away hrestore haway]
    · intro p img hown hkept himg
      rw [restore_own hrestore hown hkept himg]
      refine ⟨rfl, ?_⟩
      intro hsound
      rw [applyImage_sound hsound]
      rfl
  · intro s set d st p hon hpoint hset hleft hstands hfixed hstep
    exact exec_securePointSetRead_fixed hon hpoint hset hleft hstands hfixed hstep
  · intro s set d st p
    refine ⟨?_, ?_, ?_, ?_⟩
    · intro hnone
      exact readSet_without_bales hnone
    · intro kind x hpoint
      exact writeSection_point hpoint kind set x
    · intro off x hown hwritable
      exact writeImageAt_host hown hwritable
    · intro hpoint hsound hopen
      exact settlePoint_waits hpoint hsound hopen

end Sys2Proof.Machine
end

section
/-! SUPPORT. The statement of the barrows' commands (09 R265–R288): the start of a descriptor's operation and its checks, tiles within
the lead and how their runs land, a descriptor's completion, the queues and what they fetch, landed writes, stop, resumption and skip,
and a manger's faulty barrow. -/

namespace Sys2Proof.Machine

/-! ### The command of an operation (09 R266, R267) -/

section
variable {s t u : State} {b : BrwId} {j k : BrwJob}

/-- The command of an operation, by its number in the descriptor. -/
def barrowCommand (b : BrwId) : Nat → Instr
  | 0 => .barrowNop b
  | 1 => .barrowCopy b
  | 2 => .barrowGather b
  | 3 => .barrowScatter b
  | 4 => .barrowScatterAdd b
  | _ => .barrowClose b

theorem exec_barrowCommand_on (hon : poweredUp s = true) :
    ∀ op : Fin 6, exec (barrowCommand b op.val) s = .next (ended s (runOp s b op.val))
  | 0 => finish_on s _ hon
  | 1 => finish_on s _ hon
  | 2 => finish_on s _ hon
  | 3 => finish_on s _ hon
  | 4 => finish_on s _ hon
  | 5 => finish_on s _ hon

/-- A descriptor is under way on a barrow that runs: its wait is met, and its operation has not started. -/
structure OpReady (s : State) (b : BrwId) (j : BrwJob) : Prop where
  powered : poweredUp s = true
  job : (brwOf s b).job = some j
  runs : brwOn s b = true
  met : j.waitMet = true
  fresh : j.started = false

theorem OpReady.runOp_error (h : OpReady s b j) (hstages : startStages s b j = .error t) : runOp s b (bdOp j.desc) = t := by
  simp only [runOp, h.job, h.runs, h.met, h.fresh, hstages, ne_eq, not_true_eq_false, Bool.not_true, Bool.false_eq_true, or_self,
    if_false]

/-- A descriptor whose stages pass goes on to its tiles. -/
theorem OpReady.runOp_ok (h : OpReady s b j) (hstages : startStages s b j = .ok (u, k)) :
    runOp s b (bdOp j.desc) = goTiles u b (startTiles u b k) := by
  simp only [runOp, h.job, h.runs, h.met, h.fresh, hstages, ne_eq, not_true_eq_false, Bool.not_true, Bool.false_eq_true, or_self,
    if_false]

/-- Whichever operation the descriptor names, its command ends in what running it makes. -/
theorem OpReady.ends (h : OpReady s b j) (hrun : runOp s b (bdOp j.desc) = t) (op : Fin 6) (hop : bdOp j.desc = op.val) :
    exec (barrowCommand b op.val) s = .next (ended s t) := by
  rw [exec_barrowCommand_on h.powered, ← hop, hrun]

theorem planStage_error {c : Nat} (hnew : j.plan = none)
    (hplan : plan (notePlan s (jobAgent b j) j.desc) j.desc (imageOf j) = .error c) :
    planStage s b j = .error (failJob (notePlan s (jobAgent b j) j.desc) b j c) := by
  simp only [planStage, hnew, Option.isSome_none, Bool.false_eq_true, if_false, hplan]

theorem startStages_error (hplan : planStage s b j = .error t) : startStages s b j = .error t := by
  simp only [startStages, hplan]

end

/-! ### NOP (09 R267) -/

section
variable {s : State} {b : BrwId} {j : BrwJob}

/-- A plan without tensors moves nothing. -/
theorem transferOf_no_tensors (hplan : j.plan = some {}) : transferOf s b j = none := by
  have hwhole : wholeTransfer s b j = none := by simp only [wholeTransfer, hplan]
  unfold transferOf
  split
  · exact hwhole
  · rw [hwhole]
    rfl

/-- A NOP as it has been planned: no tensors, and one free choice drawn for it. -/
def plannedNop (s : State) (j : BrwJob) : BrwJob := { j with plan := some {}, draw := s.draws }

theorem planStage_nop (hop : bdOp j.desc = 0) (hnew : j.plan = none) (hlegal : bdLegal j.desc (imageOf j) = true) :
    planStage s b j = .ok (putJob { s with draws := s.draws + 1 } b (plannedNop s j), plannedNop s j) := by
  simp only [planStage, hnew, notePlan, plan, hop, hlegal, Option.isSome_none, Bool.not_true, Bool.false_eq_true, if_true, if_false]
  rfl

/-- A NOP reads no indices, has no pool and needs no pre-pass. -/
theorem startStages_nop (hop : bdOp j.desc = 0) (hnew : j.plan = none) (hlegal : bdLegal j.desc (imageOf j) = true) :
    startStages s b j = .ok (putJob { s with draws := s.draws + 1 } b (plannedNop s j), plannedNop s j) := by
  have hindex (u : State) : indexStage u b (plannedNop s j) = .ok (u, plannedNop s j) := rfl
  have hpool (u : State) : poolStage u b (plannedNop s j) = .ok (u, plannedNop s j) :=
    if_pos (fun hclose => absurd (hop.symm.trans hclose) (by decide))
  have hpre (u : State) : prepassStage u b (plannedNop s j) = .ok (u, plannedNop s j) := by
    rw [prepassStage, transferOf_no_tensors rfl]
  simp only [startStages, planStage_nop hop hnew hlegal, hindex, ite_self, hpool, hpre]

theorem startTiles_nothing (hnone : transferOf s b j = none) : startTiles s b j = { j with started := true, tiles := 0 } := by
  rw [startTiles, hnone]

theorem noteLosses_none (hbad : j.badLines = []) (hdropped : j.dropped = 0) : noteLosses s b j = s := by
  simp only [noteLosses, hbad, hdropped, if_true]

theorem goTiles_nothing (hnone : transferOf s b j = none) (hbad : j.badLines = []) (hdropped : j.dropped = 0) :
    goTiles s b j = if imageOf j then nextInBlock s b j else putJob s b j := by
  simp only [goTiles, finishReads, hnone, noteLosses_none hbad hdropped]

/-- A planned NOP as it starts: it has no tiles. -/
def startedNop (s : State) (j : BrwJob) : BrwJob := { plannedNop s j with started := true, tiles := 0 }

/-- A NOP has nothing to move: its block's next descriptor starts, or its queue waits for its completion. -/
theorem OpReady.runOp_nop (h : OpReady s b j) (hop : bdOp j.desc = 0) (hnew : j.plan = none)
    (hlegal : bdLegal j.desc (imageOf j) = true) (hbad : j.badLines = []) (hdropped : j.dropped = 0) :
    runOp s b (bdOp j.desc) = if imageOf j
      then nextInBlock (putJob { s with draws := s.draws + 1 } b (plannedNop s j)) b (startedNop s j)
      else putJob (putJob { s with draws := s.draws + 1 } b (plannedNop s j)) b (startedNop s j) := by
  rw [h.runOp_ok (startStages_nop hop hnew hlegal), startTiles_nothing (transferOf_no_tensors rfl)]
  exact goTiles_nothing (j := startedNop s j) (transferOf_no_tensors rfl) hbad hdropped

end

/-! ### Tiles within the lead (09 R271, R277) -/

section
variable {s v w : State} {b : BrwId} {j k : BrwJob} {m : Move} {src dst : Tensor} {rd : List Nat → Option Elem} {bad : List Nat}
  {rs : List OutRun}

theorem issueTiles_issued (n : Nat) (hall : j.tiles ≤ j.issued) : issueTiles n s b j m src dst = finishReads s b j := by
  cases n with
  | zero => rfl
  | succ n => exact if_pos hall

theorem issueTiles_issues (n : Nat) (hmore : j.issued < j.tiles) (hlead : j.issued < j.accepted + bdLead j.desc)
    (htile : issueTile (putJob s b j) b j m src dst = .ok (w, k)) :
    issueTiles (n + 1) s b j m src dst = issueTiles n w b k m src dst := by
  simp only [issueTiles, if_neg (Nat.not_le.mpr hmore), if_neg (Nat.not_le.mpr hlead), htile]

/-- The poisoned lines that a tile adds to those of its transfer. -/
def newBad (j : BrwJob) (bad : List Nat) : List Nat := bad.filter (fun a => !j.badLines.contains a)

/-- A tile has been read: its poison is counted, and on the transposing path its elements stand in their banks (09 R272). -/
def tileRead (v : State) (b : BrwId) (j : BrwJob) (m : Move) (rd : List Nat → Option Elem) (ks : List (List Nat)) (bad : List Nat) :
    State :=
  let x := satF v (brwBase b + 0x48) 0 32 (newBad j bad).length
  if transposing j.desc then updBrw x b (fillBanks j.desc m.copy rd ks) else x

/-- The bytes that a tile has delivered are counted, on the transposing path in a counter of their own. -/
def tileCounted (w : State) (b : BrwId) (k : BrwJob) (dst : Tensor) (rs : List OutRun) : State :=
  satF w (brwBase b + (if transposing k.desc then 0x38 else 0x30)) 0 48 (runBytes dst rs)

/-- The pieces of a transfer's next tile. -/
def nextPieces (s : State) (j : BrwJob) (m : Move) (src dst : Tensor) : List (Nat × List (List Nat)) :=
  tilePieces s j.desc m src dst j.tiles j.issued

/-- A tile whose sources can be read and whose writes nothing holds is delivered, and counted as issued. -/
theorem issueTile_delivers (hread : anySource s b j src (m.need ((nextPieces s j m src dst).flatMap Prod.snd)) = .go v rd bad)
    (hruns : tileRuns v j m dst rd (nextPieces s j m src dst) = rs) (hheld : heldWrite s b j dst rs = none)
    (hdeliver : deliverTile (tileRead v b j m rd (m.need ((nextPieces s j m src dst).flatMap Prod.snd)) bad) b
      { j with badLines := j.badLines ++ newBad j bad } src dst rs = (w, k, 0))
    (hlead : k.leadSince = none) :
    issueTile s b j m src dst = .ok (tileCounted w b k dst rs, { k with issued := k.issued + 1, leadSince := none }) := by
  simp only [nextPieces, tileRead, newBad] at hread hruns hdeliver
  simp only [issueTile, hread, hruns, hheld, hdeliver, hlead, ne_eq, not_true_eq_false, if_false, tileCounted]

theorem dropMore_zero : dropMore s b j 0 = (satF s (brwBase b + 0x48) 32 32 0, j) := rfl

/-- With its last read issued, a transfer between tensors in memory that lost nothing leaves the barrow's job alone. -/
theorem finishReads_memory (htransfer : transferOf s b j = some (m, src, dst))
    (hread : anySource s b j src (m.need (m.pieces.flatMap Prod.snd)) = .go v rd bad) (hstats : dst.stats = false)
    (hclose : bdOp j.desc ≠ 5) (hyard : bdSk j.desc ≠ 1) (hbad : j.badLines = []) (hdropped : j.dropped = 0)
    (hqueue : imageOf j = false) : finishReads s b j = putJob (satF s (brwBase b + 0x48) 32 32 0) b j := by
  cases hpool : poolOf s (bdSrc j.desc) <;>
    simp only [finishReads, htransfer, hread, hstats, Bool.and_false, Bool.false_and, Bool.false_eq_true, if_false, hpool, hclose,
      false_and, dropMore_zero, if_neg hyard, noteLosses_none hbad hdropped, hqueue]

end

/-! ### How a tile's runs land (09 R262, R263, R274; 02 R50, R51) -/

section
variable {s : State} {b : BrwId} {j : BrwJob} {src dst : Tensor} {rs : List OutRun}

/-- Every element of some runs lies in a block that is there. -/
def AllPlaced (s : State) (t : Tensor) (rs : List OutRun) : Prop := ∀ r ∈ rs, ∀ k ∈ r.idx, (spotOf s t k).isSome = true

/-- What some runs write lies in this module. -/
def AllLocal (s : State) (t : Tensor) (rs : List OutRun) : Prop := ∀ p ∈ rs.flatMap (runPuts s t), p.1 = none

/-- The local writes of some runs. -/
def localPuts (s : State) (t : Tensor) (rs : List OutRun) : List BitPut := (rs.flatMap (runPuts s t)).map Prod.snd

theorem AllPlaced.takeWhile_eq (h : AllPlaced s dst rs) :
    rs.takeWhile (fun r => r.idx.all (fun k => (spotOf s dst k).isSome)) = rs := by
  have hall := List.takeWhile_append_of_pos (l₂ := []) (fun r hr => List.all_eq_true.mpr (h r hr))
  rwa [List.append_nil, List.takeWhile_nil, List.append_nil] at hall

/-- A partial map that is a total one on every element of a list. -/
theorem filterMap_of_some {α β : Type} {f : α → Option β} {g : α → β} {l : List α} (h : ∀ a ∈ l, f a = some (g a)) :
    l.filterMap f = l.map g := by
  induction l with
  | nil => rfl
  | cons a l ih =>
    rw [List.filterMap_cons_some (h a List.mem_cons_self), List.map_cons, ih (fun x hx => h x (List.mem_cons_of_mem a hx))]

theorem AllLocal.filterMap_local (h : AllLocal s dst rs) :
    (rs.flatMap (runPuts s dst)).filterMap (fun p => if p.1.isNone then some p.2 else none) = localPuts s dst rs :=
  filterMap_of_some (fun p hp => if_pos (by rw [h p hp]; rfl))

theorem AllLocal.filterMap_away (h : AllLocal s dst rs) : (rs.flatMap (runPuts s dst)).filterMap Prod.fst = [] :=
  List.filterMap_eq_nil_iff.mpr h

theorem landPuts_unrefused {who : Agent} {ps : List BitPut} (h : firstRefused s who (putLines ps) = none) :
    landPuts s who ps = (writePuts s ps, 0) := by
  simp only [landPuts, h]

/-- The bytes of some runs stand in memory, and the exponents' tags in the MEMs (05 R156). -/
def runsLanded (s : State) (t : Tensor) (rs : List OutRun) : State :=
  { writePuts s (localPuts s t rs) with
    tags := (rs.flatMap (runTags s t)).foldl (fun m e => mput m e.1 (BitVec.ofNat 8 e.2)) (writePuts s (localPuts s t rs)).tags }

/-- Runs that lie wholly in this module, none refused and none sharing bits with another, land at once. -/
theorem landRuns_local (hdistinct : aliased dst = false) (hplaced : AllPlaced s dst rs) (hlocal : AllLocal s dst rs)
    (hwritable : firstRefused s (jobAgent b j) (putLines (localPuts s dst rs)) = none) :
    landRuns s b j dst rs = (runsLanded s dst rs, j, 0) := by
  simp only [landRuns, hdistinct, Bool.false_eq_true, if_false, hplaced.takeWhile_eq, hlocal.filterMap_local,
    hlocal.filterMap_away, landPuts_unrefused hwritable, ne_eq, not_true_eq_false, List.eraseDups_nil, List.foldl_nil, Nat.lt_irrefl,
    runsLanded]

theorem deliverTile_memory (hmemory : bdDk j.desc = 0) (hstores : bdOp j.desc ≠ 4) :
    deliverTile s b j src dst rs = landRuns s b j dst rs := by
  simp only [deliverTile, hmemory, if_neg hstores]

/-- Into a flow a transfer sends its runs; none is dropped where poison is passed on (09 R283). -/
theorem deliverTile_flow (hflow : bdDk j.desc = 2) (hkept : bdOp j.desc = 1 → src.ppol ≠ 1) :
    deliverTile s b j src dst rs = (satF (sendRuns s j.desc false rs dst.bale) (brwBase b + 0x48) 32 32 0, j, 0) := by
  have hnodrop : (decide (bdOp j.desc = 1) && src.ppol == 1) = false := by
    rw [Bool.and_eq_false_imp]
    intro hcopy
    exact beq_false_of_ne (hkept (of_decide_eq_true hcopy))
  simp only [deliverTile, hflow, hnodrop, Bool.false_eq_true, if_false, dropMore_zero]

end

/-! ### A SCATTER-ADD's run in one line (02 R50, R51; 09 R274) -/

section
variable {s : State} {b : BrwId} {j : BrwJob} {src dst : Tensor} {r : OutRun} {l : Nat} {vs : List Spot}

/-- A list of one value over and over has that value alone. -/
theorem eraseDups_constant {α : Type} [BEq α] [LawfulBEq α] {l : List α} {a : α} (hne : l ≠ []) (hsame : ∀ x ∈ l, x = a) :
    l.eraseDups = [a] := by
  cases l with
  | nil => exact absurd rfl hne
  | cons x t =>
    have hx : x = a := hsame x List.mem_cons_self
    have hrest : t.filter (fun y => !y == x) = [] := by
      refine List.filter_eq_nil_iff.mpr (fun y hy => ?_)
      rw [hx, hsame y (List.mem_cons_of_mem x hy), beq_self_eq_true]
      decide
    rw [List.eraseDups_cons, hrest, List.eraseDups_nil, hx]

/-- A run's elements lie in one line of this module, its places in the order of its codes. -/
structure InLine (s : State) (t : Tensor) (r : OutRun) (l : Nat) (vs : List Spot) : Prop where
  places : r.idx.map (spotOf s t) = vs.map some
  nonempty : vs ≠ []
  line : ∀ q ∈ vs, q.module = none ∧ q.bit / 512 * 64 = l
  codes : vs.length = r.codes.length

theorem InLine.spot_of_mem (h : InLine s dst r l vs) {q : Spot × Nat} (hq : q ∈ vs.zip r.codes) :
    q.1.module = none ∧ q.1.bit / 512 * 64 = l := h.line q.1 (List.of_mem_zip hq).1

theorem InLine.spotKeys_eq (h : InLine s dst r l vs) : spotKeys (vs.zip r.codes) = [(none, l)] := by
  refine eraseDups_constant ?_ ?_
  · intro hnil
    have hlength := congrArg List.length hnil
    rw [List.length_map, List.length_zip, ← h.codes, Nat.min_self, List.length_nil] at hlength
    exact h.nonempty (List.eq_nil_of_length_eq_zero hlength)
  · intro x hx
    obtain ⟨q, hq, rfl⟩ := List.mem_map.mp hx
    obtain ⟨hmodule, hline⟩ := h.spot_of_mem hq
    rw [hmodule, hline]

theorem InLine.filter_eq (h : InLine s dst r l vs) :
    (vs.zip r.codes).filter (fun q => q.1.module == none && q.1.bit / 512 * 64 == l) = vs.zip r.codes := by
  refine List.filter_eq_self.mpr (fun q hq => ?_)
  obtain ⟨hmodule, hline⟩ := h.spot_of_mem hq
  rw [hmodule, hline, beq_self_eq_true, beq_self_eq_true]
  rfl

/-- The line with a run's values added. -/
def lineAdded (s : State) (t : Tensor) (r : OutRun) (l : Nat) (vs : List Spot) : State :=
  addLine s t.fmt l (r.scale.getD 0) ((vs.zip r.codes).map (fun q => (q.1.bit % 512, q.2)))

/-- A clean run in one line that may be written is added there. -/
theorem addRun_line (h : InLine s dst r l vs) (hclean : r.poison.any id = false) (hwritable : writeCode s (jobAgent b j) l = 0) :
    addRun dst b (s, j, 0) r = (lineAdded s dst r l vs, j, 0) := by
  have hplaced : (vs.map some).any (·.isNone) = false := by
    rw [List.any_map]
    exact List.any_eq_false.mpr (fun q _ => Bool.false_ne_true)
  have hspots : (vs.map some).filterMap id = vs := by
    rw [List.filterMap_map]
    exact List.filterMap_some
  have hunrefused : firstRefused s (jobAgent b j) [l] = none := by
    simp only [firstRefused, List.find?_singleton, hwritable, ne_eq, not_true_eq_false, decide_false, Bool.false_eq_true, if_false,
      Option.map_none]
  simp only [addRun, h.places, hplaced, hspots, h.spotKeys_eq, h.filter_eq, hclean, ne_eq, not_true_eq_false, Bool.false_eq_true,
    if_false, List.filterMap_cons, List.filterMap_nil, Option.isNone_none, if_true, hunrefused, Bool.false_and, List.foldl_cons,
    List.foldl_nil, lineAdded]

theorem deliverTile_line (h : InLine s dst r l vs) (hmemory : bdDk j.desc = 0) (hadds : bdOp j.desc = 4)
    (hclean : r.poison.any id = false) (hwritable : writeCode s (jobAgent b j) l = 0) :
    deliverTile s b j src dst [r] = (satF (lineAdded s dst r l vs) (brwBase b + 0x48) 32 32 0, j, 0) := by
  simp only [deliverTile, hmemory, if_pos hadds, List.foldl_cons, List.foldl_nil, addRun_line h hclean hwritable, Nat.sub_self]

end

/-! ### A queue's descriptors (09 R265, R270, R285) -/

section
variable {s : State} {b : BrwId} {j : BrwJob}

theorem firingOn_idle {x : BrwSt} (hjob : x.job = none) (hlanding : x.landing = []) : firingOn x = false := by
  rw [firingOn, imageJobs, hjob, hlanding]
  rfl

/-- Where the descriptors lie that one fetch reads of a queue: up to 16, from the index to fetch next on (09 R270). -/
def fetchAddrs (s : State) (b : BrwId) (q : Option (Fin 8)) : List Nat :=
  (List.range (min 16 (fetchable s b q))).map (fun k =>
    getF s (brwBase (servedQueue b q)) 0 48 + 64 * ((fetchIndex s b q + k) % 2 ^ qLg s (servedQueue b q)))

/-- The descriptors at some addresses have been read. -/
def descsRead (s : State) (b : BrwId) (l : List Nat) : State := each l (fun s a => noteRead s (.barrow b) a 64) s

theorem descriptorFetch_fetches (hruns : brwOn s b = true) (hempty : (brwOf s b).fetched = []) (hgoes : (brwOf s b).stopped = false)
    (henabled : getF s (brwBase b + 0x18) 0 1 = 1) :
    descriptorFetch s b = startNext (showFetched (putBrw (descsRead s b (fetchAddrs s b (nextQueue s b))) b
      { brwOf s b with fetched := (fetchAddrs s b (nextQueue s b)).map (descAt (descsRead s b (fetchAddrs s b (nextQueue s b))))
                       turn := nextQueue s b }) b) b := by
  simp only [descriptorFetch, hruns, hempty, hgoes, henabled, Bool.not_true, Bool.false_eq_true, ne_eq, not_true_eq_false, or_self,
    Nat.one_ne_zero, if_false, fetchAddrs, descsRead]

theorem exec_descriptorFetch_on (hon : poweredUp s = true) : exec (.descriptorFetch b) s = .next (ended s (descriptorFetch s b)) :=
  finish_on s _ hon

/-- A barrow that has taken over no queue fetches from its own. -/
theorem nextQueue_own (halone : (brwOf s b).adopted = []) : nextQueue s b = none := by
  have hmine (l : List (Option (Fin 8))) (hl : ∀ q ∈ l, q = none) (p : Option (Fin 8) → Bool) : (l.find? p).getD none = none := by
    cases hfind : l.find? p with
    | none => rfl
    | some q => exact hl q (List.mem_of_find?_eq_some hfind)
  refine hmine _ (fun q hq => ?_) _
  rw [halone, List.map_nil] at hq
  rcases List.mem_append.mp hq with hafter | hown
  · exact List.mem_singleton.mp ((List.dropWhile_sublist _).mem (List.mem_of_mem_drop hafter))
  · exact List.mem_singleton.mp hown

/-- With none of its descriptors under way, a queue is fetched from its head on. -/
theorem fetchIndex_head (hidle : (brwOf s b).job = none) (hnone : (brwOf s b).preempted = none) :
    fetchIndex s b none = qHead s b % 2 ^ qLg s b := by
  rw [fetchIndex, hidle, hnone]
  rfl

/-- A fetched descriptor of a queue that the barrow starts on. -/
def fetchedJob (s : State) (b : BrwId) (d : Desc) (a : Addr) : BrwJob :=
  { desc := d, addr := a, firing := none, queue := (brwOf s b).turn }

/-- A barrow that may go on starts its first fetched descriptor. -/
theorem startNext_begins {d : Desc} {a : Addr} {l : List (Option Desc × Addr)} (hidle : (brwOf s b).job = none)
    (hlanding : (brwOf s b).landing = []) (hgoes : (brwOf s b).stopped = false) (hsound : brwCode s b ≠ 5)
    (henabled : getF s (brwBase b + 0x18) 0 1 = 1) (hfills : (brwOf s b).fills = []) (halone : (brwOf s b).adopted = [])
    (hfetched : (brwOf s b).fetched = (some d, a) :: l) :
    startNext s b = beginJob (showFetched (putBrw s b { brwOf s b with fetched := l }) b) b (fetchedJob s b d a) := by
  simp only [startNext, hidle, firingOn_idle hidle hlanding, hgoes, hsound, henabled, hfills, hfetched, halone,
    Option.isSome_none, Bool.false_eq_true, Nat.one_ne_zero, or_self, if_false, List.any_nil, List.map_nil, fetchedJob]

/-- A queue's descriptor that waits for nothing is under way at once. -/
theorem beginJob_unwaited (hqueue : imageOf j = false) (hnowait : bdWk j.desc = 0) :
    beginJob s b j
      = showCur (brwState (putJob s b { j with waitMet := true, waitSince := s.time }) b 2) b j.addr := by
  have himage : imageOf { j with waitMet := true, waitSince := s.time } = false := hqueue
  simp only [beginJob, hnowait, ite_self, decide_true, showJob, Bool.not_true, Bool.false_eq_true, if_false, himage]

theorem completeJob_queue (hqueue : j.firing = none) (hnofill : j.fill = none) :
    completeJob s b j = startNext (showIdle (putBrw (advanceHead s (servedQueue b j.queue)) b
      { brwOf (advanceHead s (servedQueue b j.queue)) b with
        job := none, stopped := (brwOf (advanceHead s (servedQueue b j.queue)) b).stopReq, stopReq := false }) b) b := by
  simp only [completeJob, hqueue, hnofill]

end

/-! ### An accepted tile (09 R271) -/

section
variable {s : State} {b : BrwId} {j : BrwJob}

theorem exec_tileAccepted_on (hon : poweredUp s = true) : exec (.tileAccepted b) s = .next (ended s (tileAccepted s b)) :=
  finish_on s _ hon

/-- One more tile of a transfer has been accepted. -/
def tileTaken (j : BrwJob) : BrwJob := { j with accepted := j.accepted + 1 }

theorem acceptIn_first (hopen : j.accepted < j.issued) (l : List BrwJob) : acceptIn (j :: l) = some (tileTaken j :: l) := if_pos hopen

theorem tileAccepted_landing {l : List BrwJob} (hlanding : (brwOf s b).landing = j :: l) (hopen : j.accepted < j.issued) :
    tileAccepted s b = putBrw s b { brwOf s b with landing := tileTaken j :: l } := by
  simp only [tileAccepted, hlanding, acceptIn_first hopen]

/-- With no older transfer under way the one at hand takes the tile. -/
theorem tileAccepted_last (hlanding : (brwOf s b).landing = []) (hnone : (brwOf s b).preempted = none) (hjob : (brwOf s b).job = some j)
    (hopen : j.accepted < j.issued) (hall : j.issued = j.tiles) : tileAccepted s b = putJob s b (tileTaken j) := by
  have hdone : ¬(j.issued < j.tiles) := Nat.not_lt.mpr (Nat.le_of_eq hall.symm)
  simp only [tileAccepted, hlanding, hnone, hjob, acceptIn, Option.toList_none, Option.toList_some, if_pos hopen, hdone, and_false,
    if_false, tileTaken]

/-- Its next tile may then be issued. -/
theorem tileAccepted_next (hlanding : (brwOf s b).landing = []) (hnone : (brwOf s b).preempted = none) (hjob : (brwOf s b).job = some j)
    (hopen : j.accepted < j.issued) (hmore : j.issued < j.tiles) (hruns : brwOn (putJob s b (tileTaken j)) b = true) :
    tileAccepted s b = goTiles (putJob s b (tileTaken j)) b (tileTaken j) := by
  rw [tileTaken] at hruns ⊢
  simp only [tileAccepted, hlanding, hnone, hjob, acceptIn, Option.toList_none, Option.toList_some, if_pos hopen, hruns, hmore, and_self,
    if_true]

end

/-! ### Landed writes (09 R277–R279; 10 R314) -/

section
variable {s u : State} {b : BrwId} {j : BrwJob}

theorem exec_writesLanded_on (hon : poweredUp s = true) : exec (.writesLanded b) s = .next (ended s (writesLanded s b)) :=
  finish_on s _ hon

/-- The transfer whose writes land next has had every tile accepted and every write acknowledged. -/
structure Landed (s : State) (b : BrwId) (j : BrwJob) : Prop where
  next : landingJob (brwOf s b) = some j
  landed : jobLanded s j = true

theorem jobLanded_acknowledged (hstarted : j.started = true) (hissued : j.tiles ≤ j.issued) (haccepted : j.tiles ≤ j.accepted)
    (hwrites : ∀ o ∈ s.fab.outstanding, o.kind = 2 → o.tag ∉ j.writes) : jobLanded s j = true := by
  have hnone : s.fab.outstanding.any (fun o => o.kind == 2 && j.writes.contains o.tag) = false := by
    refine List.any_eq_false.mpr (fun o ho hwaits => ?_)
    rw [Bool.and_eq_true, beq_iff_eq, List.contains_iff_mem] at hwaits
    exact hwrites o ho hwaits.1 hwaits.2
  simp only [jobLanded, hstarted, hissued, haccepted, hnone, and_self, decide_true, Bool.not_false, Bool.and_self]

theorem Landed.failed (h : Landed s b j) (hfailed : j.failed ≠ 0) : writesLanded s b = failJob s b j j.failed.toNat := by
  simp only [writesLanded, h.next, h.landed, Bool.not_true, Bool.false_eq_true, if_false, if_pos hfailed]

/-- A transfer that pushes no trigger and applies no signal of its own completes with its writes. -/
theorem Landed.plain (h : Landed s b j) (hsound : j.failed = 0) (hop : bdOp j.desc ≠ 5)
    (hnotrig : (bdTrig j.desc && lastShare s j) = false) (hnosig : bdSig j.desc = false ∨ lastShare s j = false) :
    writesLanded s b = completeJob s b j := by
  have hquiet : (bdSig j.desc && !(bdDk j.desc == 1 && decide (0 < j.tiles) || !lastShare s j)) = false := by
    rcases hnosig with hsig | hshare
    · rw [hsig, Bool.false_and]
    · rw [hshare, Bool.not_false, Bool.or_true, Bool.not_true, Bool.and_false]
  simp only [writesLanded, h.next, h.landed, hsound, if_neg hop, hnotrig, hquiet, Bool.not_true, Bool.false_eq_true, ne_eq,
    not_true_eq_false, if_false, Option.any_none]

/-- The signal that does not ride on a stream's last token follows the writes. -/
theorem Landed.signals (h : Landed s b j) (hsound : j.failed = 0) (hop : bdOp j.desc ≠ 5) (hlast : lastShare s j = true)
    (hnotrig : bdTrig j.desc = false) (hsig : bdSig j.desc = true) (hstays : bdDk j.desc ≠ 1 ∨ j.tiles = 0) :
    writesLanded s b = completeJob (applySignal s (jobAgent b j) (bdSref j.desc)) b j := by
  have hown : (bdDk j.desc == 1 && decide (0 < j.tiles)) = false := by
    rcases hstays with hdk | htiles
    · rw [beq_false_of_ne hdk, Bool.false_and]
    · rw [htiles, decide_eq_false (Nat.lt_irrefl 0), Bool.and_false]
  simp only [writesLanded, h.next, h.landed, hsound, if_neg hop, hlast, hnotrig, hsig, hown, Bool.not_true, Bool.false_eq_true, ne_eq,
    not_true_eq_false, if_false, Option.any_none, Bool.false_and, Bool.or_self, Bool.not_false, Bool.and_self, if_true]

theorem Landed.triggers (h : Landed s b j) (hsound : j.failed = 0) (hop : bdOp j.desc ≠ 5) (hlast : lastShare s j = true)
    (htrig : bdTrig j.desc = true) (hnosig : bdSig j.desc = false)
    (hpush : pushTrigger s (bdTeng j.desc) (bdTrigger j.desc) = some u) : writesLanded s b = completeJob u b j := by
  simp only [writesLanded, h.next, h.landed, hsound, if_neg hop, hlast, htrig, hnosig, hpush, Bool.not_true, Bool.false_eq_true, ne_eq,
    not_true_eq_false, if_false, Option.any_none, Bool.false_and, Bool.and_self, if_true]

/-- A CLOSE clears its pool when every claimer has quit it (06 R195). -/
theorem Landed.closes {p : Pool} (h : Landed s b j) (hsound : j.failed = 0) (hop : bdOp j.desc = 5)
    (hpool : poolOf s (bdSrc j.desc) = some p) (hquit : poolQuit s p = true) (hnotrig : bdTrig j.desc = false)
    (hnosig : bdSig j.desc = false) : writesLanded s b = completeJob (clearPool s b (jobAgent b j) p) b j := by
  simp only [writesLanded, h.next, h.landed, hsound, if_pos hop, hpool, hquit, hnotrig, hnosig, Bool.not_true, Bool.false_eq_true,
    ne_eq, not_true_eq_false, if_false, Option.any_some, Bool.false_and]

end

/-! ### Stop, resumption, skip, fault (09 R285, R288) -/

section
variable {s : State} {b : BrwId} {j : BrwJob}

theorem exec_barrowStop_on (hon : poweredUp s = true) : exec (.barrowStop b) s = .next (ended s (barrowStop s b)) := finish_on s _ hon

theorem exec_barrowResume_on (hon : poweredUp s = true) : exec (.barrowResume b) s = .next (ended s (barrowResume s b)) :=
  finish_on s _ hon

theorem exec_barrowSkip_on (hon : poweredUp s = true) : exec (.barrowSkip b) s = .next (ended s (barrowSkip s b)) := finish_on s _ hon

theorem exec_barrowFault_on {m : Mg} {b : Fin 8} (hon : poweredUp s = true) :
    exec (.barrowFault m b) s = .next (ended s (barrowFault s m b)) := finish_on s _ hon

/-- A queue whose descriptor is under way stops after it. -/
theorem barrowStop_later (hnone : (brwOf s b).preempted = none) (hjob : (brwOf s b).job = some j) (hqueue : imageOf j = false) :
    barrowStop s b = putBrw s b { brwOf s b with stopReq := true } := by
  simp only [barrowStop, hnone, hjob, hqueue, Option.toList_none, Option.toList_some, List.append_nil, List.any_cons, List.any_nil,
    Bool.not_false, Bool.true_or, if_true]

theorem barrowStop_idle (hnone : (brwOf s b).preempted = none) (hidle : (brwOf s b).job = none) (hlanding : (brwOf s b).landing = [])
    (hsound : brwCode s b ≠ 5) :
    barrowStop s b = brwState (showFetched (putBrw s b { brwOf s b with fetched := [], stopped := true }) b) b 4 := by
  simp only [barrowStop, hnone, hidle, firingOn_idle hidle hlanding, hsound, Option.toList_none, List.append_nil, List.any_nil,
    Bool.false_eq_true, if_false]

theorem barrowResume_stopped (hstopped : (brwOf s b).stopped = true) (hidle : firingOn (brwOf s b) = false) :
    barrowResume s b
      = descriptorFetch (brwState (putBrw s b { brwOf s b with stopped := false, stopReq := false }) b 0) b := by
  simp only [barrowResume, hstopped, hidle, Bool.not_true, Bool.false_eq_true, if_false]

theorem brwOf_advanceHead (q : BrwId) : brwOf (advanceHead s q) b = brwOf s b := rfl

theorem brwOf_handRecord (src : BitVec 16) : brwOf (handRecord s src) b = brwOf s b := rfl

/-- The queue's head as a skip leaves it: past the descriptor at which it stopped; the skip is recorded as made by hand. -/
def headSkipped (s : State) (b : BrwId) : State :=
  advanceHead (handRecord s (brwSrc s b)) (servedQueue b (brwOf (handRecord s (brwSrc s b)) b).turn)

/-- A skip of a stopped queue is a resumption past its head. -/
theorem barrowSkip_stopped (hstopped : (brwOf s b).stopped = true) : barrowSkip s b = barrowResume (headSkipped s b) b := by
  simp only [barrowSkip, brwOf_handRecord, hstopped, if_true, headSkipped]

theorem brwOf_headSkipped : brwOf (headSkipped s b) b = brwOf s b := (brwOf_advanceHead _).trans (brwOf_handRecord _)

end

section
variable {s : State} {m : Mg} {b : Fin 8}

/-- A barrow of a manger. -/
def mangerBarrow (m : Mg) (b : Fin 8) : BrwId := ⟨⟨32 + m.val, by omega⟩, ⟨b.val, by omega⟩⟩

/-- The next barrow in a manger barrow's group of four. -/
def nextInGroup (m : Mg) (b : Fin 8) : BrwId := ⟨⟨32 + m.val, by omega⟩, ⟨4 * (b.val / 4) + (b.val + 1) % 4, by omega⟩⟩

/-- The next barrow of the group serves a failed one's queue beside its own; the failed one holds nothing and shows it. -/
def queueHandedOn (s : State) (m : Mg) (b : Fin 8) : State :=
  let u := updBrw (dropWaits s (fun a => a == .barrow (mangerBarrow m b))) (nextInGroup m b)
    (fun y => { y with adopted := y.adopted ++ [(b, false)] })
  showFetched (brwState (putBrw u (mangerBarrow m b) {}) (mangerBarrow m b) 5) (mangerBarrow m b)

/-- A faulty barrow that was idle and served its own queue alone hands that queue on, its head's wait still to be met. -/
theorem barrowFault_idle (hidle : (brwOf s (mangerBarrow m b)).job = none) (halone : (brwOf s (mangerBarrow m b)).adopted = []) :
    barrowFault s m b = descriptorFetch (emit (queueHandedOn s m b) (srcManger m (0x28 + b.val)) 0x0185 b.val (nextInGroup m b).b.val)
      (nextInGroup m b) := by
  simp only [mangerBarrow] at hidle halone
  simp only [barrowFault, hidle, halone, Option.any_none, List.map_nil, queueHandedOn, mangerBarrow, nextInGroup]

end

/-- Settles O19, command by command: the start of a descriptor's operation and its tiles, as log entry 62 moves them, the queues, served
in turn where some were taken over (log entry 132), and what follows a descriptor's last write; each by the lemma above that says what
the model's function does there. -/
theorem barrowCommandsComplete : Obligations.BarrowCommandsComplete := by
  refine ⟨⟨?_, ?_, ?_, ?_, ?_, ?_⟩, ⟨?_, ?_, ?_, ?_⟩, ⟨?_, ?_, ?_, ?_, ?_, ?_⟩⟩
  · intro s b j hon hjob hruns hop hmet hfresh hnew hlegal hbad hdropped k
    have hready : OpReady s b j := ⟨hon, hjob, hruns, hmet, hfresh⟩
    have hrun := hready.runOp_nop hop hnew hlegal hbad hdropped
    refine ⟨?_, ?_⟩
    · intro hqueue
      exact hready.ends (hrun.trans (if_neg (ne_true_of_eq_false hqueue))) 0 hop
    · intro himage
      exact hready.ends (hrun.trans (if_pos himage)) 0 hop
  · intro s u v w b j k0 k' m src dst rd bad hon hjob hruns hmet hfresh hstages k htransfer op
    have hready : OpReady s b j := ⟨hon, hjob, hruns, hmet, hfresh⟩
    have hgoes : runOp s b (bdOp j.desc) = issueTiles (k.tiles + 1) u b k m src dst := by
      rw [hready.runOp_ok hstages, goTiles, htransfer]
    refine ⟨?_, ?_⟩
    · intro hall
      have hends := hready.ends (hgoes.trans (issueTiles_issued _ hall))
      exact ⟨hends 1, hends 2, hends 3, hends 4, hends 5⟩
    · intro hmore hlead hnolead ps hread rs hheld fresh x y hdeliver hnolead'
      have htile := issueTile_delivers hread rfl hheld hdeliver hnolead'
      have hends := hready.ends (hgoes.trans (issueTiles_issues k.tiles hmore hlead htile))
      exact ⟨hends 1, hends 2, hends 3, hends 4, hends 5⟩
  · intro s u b j m src dst rd bad n hall
    exact ⟨issueTiles_issued n hall, fun htransfer hread hstats hclose hyard hbad hdropped hqueue =>
      finishReads_memory htransfer hread hstats hclose hyard hbad hdropped hqueue⟩
  · intro s b j hqueue hnofill
    exact completeJob_queue hqueue hnofill
  · intro s b j src dst rs
    refine ⟨?_, ?_, ?_⟩
    · intro hmemory hstores hdistinct hplaced hlocal puts hwritable
      exact (deliverTile_memory hmemory hstores).trans (landRuns_local hdistinct hplaced hlocal hwritable)
    · rintro r l vs hmemory hadds rfl hclean hplaces hnonempty hline hcodes hwritable
      exact deliverTile_line ⟨hplaces, hnonempty, hline, hcodes⟩ hmemory hadds hclean hwritable
    · intro hflow hkept
      exact deliverTile_flow hflow hkept
  · intro s b j c hon hjob hruns hmet hfresh hnew hplan t
    have hready : OpReady s b j := ⟨hon, hjob, hruns, hmet, hfresh⟩
    have hends := hready.ends (hready.runOp_error (startStages_error (planStage_error hnew hplan)))
    exact ⟨hends 0, hends 1, hends 2, hends 3, hends 4, hends 5⟩
  · intro s b tail hon
    exact finish_on s _ hon
  · intro s b hon hruns hempty hgoes henabled
    rw [exec_descriptorFetch_on hon, descriptorFetch_fetches hruns hempty hgoes henabled]
    rfl
  · intro s b halone hidle hnone
    exact ⟨nextQueue_own halone, rfl, fetchIndex_head hidle hnone⟩
  · intro s b d a l hidle hlanding hgoes hsound henabled hfills halone hfetched
    exact ⟨startNext_begins hidle hlanding hgoes hsound henabled hfills halone hfetched, fun hnowait => beginJob_unwaited rfl hnowait⟩
  · intro s b j hon hlanding hnone hjob hopen j'
    rw [exec_tileAccepted_on hon]
    refine ⟨?_, ?_⟩
    · intro hall
      rw [tileAccepted_last hlanding hnone hjob hopen hall]
      rfl
    · intro hmore hruns
      rw [tileAccepted_next hlanding hnone hjob hopen hmore hruns]
      rfl
  · intro s b j l hon hlanding hopen
    rw [exec_tileAccepted_on hon, tileAccepted_landing hlanding hopen]
    rfl
  · intro s b j hon hnext hstarted hissued haccepted hwrites
    have hlanded : Landed s b j := ⟨hnext, jobLanded_acknowledged hstarted hissued haccepted hwrites⟩
    rw [exec_writesLanded_on hon]
    refine ⟨?_, ?_, ?_, ?_, ?_, ?_⟩
    · intro hfailed
      rw [hlanded.failed hfailed]
    · intro hsound hop hnotrig hnosig
      rw [hlanded.plain hsound hop (by rw [hnotrig, Bool.false_and]) (.inl hnosig)]
    · intro hsound hop hshare
      rw [hlanded.plain hsound hop (by rw [hshare, Bool.and_false]) (.inr hshare)]
    · intro hsound hop hlast hnotrig hsig hstays
      rw [hlanded.signals hsound hop hlast hnotrig hsig hstays]
    · intro u hsound hop hlast htrig hnosig hpush
      rw [hlanded.triggers hsound hop hlast htrig hnosig hpush]
    · intro p hsound hop hpool hquit hnotrig hnosig
      rw [hlanded.closes hsound hop hpool hquit hnotrig hnosig]
  · intro s b hon hnone
    rw [exec_barrowStop_on hon]
    refine ⟨?_, ?_⟩
    · intro j hjob hqueue
      rw [barrowStop_later hnone hjob hqueue]
    · intro hidle hlanding hsound
      rw [barrowStop_idle hnone hidle hlanding hsound]
  · intro s b hon hstopped hidle
    refine ⟨?_, ?_⟩
    · rw [exec_barrowResume_on hon, barrowResume_stopped hstopped hidle]
    · rw [exec_barrowSkip_on hon, barrowSkip_stopped hstopped,
        barrowResume_stopped (by rw [brwOf_headSkipped, hstopped]) (by rw [brwOf_headSkipped, hidle])]
      rfl
  · intro s m b hon die f t hidle halone
    rw [exec_barrowFault_on hon, barrowFault_idle hidle halone]
    rfl

end Sys2Proof.Machine
end

section
/-! SUPPORT. The statements of names (10 R291, R302, R304–R307, R510): what a cut-over, a creation and a deletion make of the home
table. -/

namespace Sys2Proof.Machine

/-! ### The home table (10 R291) -/

@[simp] theorem nameRec_putRec_same (s : State) (n : Nat) (r : HomeRec) : nameRec (putRec s n r) n = some r := mfind_mput_same _ n r

@[simp] theorem nameRec_delRec_same (s : State) (n : Nat) : nameRec (delRec s n) n = none := mfind_mdel_same _ n

/-- Only the home table decides what a name's record is. -/
theorem nameRec_of_table {s t : State} (h : t.homes.table = s.homes.table) (n : Nat) : nameRec t n = nameRec s n := by
  rw [nameRec, nameRec, h]

@[simp] theorem keepQuota_homes (s : State) (task : Nat) : (keepQuota s task).homes = s.homes := by
  unfold keepQuota; split <;> rfl

@[simp] theorem copyFrame_homes (s : State) (src dst : Loc) : (copyFrame s src dst).homes = s.homes := by
  unfold copyFrame; split <;> rfl

@[simp] theorem poisonFrame_homes (s : State) (l : Loc) : (poisonFrame s l).homes = s.homes := by
  unfold poisonFrame; split <;> rfl

theorem carryLost_homes (s : State) (r : HomeRec) (n : Nat) : (carryLost s r n).homes = s.homes := by
  unfold carryLost
  split
  · exact poisonFrame_homes s _
  · split <;> rfl

/-! ### A cut-over (10 R305–R307) -/

/-- The home table, and the moves that wait for a place. -/
def namesOf (s : State) : Map HomeRec × List (MoveJob × Fin 6) := (s.homes.table, s.homes.moveQueue)

theorem namesOf_of_homes {s t : State} (h : t.homes = s.homes) : namesOf t = namesOf s := by rw [namesOf, namesOf, h]

theorem namesOf_emit (s : State) (src : BitVec 16) (c a b : Nat) : namesOf (emit s src c a b) = namesOf s := rfl
theorem namesOf_satF (s : State) (a lo len n : Nat) : namesOf (satF s a lo len n) = namesOf s := rfl

theorem namesOf_rewritten (s : State) (t f : Nat) : namesOf (rewritten s t f) = namesOf s := by
  unfold rewritten
  split
  · rfl
  · simp only [namesOf, onHomes_homes]

/-- With nothing in the queue no move begins. -/
theorem startQueued_none {s : State} {table : Map HomeRec} (h : namesOf s = (table, [])) (m : Mg) :
    startQueued s m s.homes.moveQueue.length = s := by
  obtain ⟨htable, hqueue⟩ := Prod.mk.inj h
  rw [hqueue]
  rfl

/-- A moved name's record once its move has ended. -/
def movedRec (j : MoveJob) (r : HomeRec) : HomeRec :=
  { r with tier := r.dtier, frame := r.dframe, move := 0, dtier := 0, dframe := 0, pin := j.pinAfter.getD r.pin }

/-- The move is over: the frame is copied with its marks, and the name's record stands at the destination. -/
def frameMoved (s : State) (j : MoveJob) (r : HomeRec) : State :=
  let u := onHomes s (fun h => { h with moves := h.moves.erase j })
  let v := copyFrame u (framePlace u r.tier.val r.frame 0 j.name) (framePlace u r.dtier.val r.dframe 0 j.name)
  invalidate (putRec (rewritten (carryLost v r j.name) r.dtier.val r.dframe) j.name (movedRec j r)) j.name

theorem namesOf_frameMoved (s : State) (j : MoveJob) (r : HomeRec) :
    namesOf (frameMoved s j r) = (mput s.homes.table j.name (movedRec j r), s.homes.moveQueue) := by
  let u := onHomes s (fun h => { h with moves := h.moves.erase j })
  let v := copyFrame u (framePlace u r.tier.val r.frame 0 j.name) (framePlace u r.dtier.val r.dframe 0 j.name)
  have hcopied : namesOf (rewritten (carryLost v r j.name) r.dtier.val r.dframe) = namesOf s :=
    (namesOf_rewritten _ _ _).trans ((namesOf_of_homes ((carryLost_homes v r j.name).trans (copyFrame_homes u _ _))).trans rfl)
  exact congrArg (fun x => (mput x.1 j.name (movedRec j r), x.2)) hcopied

/-- The old frame is freed or retired, and the task's use of the tiers kept. -/
def frameFreed (s : State) (j : MoveJob) (r : HomeRec) : State :=
  keepQuota (if j.retire then onHomes s (fun h => { h with retired := h.retired ++ [(r.tier.val, r.frame)] }) else s) r.task.toNat

theorem namesOf_frameFreed (s : State) (j : MoveJob) (r : HomeRec) : namesOf (frameFreed s j r) = namesOf s :=
  (namesOf_of_homes (keepQuota_homes _ _)).trans (ite_keeps namesOf _ rfl rfl)

/-- The end of a move is counted at its command. -/
def moveCounted (s : State) (slot : Option MbSlot) : State :=
  match slot with
  | some k => onHost s (fun h => { h with slots := mupd h.slots {} k.val (fun m => { m with count := m.count + 1 }) })
  | none => s

theorem namesOf_moveCounted (s : State) (slot : Option MbSlot) : namesOf (moveCounted s slot) = namesOf s := by
  cases slot <;> rfl

/-- The end of a move is counted at its manger and recorded, with that of a rebuild where it was one. -/
def moveRecorded (s : State) (m : Mg) (name : Nat) (r : HomeRec) : State :=
  let u := emit (satF s (mangerReg m 0x600028) 32 32 1) (srcManger m 0x3F) 0x038A name (r.dframe + r.dtier.val * 2 ^ 32)
  if r.move = 2 then emit u (srcManger m 0x3F) 0x0385 name r.dframe else u

theorem namesOf_moveRecorded (s : State) (m : Mg) (name : Nat) (r : HomeRec) : namesOf (moveRecorded s m name r) = namesOf s := by
  have hmoved : namesOf (emit (satF s (mangerReg m 0x600028) 32 32 1) (srcManger m 0x3F) 0x038A name (r.dframe + r.dtier.val * 2 ^ 32))
      = namesOf s := (namesOf_emit _ _ _ _ _).trans (namesOf_satF _ _ _ _ _)
  exact ite_keeps namesOf _ ((namesOf_emit _ _ _ _ _).trans hmoved) hmoved

/-- What a cut-over does where nothing was held, and no engine and no object waits for it. -/
def plainCutOver (s : State) (m : Mg) (j : MoveJob) (r : HomeRec) : State :=
  moveRecorded (moveCounted (frameFreed (frameMoved s j r) j r) j.slot) m j.name r

theorem cutOver_plain {s : State} {m : Mg} {i : Nat} {j : MoveJob} {r : HomeRec} (hjob : (mangerMoves s m)[i]? = some j)
    (hrec : nameRec s j.name = some r) (hheld : j.held = []) (hengine : j.forEngine = none) (hdone : j.hasDone = false) :
    cutOver s m i = startQueued (plainCutOver s m j r) m (plainCutOver s m j r).homes.moveQueue.length := by
  have hrec' : nameRec (onHomes s (fun h => { h with moves := h.moves.erase j })) j.name = some r := hrec
  unfold cutOver
  simp only [hjob, hrec', hheld, hengine, hdone, each_nil, Bool.false_eq_true, if_false]
  rfl

/-- A move with nothing held, no engine and no object behind it, and none that waits for its place, ends in its record alone. -/
theorem nameRec_cutOver {s : State} {m : Mg} {i : Nat} {j : MoveJob} {r : HomeRec} (hjob : (mangerMoves s m)[i]? = some j)
    (hrec : nameRec s j.name = some r) (hqueue : s.homes.moveQueue = []) (hheld : j.held = []) (hengine : j.forEngine = none)
    (hdone : j.hasDone = false) : nameRec (cutOver s m i) j.name = some (movedRec j r) := by
  have hnames : namesOf (plainCutOver s m j r) = (mput s.homes.table j.name (movedRec j r), []) := by
    rw [plainCutOver, namesOf_moveRecorded, namesOf_moveCounted, namesOf_frameFreed, namesOf_frameMoved, hqueue]
  rw [cutOver_plain hjob hrec hheld hengine hdone, startQueued_none hnames m]
  exact (congrArg (mfind · j.name) (congrArg Prod.fst hnames)).trans (mfind_mput_same _ _ _)

/-- Settles O24: the cut-over puts the record at the destination, and what follows leaves the home table alone. -/
theorem cutOverMovesTheName : Obligations.CutOverMovesTheName := by
  intro s m i j h hjob hrec hqueue hheld hengine hdone
  exact ⟨movedRec j h, nameRec_cutOver hjob hrec hqueue hheld hengine hdone, rfl, rfl, rfl, rfl⟩

/-! ### A name created, a name deleted (10 R291, R302, R510) -/

/-- The record of a name created. -/
def createdRec (s : State) (task : BitVec 16) (t f prot : Nat) (pin policy : Bool) (n : Nat) : HomeRec :=
  { tier := asTier t, pin := pin, prot := ⟨prot % 4, by omega⟩, policy := policy, task := task, frame := f
    age := BitVec.ofNat 16 (homEpoch s (nameManger n)) }

/-- A name that is created had no record; it gets a frame and its record. -/
theorem createName_ok {s u : State} {task : BitVec 16} {tier prot n : Nat} {pin policy : Bool}
    (h : createName s task tier prot pin policy n = .ok u) : nameRec s n = none
      ∧ ∃ t f v, allocIn s task.toNat policy (nameOnly s n tier) 6 tier = .ok (t, f, v)
        ∧ u = keepQuota (putRec v n (createdRec v task t f prot pin policy n)) task.toNat := by
  unfold createName at h
  split at h
  · cases h
  next hfree =>
    split at h
    · cases h
    · dsimp only at h
      split at h
      · cases h
      next t f v halloc =>
        cases h
        have hnone : nameRec s n = none := by simpa using (not_or.mp (not_or.mp hfree).2).2
        exact ⟨hnone, t, f, v, halloc, rfl⟩

/-- A name that is deleted had a record of the task; its record, its moves and its cache entries go, and what its moves held lands. -/
theorem deleteName_ok {s u : State} {task n : Nat} (h : deleteName s task n = .ok u) : ∃ r, nameRec s n = some r ∧ r.task.toNat = task
    ∧ u = each ((s.homes.moves.filter (fun j => j.name == n)).flatMap (·.held)) landWrite (keepQuota (invalidate (delRec
      (onHomes s (fun h => { h with
        moves := h.moves.filter (fun j => j.name != n), moveQueue := h.moveQueue.filter (fun e => e.1.name != n) })) n) n) task) := by
  unfold deleteName at h
  split at h
  · cases h
  next r hrec =>
    split at h
    · cases h
    next htask =>
      cases h
      exact ⟨r, hrec, Decidable.of_not_not htask, rfl⟩

theorem nameRec_keepQuota (s : State) (task n : Nat) : nameRec (keepQuota s task) n = nameRec s n :=
  nameRec_of_table (congrArg Homes.table (keepQuota_homes s task)) n

/-- Settles O43, by what a creation and a deletion that succeed make of the home table. -/
theorem namesComeAndGo : Obligations.NamesComeAndGo := by
  refine ⟨?_, ?_⟩
  · intro s u task tier prot n pin policy _ _ hok
    obtain ⟨hnone, t, f, v, -, rfl⟩ := createName_ok hok
    refine ⟨hnone, createdRec v task t f prot pin policy n, ?_, rfl, rfl, rfl, rfl⟩
    rw [nameRec_keepQuota, nameRec_putRec_same]
  · intro s u task n hok hheld
    obtain ⟨r, hrec, htask, rfl⟩ := deleteName_ok hok
    have hnothing : (s.homes.moves.filter (fun j => j.name == n)).flatMap (·.held) = [] :=
      List.flatMap_eq_nil_iff.mpr (fun j hj => hheld j (List.mem_filter.mp hj).1)
    refine ⟨?_, r, hrec, htask⟩
    rw [hnothing, each_nil, nameRec_keepQuota]
    exact nameRec_delRec_same _ n

end Sys2Proof.Machine
end

section
/-! SUPPORT. The statement of the homes' commands (10 R293–R320; 14 R419; 16 R470): the search for a peer's masters, the segment caches,
the move ring, epochs, the patrol scrub, losses of interfaces and ports, slow accesses, windows and the lofts' self-refresh. -/

namespace Sys2Proof.Machine

/-! ### The search for a peer (10 R320) -/

section
variable {s : State} {set : BitVec 16} {shard : BitVec 24} {d r : Nat}

theorem peerSeekResult_not_found (hsuspect : isSuspect s set shard = true) (hset : setDesc s set = some d) (hshard : shardRec s d shard = some r)
    (master state : List Byte) : peerSeekResult s set shard false master state = suspectEvent s (engSrc (srEng r)) set shard := by
  simp only [peerSeekResult, hsuspect, hset, hshard, Bool.not_true, Bool.false_eq_true, Bool.not_false, true_or, if_true, if_false]

/-- The masters and the state that a peer sent are written to their places. -/
def mastersRestored (s : State) (d r : Nat) (master state : List Byte) : State :=
  let n := if sdNstate d = 0 then 0 else stateAt d r (sdNstate d - 1) (srLen r) - srState r
  writeRange (writeRange s (srMaster r) (master.take (mBytes d * srLen r)) false) (srState r) (state.take n) false

theorem peerSeekResult_found (hsuspect : isSuspect s set shard = true) (hset : setDesc s set = some d) (hshard : shardRec s d shard = some r)
    (hlisted : mget s.homes.restoreLists [] set.toNat ≠ []) (master state : List Byte) :
    peerSeekResult s set shard true master state = shardSound (mastersRestored s d r master state) set shard d r := by
  simp only [peerSeekResult, hsuspect, hset, hshard, hlisted, Bool.not_true, Bool.false_eq_true, or_self, if_false]
  rfl

theorem pushLater_suspects (s : State) (e : Fin 16) (w : Word) : (pushLater s e w).upd.suspects = s.upd.suspects := by
  by_cases hwaits : s.upd.trigs.any (fun x => serving s x.1 == serving s e) = true
  · simp only [pushLater, hwaits, if_true, onUpd_upd]
  · by_cases hfull : 256 ≤ (engOf s (serving s e)).ring.length
    · simp only [pushLater, if_neg hwaits, pushTrigger_full hfull, onUpd_upd]
    · simp only [pushLater, if_neg hwaits, pushTrigger_joins (Nat.lt_of_not_le hfull)]
      rfl

/-- A shard that is sound again is not suspect. -/
theorem isSuspect_shardSound (s : State) (set : BitVec 16) (shard : BitVec 24) (d r : Nat) :
    isSuspect (shardSound s set shard d r) set shard = false := by
  have hnames (f : State → Nat → State) (hf : ∀ t n, (f t n).upd.suspects = t.upd.suspects) (l : List Nat) (t : State) :
      (each l f t).upd.suspects = t.upd.suspects := each_keeps (fun t => t.upd.suspects) f hf l t
  unfold isSuspect shardSound
  simp only [pushLater_suspects]
  rw [hnames]
  · simp only [onUpd_upd, List.contains_eq_mem, List.mem_filter, bne_self_eq_false, Bool.false_eq_true, and_false, decide_false]
  · intro t n
    split <;> rfl

end

/-! ### Segment caches (10 R293) -/

section
variable {s : State} {a : Agent} {n : Nat}

theorem cacheMiss_refused (hnone : nameRec s n = none) : cacheMiss s a n = refuseEvent s (cacheOf a) (n * segSize) 0x0301 := by
  simp only [cacheMiss, hnone]

/-- The names that an agent's cache holds. -/
def cacheNames (s : State) (a : Agent) : List Nat := ((s.homes.caches.find? (fun e => e.1 == cacheOf a)).map Prod.snd).getD []

theorem cacheMiss_fills {r : HomeRec} (hrec : nameRec s n = some r) :
    cacheMiss s a n = touchName (onHomes s (fun h => { h with
      caches := (cacheOf a, (n :: (cacheNames s a).filter (fun m => m != n)).take 64) :: h.caches.filter (fun e => e.1 != cacheOf a) })) n := by
  simp only [cacheMiss, hrec]
  rfl

end

/-! ### A record with its first bit set does not lie in register space (00 R6; 01 R30) -/

section
variable {s : State} {a w : Nat}

theorem framePlace_not_reg (tier f off n : Nat) : framePlace s tier f off n ≠ .reg := by
  unfold framePlace
  split
  · exact Loc.noConfusion
  · exact Loc.noConfusion
  · split <;> exact Loc.noConfusion
  · exact Loc.noConfusion

theorem le_of_locate_reg (h : locate s a = .reg) : 0xFF0000000000 ≤ a := by
  unfold locate at h
  split at h
  · split at h
    · cases h
    · split at h
      · dsimp only at h
        split at h
        · split at h
          · cases h
          · exact absurd h (framePlace_not_reg _ _ _ _)
        · cases h
      · have hname (ok : Bool) : (if !ok then Loc.refused 0x0301 else match mfind s.homes.table (a / segSize) with
            | some r => framePlace s r.tier.val r.frame (a % segSize) (a / segSize)
            | none => .refused 0x0301) ≠ .reg := by
          split
          · exact Loc.noConfusion
          · split
            · exact framePlace_not_reg _ _ _ _
            · exact Loc.noConfusion
        exact absurd h (hname _)
  · split at h
    · dsimp only at h
      split at h
      · cases h
      · split at h <;> cases h
    · split at h
      · dsimp only at h
        split at h <;> cases h
      · split at h
        next hspace => exact hspace.1
        · cases h

/-- From the line before register space on, an address is refused or lies in register space. -/
theorem locate_from_regSpace (hlo : 0xFEFFFFFFFFC0 ≤ a) : locate s a = .reg ∨ locate s a = .refused 0x0301 := by
  unfold locate
  rw [if_neg (by omega), dif_neg (by omega), dif_neg (by omega)]
  split
  · exact .inl rfl
  · exact .inr rfl

/-- 64 B at an address lie in its line and, unless aligned, in the next. -/
theorem pieces_64 (a : Nat) :
    pieces a 64 = (a, 64 - a % 64) :: if a % 64 = 0 then [] else [(a + (64 - a % 64), a % 64)] := by
  have hline : a % 64 < 64 := Nat.mod_lt a (by decide)
  have hfirst : min 64 (64 - a % 64) = 64 - a % 64 := by omega
  have hrest : 64 - (64 - a % 64) = a % 64 := by omega
  have hnext : (a + (64 - a % 64)) % 64 = 0 := by omega
  have hsecond : min (a % 64) (64 - 0) = a % 64 := by omega
  have hnone (fuel b : Nat) : piecesFrom fuel b 0 = [] := by cases fuel <;> rfl
  change piecesFrom 3 a 64 = _
  rw [piecesFrom, if_neg (by decide), hfirst]
  dsimp only
  rw [hrest, piecesFrom]
  split
  · rfl
  · dsimp only
    rw [hnext, hsecond, Nat.sub_self, hnone]

/-- A range that is served begins at an address that is. -/
theorem readCode_of_rangeCode (h : rangeCode s a 64 = 0) : readCode s a = 0 := by
  have hkept (c : Nat) (hc : c ≠ 0) (l : List Nat) : l.foldl (fun c d => if c = 0 then d else c) c = c := by
    induction l with
    | nil => rfl
    | cons d l ih => rw [List.foldl_cons, if_neg hc, ih]
  refine Decidable.byContradiction fun hfirst => ?_
  rw [rangeCode, pieces_64, List.map_cons, List.foldl_cons, if_pos rfl, hkept _ hfirst] at h
  exact hfirst h

/-- A record that is read begins at an address that is served, with its first byte. -/
theorem readRec_some (h : readRec s a 64 = some w) : rangeCode s a 64 = 0 ∧ w = ofBytes (readRange s a 64) := by
  unfold readRec readMem at h
  by_cases hserved : rangeCode s a 64 = 0
  · rw [if_pos hserved] at h
    cases hpoison : poisonRange s a 64 with
    | false =>
      rw [hpoison] at h
      cases h
      exact ⟨hserved, rfl⟩
    | true =>
      rw [hpoison] at h
      cases h
  · rw [if_neg hserved] at h
    cases h

/-- A record in register space reads zeros. -/
theorem bitOf_reg_record (h : locate s a = .reg) : bitOf (ofBytes (readRange s a 64)) 0 = false := by
  obtain ⟨n, hn⟩ : ∃ n, 64 - a % 64 = n + 1 := ⟨63 - a % 64, by omega⟩
  rw [readRange, pieces_64, List.flatMap_cons, hn, readPiece, h]
  dsimp only
  rw [List.replicate_succ, List.cons_append, ofBytes]
  have heven (v : Nat) : field ((0 : Byte).toNat + 256 * v) 0 1 = 0 := by
    change ((0 + 256 * v) >>> 0) % 2 ^ 1 = 0
    omega
  rw [bitOf, heven]
  rfl

/-- The read of a record whose first bit is set records nothing. -/
theorem noteRead_of_record (who : Agent) (hrec : readRec s a 64 = some w) (hbit : bitOf w 0 = true) : noteRead s who a 64 = s := by
  obtain ⟨hserved, rfl⟩ := readRec_some hrec
  have hfirst : locate s a ≠ .reg := fun h => by rw [bitOf_reg_record h] at hbit; cases hbit
  have hcode := readCode_of_rangeCode hserved
  have hbelow : a < 0xFEFFFFFFFFC0 := by
    refine Decidable.byContradiction fun hlo => ?_
    rcases locate_from_regSpace (s := s) (Nat.not_lt.mp hlo) with h | h
    · exact hfirst h
    · rw [readCode, h] at hcode
      cases hcode
  have hnone : (pieces a 64).filter (fun q => isReg s q.1) = [] := by
    refine List.filter_eq_nil_iff.mpr (fun q hq hreg => ?_)
    have hspace : 0xFF0000000000 ≤ q.1 := by
      unfold isReg at hreg
      split at hreg
      next h => exact le_of_locate_reg h
      · cases hreg
    have hnear : q.1 ≤ a + 64 := by
      rw [pieces_64] at hq
      split at hq
      · cases List.mem_singleton.mp hq
        omega
      · simp only [List.mem_cons, List.not_mem_nil, or_false] at hq
        rcases hq with rfl | rfl <;> dsimp only <;> omega
    omega
  simp only [noteRead, hserved, ne_eq, not_true_eq_false, if_false, hnone, each_nil]

end

/-! ### The move ring (10 R304) -/

section
variable {s u : State} {m : Mg}

theorem moveRingRequest_met (hmet : m ∈ s.homes.ringMet) : moveRingRequest s m = serveRing s m :=
  if_pos (List.contains_iff_mem.mpr hmet)

theorem moveRingRequest_waits (hmet : m ∉ s.homes.ringMet) (hidle : agentWaits s (.moveRing m) = false)
    (hask : askNow s (.moveRing m) .take (BitVec.ofNat 24 (getF s (mangerReg m 0x600020) 0 24)) 1 = (none, u)) :
    moveRingRequest s m = u := by
  have hcontains : s.homes.ringMet.contains m = false := by simpa using hmet
  simp only [moveRingRequest, hcontains, hidle, hask, Bool.false_eq_true, if_false]

/-- The slot at the head of a manger's ring, and where it lies. -/
def ringHead (s : State) (m : Mg) : Nat := getF s (mangerReg m 0x600028) 16 10
def ringSlot (s : State) (m : Mg) : Nat := getF s (mangerReg m 0x600018) 0 48 + 64 * ringHead s m

/-- What a slot asks of a pin. -/
def ringPin (w : Nat) : Option Bool := if bitOf w 4 then some true else if bitOf w 5 then some false else none

/-- The move of the slot's `i`-th name. -/
def ringJob (w i : Nat) : MoveJob :=
  { moveOf (field w 64 32 + i) with pinAfter := ringPin w, done := BitVec.ofNat 24 (field w 96 24), hasDone := true }

/-- The moves that a slot asks for are requested in the order of their names. -/
def ringRequested (s : State) (m : Mg) (w : Nat) : State :=
  each (List.range (field w 8 24)) (fun t i => (requestMove t (ringJob w i) (field w 1 3)).2)
    (onHomes s (fun h => { h with ringMet := h.ringMet.filter (fun x => x != m) }))

/-- A slot that is written is served and given back, and the head goes on. -/
theorem serveRing_served {w : Nat} (hslot : readRec s (ringSlot s m) 64 = some w) (hwritten : bitOf w 0 = true) :
    serveRing s m = setF (writeRange (ringRequested s m w) (ringSlot s m) (toBytes 64 (setBits w 0 1 0)) false)
      (mangerReg m 0x600028) 16 10 (ringHead s m + 1) := by
  have hnote := noteRead_of_record (.moveRing m) hslot hwritten
  unfold ringSlot ringHead at hslot hnote
  simp only [serveRing, hnote, hslot, hwritten, Bool.not_true, Bool.false_eq_true, if_false]
  rfl

end

/-! ### The patrol scrub (10 R296, R297) -/

section
variable {s : State} {g line : Nat}

/-- The scrubber reads a line of an interface in use that is not its first. -/
structure Scrubs (s : State) (g line : Nat) : Prop where
  on : getF s (mangerReg (asMg (g / 32)) 0x500010) 0 8 ≠ 0
  used : getF s (ifcReg g) 0 2 = 0
  later : 0 < line
  inside : line < 245760 * 1024

theorem Scrubs.goes (h : Scrubs s g line) :
    ¬(getF s (mangerReg (asMg (g / 32)) 0x500010) 0 8 = 0 ∨ getF s (ifcReg g) 0 2 ≠ 0 ∨ 245760 * 1024 ≤ line) := by
  rintro (hoff | hlost | hpast)
  · exact h.on hoff
  · exact hlost h.used
  · exact Nat.not_lt.mpr hpast h.inside

theorem pinsOf_none : pinsOf [] = [] := List.filter_eq_nil_iff.mpr (fun _ _ hp => of_decide_eq_true hp rfl)

/-- One pin with a symbol in error is the one pin in error. -/
theorem pinsOf_one (p : Fin 34) {e : BitVec 16} (he : e ≠ 0) : pinsOf [(p, e)] = [p] := by
  have hpin (q : Fin 34) : decide ((([(p, e)].filter (fun x => x.1 == q)).map Prod.snd).foldl (· ^^^ ·) 0 ≠ 0) = (q == p) := by
    by_cases hq : q = p
    · subst hq
      simpa using he
    · simp [Ne.symm hq, hq]
  have honce : ∀ p : Fin 34, (List.finRange 34).filter (· == p) = [p] := by decide
  rw [pinsOf, List.filter_congr (fun q _ => hpin q), honce]

theorem patrolScrub_sound (h : Scrubs s g line) : patrolScrub s g line [] = s := by
  simp only [patrolScrub, if_neg h.goes, pinsOf_none, if_neg (Nat.ne_of_gt h.later)]

/-- Where the frame of a line keeps its poison mark. -/
def lineMark (line : Nat) (x : Nat × Nat × Nat) : Nat :=
  ((if x.1 = 2 then tier2Base else 0) + x.2.1 * segSize + (x.2.2 * 4096 + 64 * line % 4096)) / 64

theorem patrolScrub_corrects (h : Scrubs s g line) {p : Fin 34} {e : BitVec 16} (he : e ≠ 0)
    (hclean : ∀ x, ifaceFrame s g (64 * line) = some x → mfind s.poison (lineMark line x) = none) :
    patrolScrub s g line [(p, e)] = countRepair (lineCorrected s g line (2 ^ p.val)) g line := by
  unfold lineMark at hclean
  simp only [patrolScrub, if_neg h.goes, pinsOf_one p he, if_neg (Nat.ne_of_gt h.later), List.map_cons, List.map_nil, List.foldl_cons,
    List.foldl_nil, Nat.zero_add]
  cases hframe : ifaceFrame s g (64 * line) with
  | none => simp only [Option.map_none, Bool.false_eq_true, if_false]
  | some x => simp only [Option.map_some, hclean x hframe, Option.isSome_none, Bool.false_eq_true, if_false]

end

/-! ### Losses (10 R289, R317, R318; 16 R470) -/

section
variable {s : State} {g p : Nat}

theorem interfaceLost_first (hused : ifaceLost s g = false) :
    interfaceLost s g =
      let dom := domainOf s g
      let x0 := lossFrames s g (dom.1.filter (ifaceLost s)).length
      let x1 := lossFrames s g ((dom.1.filter (ifaceLost s)).length + 1)
      lossHandled (addRepair (emit (setF s (ifcReg g) 0 2 2) (srcIface g) 0x0384 g (x1 - x0)) 10 (loftDie g) g) g dom.2.1 (dom.2.1 + dom.2.2)
        ((List.range (x1 - x0)).map (fun i => dom.2.1 + dom.2.2 - 1 - x0 - i)) ((List.range 8).any (fun i => ifaceLost s (g / 8 * 8 + i))) := by
  simp only [interfaceLost, hused, Bool.false_eq_true, if_false]

theorem exec_cxlPortFailed_on {p : Fin 8} (hon : poweredUp s = true) (hstate : cxlState s p.val = 1 ∨ cxlState s p.val = 2) :
    exec (.cxlPortFailed p) s = .next (ended s
      (let u := emit (setF s (cxpReg p.val 0) 0 3 3) (srcShed (asShed (p.val / 2)) (0x20 + p.val % 2)) 0x0388 p.val 0
       let v := suspectNames u ((s.homes.table.filter (fun e =>
        (e.2.tier.val == 3 || e.2.tier.val == 4) && e.2.frame / 2097152 == p.val)).map Prod.fst)
       releaseHeld (each v.homes.moves (fun s j => restartMove s (destOnPort p.val) j) v))) := by
  refine (finish_on s _ hon).trans ?_
  have hhomes (src : BitVec 16) (c a b : Nat) : (emit (setF s (cxpReg p.val 0) 0 3 3) src c a b).homes = s.homes := by
    rw [emit_homes, setF_homes]
  rw [if_pos hstate]
  dsimp only
  rw [hhomes]

/-- A read that exceeds the bound of tier 3 or 4 completes poisoned, counted and recorded at its port. -/
theorem slowAccess_read {x : Access} {pl mk tier name : Nat} {h : HomeRec} (hplace : locate s x.addr.toNat = .mem pl mk tier name)
    (hrec : nameRec s name = some h) (htier : tier = 3 ∨ tier = 4) (hread : x.write = false) :
    slowAccess s x =
      let p := h.frame / 2097152
      let u := emit (satF s (cxpReg p 0x10) 16 16 1) (srcShed (asShed (p / 2)) (0x20 + p % 2)) 0x0387 x.addr.toNat tier
      answerRead u x 0 true (readRange u x.addr.toNat x.size) := by
  have hslow : ¬ tier < 3 := by omega
  have hport : ¬ tier = 5 := by omega
  simp only [slowAccess, hplace, hrec, if_neg hslow, if_neg hport, hread, Bool.false_eq_true, if_false]

end

/-! ### Windows (10 R313, R314) -/

/-- The next fill of a window whose lead allows it is issued to the facing-edge barrows of its region's positions. -/
theorem windowFill_issues {s u : State} {r : Region} {st : Stall} {h e d : Nat} (hhome : regionHome s r = some st)
    (hon : getF s (winReg st r) 48 1 = 1) (hhead : readRec s (getF s (winReg st r) 0 48) 64 = some h) (hlead : whLead h < whW h)
    (hmore : (winOf s r).issued < whN h) (hnear : (winOf s r).issued ≤ tallyValue s (whCtally h) + whLead h)
    (hentry : readRec s (getF s (winReg st r) 0 48 + 64 + 64 * (winOf s r).issued) 64 = some e) (hfresh : weReuse e = false)
    (hwait : winWait s r e = (true, u)) (hdesc : readRec u (weDesc e) 64 = some d) :
    windowFill s r =
      let i := (winOf s r).issued
      issueFill (putWin u r { issued := i + 1, left := mput (winOf u r).left i (winBarrows u r).length })
        (BitVec.ofNat 512 (setBits (setBits d 11 1 1) 208 24 (whFtally h).toNat)) (BitVec.ofNat 48 (weDesc e))
        { boff := fillsBefore u (getF s (winReg st r) 0 48) i % whW h * whStride h, region := r, entry := i } (winBarrows u r) := by
  have henabled : ¬ getF s (winReg st r) 48 1 = 0 := by omega
  have hsized : ¬(whW h ≤ whLead h ∨ whN h = 0) := by omega
  have hdue : ¬(whN h ≤ (winOf s r).issued ∨ tallyValue s (whCtally h) + whLead h < (winOf s r).issued) := by omega
  simp only [windowFill, hhome, if_neg henabled, hhead, if_neg hsized, if_neg hdue, hentry, hfresh, hwait, hdesc, Bool.false_eq_true,
    false_and, if_false]

/-! ### The lofts' self-refresh (14 R419) -/

section
variable {s : State} {l : Nat}

theorem loftWake_wakes (htrim : pstate s = 1) (hasleep : loftOn s l = false) :
    loftWake s l = releaseHeld (onHomes (setF s (aonReg 8) (36 + l) 1 1) (fun h => { h with awake := mput h.awake l s.time })) := by
  simp only [loftWake, htrim, hasleep, ne_eq, not_true_eq_false, Bool.false_eq_true, or_self, if_false]

theorem exec_loftSelfRefresh_on {l : Fin 16} (hon : poweredUp s = true) (htrim : pstate s = 1) (hawake : (mfind s.homes.awake l.val).isSome = true) :
    exec (.loftSelfRefresh l) s = .next (ended s
      (onHomes (setF s (aonReg 8) (36 + l.val) 1 0) (fun h => { h with awake := mdel h.awake l.val }))) := by
  refine (finish_on s _ hon).trans ?_
  rw [if_pos ⟨htrim, hawake⟩]

end

/-- Settles O23, command by command: the search for a peer, whose shard is suspect no longer, and the commands of the homes in the
orders that log entries 68 and 69 choose; then the scrub, the losses, a window's next fill and the lofts' self-refresh. -/
theorem homeCommandsComplete : Obligations.HomeCommandsComplete := by
  refine ⟨⟨?_, ?_, ?_, ?_, ?_⟩, ?_, ?_, ?_, ?_, ?_, ?_⟩
  · intro s set shard master state d r hon hsuspect hset hshard hlisted
    refine ⟨(finish_on s _ hon).trans ?_, (finish_on s _ hon).trans ?_, isSuspect_shardSound _ set shard d r⟩
    · rw [peerSeekResult_not_found hsuspect hset hshard]
    · rw [peerSeekResult_found hsuspect hset hshard hlisted]
      rfl
  · intro s a name hon
    refine ⟨fun hnone => (finish_on s _ hon).trans ?_, fun h hrec => (finish_on s _ hon).trans ?_⟩
    · rw [cacheMiss_refused hnone]
    · rw [cacheMiss_fills hrec]
      rfl
  · intro s m hon
    have hexec : exec (.moveRingRequest m) s = .next (ended s (moveRingRequest s m)) := finish_on s _ hon
    rw [hexec]
    refine ⟨fun hmet => ?_, fun hmet hidle u hask => ?_⟩
    · rw [moveRingRequest_met hmet]
      refine ⟨rfl, ?_⟩
      intro head a w hslot hwritten pin job u v
      rw [serveRing_served hslot hwritten]
      rfl
    · rw [moveRingRequest_waits hmet hidle hask]
  · intro s m i j h hon _ _
    exact finish_on s _ hon
  · intro s m hon
    exact ⟨finish_on s _ hon, finish_on s _ hon⟩
  · intro s g line p e hon hscrub hused hlater hinside
    have h : Scrubs s g.val line.toNat := ⟨hscrub, hused, hlater, hinside⟩
    refine ⟨(finish_on s _ hon).trans ?_, fun he hclean => (finish_on s _ hon).trans ?_⟩
    · rw [patrolScrub_sound h]
    · rw [patrolScrub_corrects h he (fun x hx => hclean x.1 x.2.1 x.2.2 hx)]
  · intro s g hon hused dom k x0 x1
    refine (finish_on s _ hon).trans ?_
    rw [interfaceLost_first hused]
  · intro s p hon hstate
    exact exec_cxlPortFailed_on hon hstate
  · intro s x pl mk tier name h hon hplace hrec htier hread p u
    refine (finish_on s _ hon).trans ?_
    rw [slowAccess_read hplace hrec htier hread]
  · intro s r st h e d u hon hhome henabled hhead hlead hmore hnear hentry hfresh hwait hdesc i
    refine (finish_on s _ hon).trans ?_
    rw [windowFill_issues hhome henabled hhead hlead hmore hnear hentry hfresh hwait hdesc]
  · intro s l hon htrim
    refine ⟨fun hasleep => (finish_on s _ hon).trans ?_, exec_loftSelfRefresh_on hon htrim⟩
    rw [loftWake_wakes htrim hasleep]

end Sys2Proof.Machine
end

section
/-! SUPPORT. The statement of NAME-CREATE, NAME-DELETE and MOVE (10 R291, R304, R510; 13 R407), which an entry to a power state refutes. -/

namespace Sys2Proof.Machine

/-! ### A frame of a tier with room (10 R308, R309) -/

section
variable {s v : State} {task f t : Nat} {spill : Bool} {only : Option Nat}

/-- In a POOL tier that need not evict, a name gets the frame that is taken. -/
theorem allocIn_pool (fuel : Nat) (hpool : quotaMode s t = false) (hroom : getF s (homTier t) 8 8 * tierCap s t / 256 ≤ tierFree s t)
    (htake : takeFrame s t only = some (f, v)) : allocIn s task spill only (fuel + 1) t = .ok (t, f, v) := by
  simp only [allocIn, hpool, evictPool, if_neg (Nat.not_lt.mpr hroom), htake, Bool.false_and, Bool.false_eq_true, if_false]

/-- A tier of one run of frames, none of them used, gives one wherever the free choice begins. -/
theorem takeFrame_unused {cap : Nat} (hranges : tierRanges s t only = [(0, cap)]) (hnone : usedFrames s t = []) (hcap : 0 < cap) :
    takeFrame s t only = some (Config.pick s.draws % cap, { s with draws := s.draws + 1 }) := by
  have hlt : Config.pick s.draws % cap < cap := Nat.mod_lt _ hcap
  simp only [takeFrame, hranges, hnone, seekFree, nthFrame, List.foldl_cons, List.foldl_nil, Nat.zero_add, if_neg (Nat.ne_of_gt hcap),
    if_pos hlt, List.not_mem_nil, if_false]

end

/-! ### A MOVE while an entry to a power state takes lofts off (14 R427) -/

/-- The record of name 9: in tier 3, in no move. -/
def hushMoveRec : HomeRec := { tier := 3, task := 1, frame := 0 }

/-- The command's slot: MOVE of one name from 9 on to tier 1, for task 1, its pin as it stands. -/
def hushMoveSlot : MbSt :=
  { owner := 1, cmd := BitVec.ofNat 64 (0x0403 + 2 ^ 16 + 11 * 2 ^ 32 + 2 ^ 48), data := putFields [] [(0, 4, 9), (4, 4, 1), (8, 1, 1)] }

/-- The entry to HUSH that a command in slot 1 began. -/
def hushEntry : PwrEntry := { slot := 1, target := 2, mask := 0, seqs := [], queues := [], engines := [], fsel := [] }

/-- Slot 0 asks to move name 9 to tier 1 while the entry is under way. -/
def hushMove : State :=
  onSync (onHost (putMb (onPower (putRec {} 9 hushMoveRec) (fun p => { p with entry := some hushEntry })) 0 hushMoveSlot)
    (fun h => { h with posted := [0] })) (fun y => { y with tasks := [1] })

def hushMoveBegun : State := mbBegin hushMove 0

/-- The groom begins the command. -/
theorem hushMove_ready : CommandReady hushMove 0 0x0403 (fun l => l == 11) := by
  unfold CommandReady; decide +kernel

/-- The moves under way in the state that a command ends in. -/
def movesAfter (x : Host.Outcome State Fault Refusal) : List MoveJob :=
  match x with
  | .next t => t.homes.moves
  | _ => []

/-- The command's move waits: none is under way when the command ends its step. -/
theorem hushMove_waits : movesAfter (exec (.move 0) hushMove) = [] := by decide +kernel

/-- The command asks for name 9 alone, in tier 1, its pin as it stands. -/
theorem hushMove_args : mbArg (mbOf hushMove 0) 4 4 = 1 ∧ mbArg (mbOf hushMove 0) 0 4 = 9 ∧ mbArg (mbOf hushMove 0) 8 1 = 1
    ∧ mbArg (mbOf hushMove 0) 9 1 = 0 ∧ mbArg (mbOf hushMove 0) 10 1 = 0 ∧ mbTask (mbOf hushMove 0) = 1 := by decide +kernel

/-- Name 9 is the task's, in no move, with none of it in the queue, and its manger has a place for one. -/
theorem hushMove_name : nameRec hushMoveBegun 9 = some hushMoveRec ∧ hushMoveBegun.homes.moveQueue = []
    ∧ (mangerMoves hushMoveBegun (nameManger 9)).length < 4 := by decide +kernel

/-- A frame of tier 1 could be had. -/
theorem hushMove_alloc : ∃ f v, allocIn (setMove hushMoveBegun 9 1) 1 false (nameOnly hushMoveBegun 9 1) 6 1 = .ok (1, f, v) := by
  have honly : nameOnly hushMoveBegun 9 1 = none := by decide +kernel
  have hranges : tierRanges (setMove hushMoveBegun 9 1) 1 none = [(0, 982656)] := by decide +kernel
  have hnone : usedFrames (setMove hushMoveBegun 9 1) 1 = [] := by decide +kernel
  rw [honly]
  exact ⟨_, _, allocIn_pool 5 (by decide +kernel) (by decide +kernel) (takeFrame_unused hranges hnone (by decide))⟩

/-! ### What a command leaves of the homes -/

theorem OnlyMailbox.homes {s t : State} (h : OnlyMailbox s t) : t.homes = s.homes := by
  obtain ⟨⟨regs, slots, posted, pba, journal, out, rfl⟩, -⟩ := h
  rfl

theorem settled_homes (s u : State) : (settled s u).homes = u.homes :=
  (ended_homes s _).trans (settlePosted_only u).homes

theorem settleMoves_homes (s : State) : (settleMoves s).homes = s.homes := by
  unfold settleMoves
  dsimp only
  split
  · rfl
  · exact (settlePosted_only _).homes.trans (each_keeps State.homes _ (fun t k => (mbComplete_only t k _ _ _).homes) _ s)

/-- Refutes O42 in its clause on one name's MOVE: an entry to HUSH is under way, so a move into tier 1 begins only after the entry's end
(14 R427, step 2); no premise of the clause excludes this, and it would have the move begun. -/
theorem not_nameCommandsComplete : ¬ Obligations.NameCommandsComplete := by
  intro h
  obtain ⟨hcommands, -⟩ := h
  obtain ⟨-, -, -, -, hone⟩ := hcommands hushMove 0
  obtain ⟨hcount, hname, htier, hpin, hunpin, htask⟩ := hushMove_args
  obtain ⟨hrec, hqueue, hplaces⟩ := hushMove_name
  obtain ⟨f, v, halloc⟩ := hushMove_alloc
  obtain ⟨-, -, hmove⟩ := hone hcount
  rw [hname, htier, hpin, hunpin, htask] at hmove
  have hbegun := hmove hushMoveRec 1 f v hushMove_ready (by decide) (by decide) rfl rfl hrec rfl rfl
    (fun e he => absurd (hqueue ▸ he) List.not_mem_nil) hplaces halloc
  have hwaits := hushMove_waits
  rw [hbegun, movesAfter, settled_homes, settleMoves_homes, onHomes_homes] at hwaits
  exact List.append_ne_nil_of_right_ne_nil _ (List.cons_ne_nil _ _) hwaits

end Sys2Proof.Machine
end

section
/-! SUPPORT. The statement of the other MEMORY commands (10 R295, R298–R300, R308–R310, R315; 13 R396, R407): the host-window table, the
lofts' mode and bands, tiers' modes, quotas and spill areas. -/

namespace Sys2Proof.Machine

/-! ### The commands end as their bodies leave the slot begun (13 R400, R404) -/

section
variable {s : State} {k : MbSlot}

theorem exec_hostwinSet_ready
    (h : CommandReady s k 0x0404 (fun l => decide (mbArg (mbOf s k) 4 4 ≤ 248) && l == 8 + 16 * mbArg (mbOf s k) 4 4)) :
    exec (.hostwinSet k) s = .next (settled s (hostwinSet (mbBegin s k) k (mbOf s k))) :=
  finish_runCommand s k _ (fun m l => decide (mbArg m 4 4 ≤ 248) && l == 8 + 16 * mbArg m 4 4) hostwinSet h

theorem exec_hostwinClear_ready (h : CommandReady s k 0x0405 (fun l => l == 8)) :
    exec (.hostwinClear k) s = .next (settled s (hostwinClear (mbBegin s k) k (mbOf s k))) := finish_exactly s k _ 8 hostwinClear h

theorem exec_loftMode_ready (h : CommandReady s k 0x0406 (fun l => l == 1)) :
    exec (.loftMode k) s = .next (settled s (loftMode (mbBegin s k) k (mbOf s k))) := finish_exactly s k _ 1 loftMode h

theorem exec_bands_ready (h : CommandReady s k 0x0407 (fun l => l == 1)) :
    exec (.bands k) s = .next (settled s (bands (mbBegin s k) k (mbOf s k))) := finish_exactly s k _ 1 bands h

theorem exec_tierMode_ready (h : CommandReady s k 0x0408 (fun l => l == 4)) :
    exec (.tierMode k) s = .next (settled s (tierMode (mbBegin s k) k (mbOf s k))) := finish_exactly s k _ 4 tierMode h

theorem exec_quota_ready (h : CommandReady s k 0x0409 (fun l => l == 25)) :
    exec (.quota k) s = .next (settled s (quota (mbBegin s k) k (mbOf s k))) := finish_exactly s k _ 25 quota h

theorem exec_spillAreas_ready (h : CommandReady s k 0x040A (fun l => l == 4 || (decide (8 ≤ l) && l % 8 == 0))) :
    exec (.spillAreas k) s = .next (settled s (spillAreas (mbBegin s k) k (mbOf s k))) :=
  finish_runCommand s k _ (fun _ l => l == 4 || (decide (8 ≤ l) && l % 8 == 0)) spillAreas h

end

/-! ### The host-window table (10 R298; 13 R396) -/

section
variable {s u : State} {k : MbSlot} {m : MbSt}

/-- The words of a HOSTWIN-SET, and the groups of entries that they lie in. -/
def winWords (m : MbSt) : List Nat := (List.range (mbArg m 4 4)).map (fun j => mbArg m (8 + 16 * j) 16)
def winGroups (m : MbSt) : List Nat :=
  (List.range (ceilDiv (mbArg m 0 4 % 512 + mbArg m 4 4) 512)).map (fun j => mbArg m 0 4 / 512 + j)

/-- Legal entries whose groups have their bitmaps are set one by one. -/
theorem hostwinSet_sets (hfirst : mbArg m 0 4 < 1048576) (hsome : 1 ≤ mbArg m 4 4) (hfit : mbArg m 0 4 + mbArg m 4 4 ≤ 1048576)
    (hlegal : (winWords m).findIdx? (fun w => !hostWinLegal w) = none) (htake : takeBitmaps (winGroups m) s = some u) :
    hostwinSet s k m = mbOk (each (winWords m).zipIdx (fun s e => setHostWin s (mbArg m 0 4 + e.2) e.1) u) k [(4, mbArg m 4 4)] := by
  have hcount : ¬(mbArg m 4 4 = 0 ∨ 1048576 < mbArg m 0 4 + mbArg m 4 4) := by omega
  unfold winWords at hlegal
  unfold winGroups at htake
  simp only [hostwinSet, if_neg (Nat.not_le.mpr hfirst), if_neg hcount, hlegal, htake]
  rfl

/-- Whether a HOSTWIN-CLEAR names an entry. -/
def winCleared (m : MbSt) (j : Nat) : Bool := decide (mbArg m 0 4 ≤ j ∧ j < mbArg m 0 4 + mbArg m 4 4)

theorem hostwinClear_clears (hfirst : mbArg m 0 4 < 1048576) (hfit : mbArg m 0 4 + mbArg m 4 4 ≤ 1048576) :
    hostwinClear s k m = mbOk (onHomes s (fun h =>
      { h with hostwin := h.hostwin.filter (fun e => !winCleared m e.1)
               bitmaps := h.bitmaps.filter (fun x => (h.hostwin.filter (fun e => !winCleared m e.1)).any (fun e => e.1 / 512 == x.1)) }))
      k [(4, (s.homes.hostwin.filter (fun e => winCleared m e.1)).length)] := by
  simp only [hostwinClear, if_neg (Nat.not_le.mpr hfirst), if_neg (Nat.not_lt.mpr hfit)]
  rfl

end

/-! ### LOFT-MODE and BANDS (10 R295, R299, R300) -/

section
variable {s : State} {k : MbSlot} {m : MbSt}

theorem loftMode_legal (h : mbArg m 0 1 ≤ 1) : loftMode s k m = mbOk (setF s (mangerReg 0 0x500000) 1 1 (mbArg m 0 1)) k [] :=
  if_neg (Nat.not_lt.mpr h)

theorem loftMode_illegal (h : 2 ≤ mbArg m 0 1) : loftMode s k m = mbIllegal s k 0 := if_pos h

theorem bands_grow (h : mbArg m 0 1 = 1) : bands s k m = bandsTo s k
    (decide (protBands s < 7680) && (bandFrames s).all (fun f => !(usedFrames s 1).contains f)) (protBands s + 1) := by
  simp only [bands, h]

theorem bands_shrink (h : mbArg m 0 1 = 0xFF) : bands s k m = bandsTo s k
    (decide (3 < protBands s) && (List.range 112).all (fun i => !(usedFrames s 2).contains ((protBands s - 1) * 112 + i))) (protBands s - 1) := by
  simp only [bands, h]

/-- Frames none of which is used, as the commands on bands test them. -/
theorem all_unused {α : Type} {l : List α} {used : List Nat} {f : α → Nat} (h : ∀ x ∈ l, f x ∉ used) :
    l.all (fun x => !used.contains (f x)) = true := by
  simpa using h

theorem bandsTo_free (b : Nat) :
    bandsTo s k true b = mbOk (bandsStatus (setF s (mangerReg 0 0x500008) 0 13 b) 0) k [(2, b)] := if_pos rfl

end

/-! ### TIER-MODE and QUOTA (10 R308–R310) -/

section
variable {s : State} {k : MbSlot} {m : MbSt}

theorem tierMode_writes (hlow : 1 ≤ mbArg m 0 1) (hhigh : mbArg m 0 1 ≤ 5) (hmode : mbArg m 1 1 ≤ 1)
    (hunused : mbArg m 1 1 = getF s (homTier (mbArg m 0 1)) 0 1 ∨ tierInUse s (mbArg m 0 1) = false) :
    tierMode s k m
      = mbOk (writeReg s (homTier (mbArg m 0 1)) (mbArg m 1 1 + mbArg m 2 1 <<< 8 + mbArg m 3 1 <<< 16) 0xFFFF01) k [] := by
  have htier : ¬(mbArg m 0 1 = 0 ∨ 5 < mbArg m 0 1) := by omega
  have hfree : ¬(mbArg m 1 1 ≠ getF s (homTier (mbArg m 0 1)) 0 1 ∧ tierInUse s (mbArg m 0 1) = true) := by
    rintro ⟨hchanged, hused⟩
    rcases hunused with h | h
    · exact hchanged h
    · rw [h] at hused
      cases hused
  simp only [tierMode, if_neg htier, if_neg (Nat.not_lt.mpr hmode), if_neg hfree]

theorem quota_kept {p : Nat} (htask : taskExists s (mbArg m 0 2) = true) (hpolicy : mbArg m 24 1 ≤ 1)
    (hplace : quotaPlace s (mbArg m 0 2) = some p) :
    quota s k m = mbOk (putBytes s p (mbBytes m 4 20 ++ toBytes 4 (mbArg m 24 1))) k [] := by
  simp only [quota, htask, hplace, if_neg (Nat.not_lt.mpr hpolicy), Bool.not_true, Bool.false_eq_true, if_false]

end

/-! ### SPILL-AREAS (10 R315; 12 R378) -/

section
variable {s u v : State} {k : MbSlot} {m : MbSt} {a : Nat}

/-- How many names a SPILL-AREAS asks for. -/
def areaNames (m : MbSt) : Nat := 4 * mbArg m 0 4 + ((areaAsks m).map (·.segs)).foldl (· + ·) 0

/-- The sheds' areas, where they are asked for. -/
def shedAreas (s : State) (m : MbSt) (a : Nat) : Except Nat State :=
  if mbArg m 0 4 = 0 then .ok s else createShedAreas (BitVec.ofNat 16 (mbTask m)) (mbArg m 0 4) [0, 1, 2, 3] s a

theorem spillAreas_created (hsheds : mbArg m 0 4 < 2048) (hlegal : (areaAsks m).findIdx? (fun q => !areaLegal q) = none)
    (hrun : freeRun (pick s 983040).2 (areaNames m) (s.homes.table.length + 2) (pick s 983040).1 = some a)
    (hshed : shedAreas (pick s 983040).2 m a = .ok u)
    (hareas : createAreas (BitVec.ofNat 16 (mbTask m)) (areaAsks m) u (a + 4 * mbArg m 0 4) = .ok v) :
    spillAreas s k m = mbOk v k [(4, a)] := by
  unfold areaNames at hrun
  unfold shedAreas at hshed
  simp only [spillAreas, if_neg (Nat.not_le.mpr hsheds), hlegal, hrun, hshed, hareas]

end

/-- Settles O44, command by command; a band that is added or taken away needs its frames unused. SPILL-AREAS' arguments and its one free
run of names are log entry 95's. -/
theorem memoryMailboxCommandsComplete : Obligations.MemoryMailboxCommandsComplete := by
  intro s k b m
  refine ⟨?_, ?_, ?_, ?_, ?_, ?_, ?_, ?_⟩
  · intro u hready ws hfirst hsome hfit hlegal htake
    rw [exec_hostwinSet_ready hready, hostwinSet_sets hfirst hsome hfit hlegal htake]
    rfl
  · intro hready hfirst hfit hit
    rw [exec_hostwinClear_ready hready, hostwinClear_clears hfirst hfit]
    rfl
  · intro hready
    rw [exec_loftMode_ready hready]
    refine ⟨fun hlegal => ?_, fun hillegal => ?_⟩
    · rw [loftMode_legal hlegal]
    · rw [loftMode_illegal hillegal]
  · intro hready hone
    rw [exec_bands_ready hready, bands_grow hone]
  · intro hready
    rw [exec_bands_ready hready]
    refine ⟨fun hone hmore hfree => ?_, fun hless hmore hfree => ?_⟩
    · rw [bands_grow hone, decide_eq_true hmore, all_unused hfree, Bool.and_self, bandsTo_free]
    · rw [bands_shrink hless, decide_eq_true hmore, all_unused (fun i hi => hfree i (List.mem_range.mp hi)), Bool.and_self, bandsTo_free]
  · intro hready hlow hhigh hmode hunused
    rw [exec_tierMode_ready hready, tierMode_writes hlow hhigh hmode hunused]
  · intro p hready htask hpolicy hplace
    rw [exec_quota_ready hready, quota_kept htask hpolicy hplace]
  · intro a u v hready hsheds hlegal hrun hshed hareas
    rw [exec_spillAreas_ready hready, spillAreas_created hsheds hlegal hrun hshed hareas]

end Sys2Proof.Machine
end

section
/-! SUPPORT. The statement of ports and windows (10 R316, R317, R323; 12 R378; 13 R388, R392, R393, R411): CXL ports' links, reads of the
control window, configuration requests, and the refill of a flow's window from its extension. -/

namespace Sys2Proof.Machine

/-! ### CXL ports (10 R316, R317, R323) -/

section
variable {s : State} {p : Fin 8}

theorem exec_cxlLinkRetrain_up (hon : poweredUp s = true) (hup : cxlState s p.val = 2) :
    exec (.cxlLinkRetrain p) s = .next (ended s (onHomes (satF (setF s (cxpReg p.val 0) 0 3 1) (cxpReg p.val 0x10) 32 16 1)
      (fun h => { h with cxlWasUp := p.val :: h.cxlWasUp.filter (fun q => q != p.val), cxlDownSince := mput h.cxlDownSince p.val s.time }))) := by
  refine (finish_on s _ hon).trans ?_
  rw [if_pos hup]
  dsimp only
  rw [satF_time, setF_time]

/-- What a port shows of its device once its link is up. -/
def portShown (s : State) (p : Fin 8) (width rate : Nat) (flash : Bool) (frames : BitVec 22) : State :=
  let r := cxpReg p.val 0
  setF (setF (setF (setF (setF s r 0 3 2) r 4 4 width) r 8 4 rate) r 12 1 (flag flash)) r 24 22 frames.toNat

theorem exec_cxlPortUp_down {width rate : Nat} {flash : Bool} {frames : BitVec 22} (hon : poweredUp s = true) (hdown : cxlState s p.val ≤ 1) :
    exec (.cxlPortUp p width rate flash frames) s = .next (ended s (releaseHeld
      (onHomes (setF (portShown s p width rate flash frames) (cxpReg p.val 8) 8 1 1)
        (fun h => { h with cxlDownSince := mdel h.cxlDownSince p.val })))) := by
  have hstate : cxlState s p.val = 0 ∨ cxlState s p.val = 1 := by omega
  refine (finish_on s _ hon).trans ?_
  rw [if_pos hstate]
  rfl

end

/-! ### Reads of the control window (13 R392, R393, R411) -/

section
variable {s : State} {off size o : Nat} {k : MbSlot}

theorem controlRead_slot (hlink : s.host.inReset = false) (hpart : cwPart off = .slot k o) (hsize : size ≤ 4096) (hfit : o + size ≤ 0x1000) :
    controlRead s off size = send s (.completion .success false (slotBytes (mbOf s k) o size)) := by
  simp only [controlRead, hlink, hpart, if_neg (Nat.not_lt.mpr hsize), if_neg (Nat.not_lt.mpr hfit), Bool.false_eq_true, if_false]

theorem controlRead_slot_tooLarge (hlink : s.host.inReset = false) (hpart : cwPart off = .slot k o) (hsize : 4096 < size) :
    controlRead s off size = readTooLarge s off size := by
  simp only [controlRead, hlink, hpart, if_pos hsize, Bool.false_eq_true, if_false]

theorem controlRead_status (hlink : s.host.inReset = false) (hpart : cwPart off = .status o) :
    controlRead s off size =
      if wordSized off size then send s (.completion .success false (statusBytes s o size))
      else send (accessEvent s off size false) (.completion .success false (List.replicate size 0)) := by
  simp only [controlRead, hlink, hpart, Bool.false_eq_true, if_false]

end

/-! ### Configuration requests (13 R388) -/

section
variable {s : State} {off : Nat} {data : BitVec 32}

theorem configurationRequest_retry (hlink : s.host.inReset = false) (hnot : (cfgSuccess s).1 = false) (write : Bool) :
    configurationRequest s write off data = send (cfgSuccess s).2 (.completion .retry false []) := by
  unfold configurationRequest
  rw [hlink, ← Prod.eta (cfgSuccess s), hnot]
  rfl

/-- The port is ready from its first success on. -/
def cfgBegun (s : State) : State := onHost (cfgSuccess s).2 (fun h => { h with cfgReady := true })

theorem configurationRequest_success (hlink : s.host.inReset = false) (hyes : (cfgSuccess s).1 = true) (write : Bool) :
    configurationRequest s write off data =
      if write then send (flushPending (onHost (cfgBegun s) (fun h => { h with cfgSpace := mput h.cfgSpace (off / 4) data })))
        (.completion .success false [])
      else send (cfgBegun s) (.completion .success false (toBytes 4 (cfgWord (cfgBegun s) (off / 4)))) := by
  unfold configurationRequest
  rw [hlink, ← Prod.eta (cfgSuccess s), hyes]
  rfl

end

/-! ### A flow's extension (12 R378) -/

section
variable {s v : State} {flow : BitVec 16} {p : Port}

theorem extensionRead_refills (hgoes : (elOf s (flowIndex s flow)).halted = false) :
    extensionRead s (feShed (flowEntry s (flowIndex s flow))) flow p
      = pumpReduction (fitExt (refillFrom s flow (flowIndex s flow) p 64) (flowIndex s flow) (flowEntry s (flowIndex s flow))) := by
  simp only [extensionRead, hgoes, ne_eq, not_true_eq_false, Bool.false_eq_true, or_self, if_false]

/-- A packet all of whose bales are taken leaves the extension, and the refill goes on. -/
theorem refillFrom_accepted {key n i : Nat} {r} (hhead : (elOf s key).ext.find? (fun e => e.1 == p) = some r)
    (hstep : r.2.rstep.toNat = feStep (flowEntry s key)) (hall : acceptAll s flow key (.child p) r.2.first r.2.bales = (v, i, [])) :
    refillFrom s flow key p (n + 1)
      = refillFrom (putEl v key { elOf v key with ext := (elOf v key).ext.erase r }) flow key p n := by
  rw [refillFrom]
  simp only [hhead, hstep, hall, ne_eq, not_true_eq_false, if_false]

end

/-- Settles O54: the port's link, the part of the control window that a read lies in, whether a configuration request succeeds, and the
refill of a flow's window by the head of its extension. -/
theorem portsAndWindowsComplete : Obligations.PortsAndWindowsComplete := by
  refine ⟨?_, ?_, ?_, ?_, ?_⟩
  · intro s p hon hup
    exact exec_cxlLinkRetrain_up hon hup
  · intro s p width rate flash frames hon hdown r u
    exact exec_cxlPortUp_down hon hdown
  · intro s off size hon hlink
    have hexec : exec (.controlWindowRead off size) s = .next (ended s (controlRead s off.toNat size)) := finish_on s _ hon
    rw [hexec]
    refine ⟨?_, ?_, ?_⟩
    · intro k o hpart hsize hfit
      rw [controlRead_slot hlink hpart hsize hfit]
    · intro o hpart
      rw [controlRead_status hlink hpart]
      refine ⟨fun hserved => ?_, fun hother => ?_⟩
      · rw [if_pos hserved]
      · rw [hother]
        rfl
    · intro k o hpart hsize
      rw [controlRead_slot_tooLarge hlink hpart hsize]
  · intro s off data hon hlink
    have hexec (w : Bool) : exec (.configurationRequest w off data) s = .next (ended s (configurationRequest s w off.toNat data)) :=
      finish_on s _ hon
    refine ⟨fun hnot w => ?_, fun hyes => ⟨?_, ?_⟩⟩
    · rw [hexec, configurationRequest_retry hlink hnot]
    · rw [hexec, configurationRequest_success hlink hyes]
      rfl
    · rw [hexec, configurationRequest_success hlink hyes]
      rfl
  · intro s flow p hon hgoes
    refine ⟨(finish_on s _ hon).trans ?_, ?_⟩
    · rw [extensionRead_refills hgoes]
    · intro n r v i hhead hstep hall x
      exact refillFrom_accepted hhead hstep hall

end Sys2Proof.Machine
end

section
/-! SUPPORT. What each operation does to its object (11 R331–R337), case by case. -/

namespace Sys2Proof.Machine

/-! ### Gates (11 R334, R335) -/

section
variable {o : SyncObj} {a : Agent} {n : BitVec 32} {room : Bool}

/-- An arrival that leaves the gate incomplete; on a latched gate it clears open. -/
theorem countArrival_incomplete (h : o.arrivals.toNat + 1 < o.count.toNat) :
    countArrival o = ({ o with arrivals := o.arrivals + 1, isOpen := o.isOpen && !o.latch }, []) := by
  cases hlatch : o.latch with
  | false =>
    simp only [countArrival, hlatch, if_neg (Nat.not_le.mpr h), Bool.false_eq_true, if_false, Bool.not_false, Bool.and_true]
  | true =>
    simp only [countArrival, hlatch, if_neg (Nat.not_le.mpr h), if_true, Bool.not_true, Bool.and_false]

/-- The last arrival releases the gate; what it cleared of a latched one the release opens. -/
theorem countArrival_last (h : o.count.toNat ≤ o.arrivals.toNat + 1) : countArrival o = releaseGate o := by
  cases hlatch : o.latch with
  | false => simp only [countArrival, hlatch, if_pos h, Bool.false_eq_true, if_false, releaseGate]; rfl
  | true => simp only [countArrival, hlatch, if_pos h, if_true, releaseGate, Bool.true_or]; rfl

theorem applyOp_arrive (hkind : o.kind = .gate) :
    applyOp o a .arrive n room = { obj := (countArrival o).1, releases := (countArrival o).2 } := by
  simp only [applyOp, hkind]

theorem applyOp_signal_gate (hkind : o.kind = .gate) :
    applyOp o a .signal n room = { obj := (countArrival o).1, releases := (countArrival o).2 } := by
  simp only [applyOp, hkind]

/-- An open latched gate lets an agent pass. -/
theorem applyOp_arriveWait_open (hkind : o.kind = .gate) (hlatch : o.latch = true) (hopen : o.isOpen = true) :
    applyOp o a .arriveWait n room = { obj := o, reply := some (BitVec.ofNat 32 (flag o.gen)) } := by
  simp only [applyOp, hkind, hlatch, hopen, if_true]

theorem applyOp_read_gate (hkind : o.kind = .gate) :
    applyOp o a .read n room = { obj := o, reply := some (BitVec.ofNat 32 (objStateWord o)) } := by
  simp only [applyOp, hkind]

/-! ### Tallies (11 R336, R337) -/

theorem applyOp_signal_tally (hkind : o.kind = .tally) (h : o.value.toNat + 1 < 2 ^ 32) :
    applyOp o a .signal n room
      = { obj := (serveTally { o with value := o.value + 1 }).1, releases := (serveTally { o with value := o.value + 1 }).2 } := by
  simp only [applyOp, hkind, if_pos h]

theorem applyOp_add (hkind : o.kind = .tally) (h : o.value.toNat + n.toNat < 2 ^ 32) :
    applyOp o a .add n room
      = { obj := (serveTally { o with value := o.value + n }).1, releases := (serveTally { o with value := o.value + n }).2 } := by
  simp only [applyOp, hkind, if_pos h]

theorem applyOp_fetchAdd (hkind : o.kind = .tally) (h : o.value.toNat + n.toNat < 2 ^ 32) :
    applyOp o a .fetchAdd n room
      = { obj := (serveTally { o with value := o.value + n }).1, reply := some o.value
          releases := (serveTally { o with value := o.value + n }).2 } := by
  simp only [applyOp, hkind, if_pos h]

theorem applyOp_sub (hkind : o.kind = .tally) (h : n.toNat ≤ o.value.toNat) :
    applyOp o a .sub n room
      = { obj := (serveTally { o with value := o.value - n }).1, releases := (serveTally { o with value := o.value - n }).2 } := by
  simp only [applyOp, hkind, if_pos h]

/-- A SUB that would go below 0 leaves the tally. -/
theorem applyOp_sub_short (hkind : o.kind = .tally) (h : o.value.toNat < n.toNat) :
    applyOp o a .sub n room = { obj := o, status := 0x0403 } := by
  simp only [applyOp, hkind, if_neg (Nat.not_le.mpr h)]

/-- A TAKE behind another one waits, however much the tally holds. -/
theorem applyOp_take_behind (hkind : o.kind = .tally) (hfirst : ∃ w ∈ waiters o, w.kind = .take) (hown : o.own.length < 16)
    (hovf : o.ovf = []) :
    applyOp o a .take n room = { obj := { o with own := o.own ++ [{ agent := a, kind := .take, n := n }] } } := by
  have hsome : (waiters o).any (fun w => w.kind = .take) = true := by
    rw [List.any_eq_true]
    obtain ⟨w, hw, htake⟩ := hfirst
    exact ⟨w, hw, decide_eq_true htake⟩
  simp only [applyOp, hkind, hsome, Bool.not_true, Bool.false_eq_true, and_false, if_false, register_own hown hovf]

theorem applyOp_read_tally (hkind : o.kind = .tally) : applyOp o a .read n room = { obj := o, reply := some o.value } := by
  simp only [applyOp, hkind]

end

/-! ### Every operation (11 R331) -/

/-- What an operation can make of its object: it stays; its value alone changes; a waiter registers; an arrival is counted, of one that
registers too or not; its value changes and its waiters are served. -/
inductive OpEffect (o : SyncObj) (room : Bool) : OpOut → Prop
  | stays (status : Nat) (reply : Option (BitVec 32)) : OpEffect o room { obj := o, status := status, reply := reply }
  | sets (v : BitVec 32) (reply : Option (BitVec 32)) : OpEffect o room { obj := { o with value := v }, reply := reply }
  | registers {w : Waiter} {p : SyncObj} : register o w room = some p → OpEffect o room { obj := p }
  | arrives : OpEffect o room { obj := (countArrival o).1, releases := (countArrival o).2 }
  | registersArrives {w : Waiter} {p : SyncObj} :
    register o w room = some p → OpEffect o room { obj := (countArrival p).1, releases := (countArrival p).2 }
  | serves (v : BitVec 32) (reply : Option (BitVec 32)) :
    OpEffect o room { obj := (serveTally { o with value := v }).1, reply := reply, releases := (serveTally { o with value := v }).2 }

/-- Every operation has one of these effects. The cases are `applyOp`'s arms in their order: a free object (1); a gate's signal, arrive,
arrive-wait, read, and what it refuses (2–6); a tally's signal, add, sub, fetch-add, wait-ge, take, read, and what it refuses (7–14). -/
theorem applyOp_effect (o : SyncObj) (a : Agent) (op : SyncOp) (n : BitVec 32) (room : Bool) : OpEffect o room (applyOp o a op n room) := by
  unfold applyOp
  split
  case h_1 | h_5 | h_6 | h_13 | h_14 => exact .stays _ _
  case h_2 | h_3 => exact .arrives
  case h_4 =>
    split
    · split
      · exact .stays _ _
      · split
        · next hreg => exact .registers hreg
        · exact .stays _ _
    · split
      · next hreg => exact .registersArrives hreg
      · exact .stays _ _
  case h_7 | h_8 | h_9 | h_10 =>
    split
    · exact .serves _ _
    · exact .stays _ _
  case h_11 =>
    split
    · exact .stays _ _
    · split
      · next hreg => exact .registers hreg
      · exact .stays _ _
  case h_12 =>
    split
    · exact .sets _ _
    · split
      · next hreg => exact .registers hreg
      · exact .stays _ _

end Sys2Proof.Machine
end

section
/-! SUPPORT. The statements of waiter lists (11 R336, R339, R340): in what order a tally serves its waiters, and how many waiters an
object's lists hold. -/

namespace Sys2Proof.Machine

/-! ### Takes are served oldest first (11 R336) -/

/-- Of waiters `l`, the takes `rel` were served while the value went from `v` to `v'`; the waiters `rest` still wait. -/
structure TakesServed (v : BitVec 32) (l : List Waiter) (v' : BitVec 32) (rel : List (Waiter × BitVec 32)) (rest : List Waiter) : Prop where
  areTakes : ∀ e ∈ rel, e.1.kind = .take
  oldestFirst : rel.map Prod.fst ++ rest.filter (fun w => w.kind == .take) = l.filter (fun w => w.kind == .take)
  subtracted : v'.toNat + (rel.map (fun e => e.1.n.toNat)).sum = v.toNat
  nextTooLarge : ∀ w, (rest.filter (fun w => w.kind == .take)).head? = some w → v'.toNat < w.n.toNat
  othersKept : rest.filter (fun w => w.kind != .take) = l.filter (fun w => w.kind != .take)
  stillWait : rest.Sublist l

section
variable {v v' : BitVec 32} {w : Waiter} {l rest : List Waiter} {rel : List (Waiter × BitVec 32)}

theorem TakesServed.nil : TakesServed v [] v [] [] where
  areTakes := fun _ he => absurd he List.not_mem_nil
  oldestFirst := rfl
  subtracted := rfl
  nextTooLarge := fun _ hw => nomatch hw
  othersKept := rfl
  stillWait := .slnil

/-- A take that asks for no more than is left is served. -/
theorem TakesServed.served (h : TakesServed (v - w.n) l v' rel rest) (htake : w.kind = .take) (hn : w.n.toNat ≤ v.toNat) :
    TakesServed v (w :: l) v' ((w, v - w.n) :: rel) rest where
  areTakes := by
    intro e he
    rcases List.mem_cons.mp he with rfl | he
    · exact htake
    · exact h.areTakes e he
  oldestFirst := by
    rw [List.map_cons, List.cons_append, h.oldestFirst, List.filter_cons_of_pos (by simp [htake])]
  subtracted := by
    have hleft := h.subtracted
    rw [BitVec.toNat_sub_of_le hn] at hleft
    rw [List.map_cons, List.sum_cons]
    dsimp only
    omega
  nextTooLarge := h.nextTooLarge
  othersKept := by rw [h.othersKept, List.filter_cons_of_neg (by simp [htake])]
  stillWait := h.stillWait.cons w

/-- One that asks for more stops the service. -/
theorem TakesServed.stopped (htake : w.kind = .take) (hn : v.toNat < w.n.toNat) : TakesServed v (w :: l) v [] (w :: l) where
  areTakes := fun _ he => absurd he List.not_mem_nil
  oldestFirst := rfl
  subtracted := rfl
  nextTooLarge := by
    intro x hx
    rw [List.filter_cons_of_pos (by simp [htake]), List.head?_cons] at hx
    cases hx
    exact hn
  othersKept := rfl
  stillWait := .refl _

/-- A waiter that is no take is passed over. -/
theorem TakesServed.passed (h : TakesServed v l v' rel rest) (hother : w.kind ≠ .take) : TakesServed v (w :: l) v' rel (w :: rest) where
  areTakes := h.areTakes
  oldestFirst := by
    rw [List.filter_cons_of_neg (by simp [hother]), List.filter_cons_of_neg (by simp [hother]), h.oldestFirst]
  subtracted := h.subtracted
  nextTooLarge := by
    rw [List.filter_cons_of_neg (by simp [hother])]
    exact h.nextTooLarge
  othersKept := by
    rw [List.filter_cons_of_pos (by simp [hother]), List.filter_cons_of_pos (by simp [hother]), h.othersKept]
  stillWait := h.stillWait.cons_cons w

end

theorem takesServed_serveTakes (v : BitVec 32) (l : List Waiter) :
    TakesServed v l (serveTakes v l).1 (serveTakes v l).2.1 (serveTakes v l).2.2 := by
  induction l generalizing v with
  | nil => exact .nil
  | cons w l ih =>
    unfold serveTakes
    split
    · next htake =>
      split
      · next hn => exact (ih (v - w.n)).served htake hn
      · next hn => exact .stopped htake (Nat.lt_of_not_le hn)
    · next hother => exact (ih v).passed hother

/-! ### A tally is served (11 R336, R339) -/

@[simp] theorem waiters_setWaiters (o : SyncObj) (l : List Waiter) : waiters (setWaiters o l) = l := List.take_append_drop 16 l

/-- A WAIT-GE that the value of its tally meets. -/
def geMet (o : SyncObj) (w : Waiter) : Bool := w.kind == .ge && decide (w.n.toNat ≤ o.value.toNat)

/-- The waiters among which the takes are served: those that are not met so. -/
def unmet (o : SyncObj) : List Waiter := (waiters o).filter (fun w => !geMet o w)

/-- What becomes of the value, the takes served, and who still waits. -/
def tallyTakes (o : SyncObj) : BitVec 32 × List (Waiter × BitVec 32) × List Waiter := serveTakes o.value (unmet o)

theorem geMet_take {o : SyncObj} {w : Waiter} (h : w.kind = .take) : geMet o w = false := by
  simp [geMet, h]

/-- Every WAIT-GE that is met is released, then the takes. -/
theorem serveTally_eq (o : SyncObj) :
    serveTally o = (setWaiters { o with value := (tallyTakes o).1 } (tallyTakes o).2.2,
      ((waiters o).filter (geMet o)).map (fun w => (w, o.value)) ++ (tallyTakes o).2.1) := rfl

theorem takesServed_tally (o : SyncObj) : TakesServed o.value (unmet o) (tallyTakes o).1 (tallyTakes o).2.1 (tallyTakes o).2.2 :=
  takesServed_serveTakes o.value (unmet o)

@[simp] theorem waiters_serveTally (o : SyncObj) : waiters (serveTally o).1 = (tallyTakes o).2.2 := by
  rw [serveTally_eq, waiters_setWaiters]

/-- The releases of takes are those of the takes served. -/
theorem takes_of_serveTally (o : SyncObj) : (serveTally o).2.filter (fun e => e.1.kind == .take) = (tallyTakes o).2.1 := by
  have hge : (((waiters o).filter (geMet o)).map (fun w => (w, o.value))).filter (fun e => e.1.kind == .take) = [] := by
    refine List.filter_eq_nil_iff.mpr fun e he htake => ?_
    obtain ⟨w, hw, rfl⟩ := List.mem_map.mp he
    have hmet := (List.mem_filter.mp hw).2
    rw [geMet_take (beq_iff_eq.mp htake)] at hmet
    exact Bool.false_ne_true hmet
  have htakes : (tallyTakes o).2.1.filter (fun e => e.1.kind == .take) = (tallyTakes o).2.1 :=
    List.filter_eq_self.mpr fun e he => beq_iff_eq.mpr ((takesServed_tally o).areTakes e he)
  rw [serveTally_eq, List.filter_append, hge, htakes, List.nil_append]

/-- No take is met as a WAIT-GE is. -/
theorem takes_of_unmet (o : SyncObj) :
    (unmet o).filter (fun w => w.kind == .take) = (waiters o).filter (fun w => w.kind == .take) := by
  rw [unmet, List.filter_filter]
  refine List.filter_congr fun w _ => ?_
  cases htake : w.kind == .take with
  | false => rfl
  | true => rw [geMet_take (beq_iff_eq.mp htake), Bool.not_false, Bool.and_true]

/-- Settles O26: the order of service by what serving the takes does (`TakesServed`), then each operation by its equation. -/
theorem talliesServedInOrder : Obligations.TalliesServedInOrder := by
  refine ⟨?_, ?_⟩
  · intro o p rel met takes
    have hserved := takesServed_tally o
    have htakes : takes = (tallyTakes o).2.1 := takes_of_serveTally o
    have hwait : waiters p = (tallyTakes o).2.2 := waiters_serveTally o
    rw [htakes, hwait]
    refine ⟨rfl, ?_, ?_, hserved.nextTooLarge, ?_⟩
    · rw [hserved.oldestFirst, takes_of_unmet]
    · rw [← List.sum_eq_foldl_nat]
      exact hserved.subtracted
    · rw [hserved.othersKept, unmet, List.filter_filter]
      rfl
  · intro o a n room hkind
    refine ⟨fun hsum => ?_, fun hsum => ?_, fun hless => ?_, fun hfirst hown hovf => applyOp_take_behind hkind hfirst hown hovf⟩
    · rw [applyOp_add hkind hsum, applyOp_fetchAdd hkind hsum]
      exact ⟨rfl, rfl, rfl, rfl⟩
    · rw [applyOp_signal_tally hkind hsum]
      exact ⟨rfl, rfl⟩
    · rw [applyOp_sub hkind hless]
      exact ⟨rfl, rfl, applyOp_waitGe_met hkind hless, applyOp_take_met hkind hless⟩

/-! ### The lists are bounded (11 R339, R340) -/

/-- At most 16 waiters in the own list, the overflow used only behind a full one, and at most `n` waiters in all. -/
structure WaitersWithin (n : Nat) (o : SyncObj) : Prop where
  own : o.own.length ≤ 16
  ovf : o.ovf ≠ [] → o.own.length = 16
  all : (waiters o).length ≤ n

section
variable {o p : SyncObj} {w : Waiter} {n m : Nat} {room : Bool}

theorem WaitersWithin.mono (h : WaitersWithin n o) (hle : n ≤ m) : WaitersWithin m o := ⟨h.own, h.ovf, h.all.trans hle⟩

/-- Whatever keeps the lists keeps their bounds. -/
theorem WaitersWithin.of_lists (h : WaitersWithin n o) (hown : p.own = o.own) (hovf : p.ovf = o.ovf) : WaitersWithin n p where
  own := hown ▸ h.own
  ovf := by
    rw [hown, hovf]
    exact h.ovf
  all := by
    rw [waiters, hown, hovf]
    exact h.all

theorem WaitersWithin.setValue (h : WaitersWithin n o) (v : BitVec 32) : WaitersWithin n { o with value := v } := h.of_lists rfl rfl

theorem waitersWithin_setWaiters (o : SyncObj) (l : List Waiter) : WaitersWithin l.length (setWaiters o l) where
  own := List.length_take_le 16 l
  ovf := by
    intro hsome
    have hmore : 16 < l.length := by simpa [setWaiters] using hsome
    exact List.length_take_of_le hmore.le
  all := by rw [waiters_setWaiters]

/-- A waiter joins the own list while it has room and nothing overflows, else the overflow. -/
theorem WaitersWithin.register (h : WaitersWithin n o) (hreg : register o w room = some p) : WaitersWithin (n + 1) p := by
  have hall := h.all
  rw [waiters, List.length_append] at hall
  unfold Machine.register at hreg
  split at hreg
  · next hroom =>
    obtain ⟨hfew, hnone⟩ := hroom
    cases hreg
    refine ⟨?_, fun hsome => absurd hnone hsome, ?_⟩
    · simp only [List.length_append, List.length_singleton]
      exact hfew
    · simp only [waiters, List.length_append, List.length_singleton]
      omega
  · next hfull =>
    split at hreg
    · cases hreg
      refine ⟨h.own, fun _ => ?_, ?_⟩
      · by_cases hnone : o.ovf = []
        · exact Nat.le_antisymm h.own (Nat.le_of_not_lt fun hfew => hfull ⟨hfew, hnone⟩)
        · exact h.ovf hnone
      · simp only [waiters, List.length_append, List.length_singleton]
        omega
    · cases hreg

/-- An arrival keeps the waiters, or releases them all. -/
theorem WaitersWithin.countArrival (h : WaitersWithin n o) : WaitersWithin n (countArrival o).1 := by
  rcases Nat.lt_or_ge (o.arrivals.toNat + 1) o.count.toNat with hmore | hlast
  · rw [countArrival_incomplete hmore]
    exact h.of_lists rfl rfl
  · rw [countArrival_last hlast]
    exact ⟨Nat.zero_le 16, fun hsome => absurd rfl hsome, Nat.zero_le n⟩

theorem WaitersWithin.serveTally (h : WaitersWithin n o) : WaitersWithin n (serveTally o).1 := by
  have hfewer : (tallyTakes o).2.2.length ≤ n :=
    ((takesServed_tally o).stillWait.trans List.filter_sublist).length_le.trans h.all
  rw [serveTally_eq]
  exact (waitersWithin_setWaiters _ _).mono hfewer

/-- An operation adds at most one waiter. -/
theorem WaitersWithin.effect {r : OpOut} (h : WaitersWithin n o) (heffect : OpEffect o room r) : WaitersWithin (n + 1) r.obj := by
  cases heffect with
  | stays _ _ => exact h.mono (Nat.le_succ n)
  | sets v _ => exact (h.setValue v).mono (Nat.le_succ n)
  | registers hreg => exact h.register hreg
  | arrives => exact h.countArrival.mono (Nat.le_succ n)
  | registersArrives hreg => exact (h.register hreg).countArrival
  | serves v _ => exact (h.setValue v).serveTally.mono (Nat.le_succ n)

/-- A refused operation leaves its object and releases nobody. -/
theorem OpEffect.refused {r : OpOut} (h : OpEffect o room r) (hstatus : r.status ≠ 0) : r.obj = o ∧ r.releases = [] := by
  cases h with
  | stays _ _ => exact ⟨rfl, rfl⟩
  | sets | registers | arrives | registersArrives | serves => exact absurd rfl hstatus

end

/-- Settles O27, by the effect that an operation has on its object. -/
theorem waiterListsBounded : Obligations.WaiterListsBounded := by
  intro o a op n room hown hovf r
  have heffect : OpEffect o room r := applyOp_effect o a op n room
  have hwithin : WaitersWithin ((waiters o).length + 1) r.obj := WaitersWithin.effect ⟨hown, hovf, le_rfl⟩ heffect
  exact ⟨hwithin.own, hwithin.ovf, hwithin.all, heffect.refused⟩

end Sys2Proof.Machine
end

section
/-! SUPPORT. The frame of the operations on objects (11 R330, R331, R339–R341, R350): what of the state an operation on one object leaves. -/

namespace Sys2Proof.Machine

/-! ### What an operation leaves -/

/-- The state without its registers, its host port and its objects. -/
def outsideSync (s : State) : State := { s with regs := [], host := {}, sync := {} }

theorem outsideSync_setF (s : State) (a lo len v : Nat) : outsideSync (setF s a lo len v) = outsideSync s := rfl
theorem outsideSync_emit (s : State) (src : BitVec 16) (c a b : Nat) : outsideSync (emit s src c a b) = outsideSync s := rfl
theorem outsideSync_onSync (s : State) (f : SyncSt → SyncSt) : outsideSync (onSync s f) = outsideSync s := rfl

/-- A register that is none of a stall's counts and marks of synchronization (11 R350). -/
def OuterReg (g : Nat) : Prop := ∀ st o, o < 0x20 → g ≠ synReg st o

/-- What an operation leaves: the state outside synchronization, the registers of other things, and the objects in `others`. -/
def syncRest (others : Nat → Prop) (s : State) : State × ({g // OuterReg g} → Word) × ({k // others k} → SyncObj) :=
  (outsideSync s, fun g => getReg s g, fun k => objOf s k)

section
variable {others : Nat → Prop} {s t : State}

theorem syncRest_eq (hout : outsideSync t = outsideSync s) (hreg : ∀ g, OuterReg g → getReg t g = getReg s g)
    (hobj : ∀ k, others k → objOf t k = objOf s k) : syncRest others t = syncRest others s := by
  rw [syncRest, syncRest, hout, funext fun g : {g // OuterReg g} => hreg g g.2, funext fun k : {k // others k} => hobj k k.2]

theorem outside_of_syncRest (h : syncRest others t = syncRest others s) : outsideSync t = outsideSync s := congrArg Prod.fst h

theorem getReg_of_syncRest (h : syncRest others t = syncRest others s) {g : Nat} (hg : OuterReg g) : getReg t g = getReg s g :=
  congrFun (congrArg (fun x => x.2.1) h) ⟨g, hg⟩

theorem objOf_of_syncRest (h : syncRest others t = syncRest others s) {k : Nat} (hk : others k) : objOf t k = objOf s k :=
  congrFun (congrArg (fun x => x.2.2) h) ⟨k, hk⟩

/-! ### Each update of the state that an operation is made of -/

theorem objOf_of_sync (h : t.sync = s.sync) (k : Nat) : objOf t k = objOf s k := by rw [objOf, objOf, h]

theorem syncRest_setF (st : Stall) {o : Nat} (ho : o < 0x20) (lo len v : Nat) :
    syncRest others (setF s (synReg st o) lo len v) = syncRest others s :=
  syncRest_eq (outsideSync_setF ..) (fun _ hg => getReg_setF_other s _ _ lo len v (hg st o ho))
    (fun k _ => objOf_of_sync (setF_sync ..) k)

theorem syncRest_satF (st : Stall) {o : Nat} (ho : o < 0x20) (lo len n : Nat) :
    syncRest others (satF s (synReg st o) lo len n) = syncRest others s := syncRest_setF st ho lo len _

theorem syncRest_emit (src : BitVec 16) (c a b : Nat) : syncRest others (emit s src c a b) = syncRest others s :=
  syncRest_eq (outsideSync_emit ..) (fun _ _ => rfl) (fun _ _ => rfl)

/-- Tokens on their way, refused waits and the times of their records are no objects. -/
theorem syncRest_onSync (f : SyncSt → SyncSt) (h : (f s.sync).objs = s.sync.objs) : syncRest others (onSync s f) = syncRest others s :=
  syncRest_eq (outsideSync_onSync ..) (fun _ _ => rfl) (fun k _ => by rw [objOf, objOf, onSync_sync, h])

theorem syncRest_putObj {k : Nat} (hk : ¬others k) (o : SyncObj) : syncRest others (putObj s k o) = syncRest others s :=
  syncRest_eq (outsideSync_onSync ..) (fun _ _ => rfl) (fun _ hj => objOf_putObj_other s _ _ o fun e => hk (e ▸ hj))

theorem syncRest_wakeAgent (w : Wake) : syncRest others (wakeAgent s w) = syncRest others s := syncRest_onSync _ rfl

theorem syncRest_wakeAll (l : List (Waiter × BitVec 32)) : syncRest others (wakeAll s l) = syncRest others s := syncRest_onSync _ rfl

/-! ### Refusals (11 R340, R344, R350) -/

theorem syncRest_syncFail (a : Agent) (ret : Bool) (src : BitVec 16) (r : Sref) (status : Nat) (v : BitVec 32) :
    syncRest others (syncFail s a ret src r status v) = syncRest others s :=
  ite_keeps (syncRest others) _ (syncRest_wakeAgent _) (syncRest_emit _ _ _ _)

theorem syncRest_countRef (src : BitVec 16) : syncRest others (countRef s src) = syncRest others s := by
  unfold countRef
  dsimp only
  split
  · exact syncRest_satF _ (by decide) _ _ _
  · rfl

theorem syncRest_countRefusal (st : Stall) (r : Sref) (n : BitVec 32) (status : Nat) :
    syncRest others (countRefusal s st r n status) = syncRest others s := by
  have hcount (lo : Nat) : syncRest others (satF s (synReg st 0x18) lo 16 1) = syncRest others s := syncRest_satF st (by decide) lo 16 1
  unfold countRefusal
  split
  · exact (syncRest_emit _ _ _ _).trans (hcount 0)
  · exact hcount 16
  · exact hcount 32
  · exact hcount 32
  · rfl

/-- A refused wait is counted, recorded once in a while, and held in its agent. -/
theorem syncRest_refuseWait (st : Stall) (a : Agent) (kind : WaitKind) (r : Sref) (n : BitVec 32) :
    syncRest others (refuseWait s st a kind r n) = syncRest others s := by
  have hcount : syncRest others (satF s (synReg st 8) 32 32 1) = syncRest others s := syncRest_satF st (by decide) 32 32 1
  unfold refuseWait
  dsimp only
  split
  · refine (syncRest_wakeAgent _).trans (ite_keeps (syncRest others) _ ?_ hcount)
    exact (syncRest_onSync _ rfl).trans ((syncRest_emit _ _ _ _).trans hcount)
  · refine (syncRest_onSync _ rfl).trans (ite_keeps (syncRest others) _ ?_ hcount)
    exact (syncRest_onSync _ rfl).trans ((syncRest_emit _ _ _ _).trans hcount)

/-! ### The operation (11 R330–R341, R350) -/

/-- An operation leaves all but the object that its reference names. -/
theorem syncRest_syncCore {r : Sref} (hothers : ∀ k, findObj s r = .ok k → ¬others k) (a : Agent) (ret : Bool) (src : BitVec 16)
    (op : SyncOp) (n : BitVec 32) : syncRest others (syncCore s a ret src op r n) = syncRest others s := by
  unfold syncCore
  dsimp only
  split
  · exact (syncRest_syncFail _ _ _ _ _ _).trans (ite_keeps (syncRest others) _ (syncRest_countRef _) (syncRest_emit _ _ _ _))
  · next k hk =>
    have hput (x : SyncObj) (l : List (Waiter × BitVec 32)) : syncRest others (wakeAll (putObj s k x) l) = syncRest others s :=
      (syncRest_wakeAll l).trans (syncRest_putObj (hothers k hk) x)
    have hmost (x : SyncObj) (l : List (Waiter × BitVec 32)) (c : Prop) [Decidable c] (v : Nat) :
        syncRest others (if c then setF (wakeAll (putObj s k x) l) (synReg (keyObjStall k) 8) 16 11 v else wakeAll (putObj s k x) l)
          = syncRest others s :=
      ite_keeps (syncRest others) c ((syncRest_setF _ (by decide) _ _ _).trans (hput x l)) (hput x l)
    split
    · split
      · exact (syncRest_wakeAgent _).trans ((syncRest_satF _ (by decide) _ _ _).trans (hmost ..))
      · exact (syncRest_satF _ (by decide) _ _ _).trans (hmost ..)
    · split
      · exact (syncRest_refuseWait ..).trans (hmost ..)
      · exact (syncRest_syncFail ..).trans ((syncRest_countRefusal ..).trans (hmost ..))

end

/-- The commands of the nine operations each send their operation. -/
theorem exec_syncOperation (s : State) (a : Agent) (r : Sref) (n : BitVec 32) (i : Instr)
    (h : i = .signal a r ∨ i = .arrive a r ∨ i = .arriveWait a r ∨ i = .add a r n ∨ i = .sub a r n ∨ i = .fetchAdd a r n
      ∨ i = .waitGe a r n ∨ i = .take a r n ∨ i = .read a r) : ∃ op m, exec i s = finish s (syncOp s a op r m) := by
  rcases h with rfl | rfl | rfl | rfl | rfl | rfl | rfl | rfl | rfl
  · exact ⟨.signal, 0, rfl⟩
  · exact ⟨.arrive, 0, rfl⟩
  · exact ⟨.arriveWait, 0, rfl⟩
  · exact ⟨.add, n, rfl⟩
  · exact ⟨.sub, n, rfl⟩
  · exact ⟨.fetchAdd, n, rfl⟩
  · exact ⟨.waitGe, n, rfl⟩
  · exact ⟨.take, n, rfl⟩
  · exact ⟨.read, 0, rfl⟩

/-- The end of a command that leaves the state outside synchronization leaves the queue and the clock too. -/
theorem outsideSync_ended {s u : State} (h : outsideSync u = outsideSync s) : outsideSync (ended s u) = outsideSync s := by
  have hcap (t : State) : outsideSync (capEvents t) = outsideSync t := by
    unfold capEvents
    split <;> rfl
  calc outsideSync (ended s u) = { outsideSync u with pending := s.pending, time := s.time } := hcap _
    _ = { outsideSync s with pending := s.pending, time := s.time } := by rw [h]
    _ = outsideSync s := rfl

theorem syncRest_finish {others : Nat → Prop} {s u t : State} (h : syncRest others u = syncRest others s) (hx : finish s u = .next t) :
    syncRest others t = syncRest others s := by
  cases hx
  have hend : syncRest others (if poweredUp s then u else s) = syncRest others s := ite_keeps (syncRest others) _ h rfl
  refine syncRest_eq (outsideSync_ended (outside_of_syncRest hend)) (fun g hg => ?_) (fun k hk => ?_)
  · exact (getReg_ended s _ g).trans (getReg_of_syncRest hend hg)
  · exact (objOf_of_sync (ended_sync s _) k).trans (objOf_of_syncRest hend hk)

/-- Settles O28: each of the nine commands is its operation, which leaves `syncRest` of the other objects. -/
theorem syncOperationsFrame : Obligations.SyncOperationsFrame := by
  intro s t a r n i hi hx
  obtain ⟨op, m, hexec⟩ := exec_syncOperation s a r n i hi
  rw [hexec] at hx
  have hcore : syncRest (fun k => findObj s r ≠ .ok k) (syncOp s a op r m) = syncRest (fun k => findObj s r ≠ .ok k) s :=
    syncRest_syncCore (fun k hk hother => hother hk) a (hasRet a) (agentSource s a) op m
  have hrest := syncRest_finish hcore hx
  have same {β : Type} (field : State → β) : field (outsideSync t) = field (outsideSync s) :=
    congrArg field (outside_of_syncRest hrest)
  exact ⟨fun q => same (fun u => readByte u q), same State.poison, same State.tags, same State.yard, same State.seqs, same State.claimers,
    same State.stats, same State.upd, same State.barrows, same State.homes, same State.fab, same State.groom, same State.power,
    same State.svc, same State.sec, same State.outbox, same State.pending, fun k hk => objOf_of_syncRest hrest hk,
    fun g hg => getReg_of_syncRest hrest hg⟩

end Sys2Proof.Machine
end

section
/-! SUPPORT. The statement of the operations' commands (11 R329–R350): the nine operations on gates and tallies, WAITER_WAKE and
WAIT_RETRY. -/

namespace Sys2Proof.Machine

/-! ### An operation's command (11 R331, R341) -/

section
variable {s : State} {a : Agent} {op : SyncOp} {r : Sref} {n : BitVec 32} {k : Nat} {o : SyncObj} {l : List (Waiter × BitVec 32)}

theorem finish_syncOp_unanswered (hon : poweredUp s = true) (hobj : findObj s r = .ok k)
    (hop : applyOp (objOf s k) a op n (ovfRoom s k) = { obj := o, releases := l }) :
    finish s (syncOp s a op r n) = .next (ended s (syncEnd s k o l)) := by
  rw [finish_on s _ hon, syncOp_unanswered hobj hop]

theorem finish_syncOp_answered {v : BitVec 32} (hon : poweredUp s = true) (hobj : findObj s r = .ok k)
    (hop : applyOp (objOf s k) a op n (ovfRoom s k) = { obj := o, reply := some v, releases := l }) :
    finish s (syncOp s a op r n) = .next (ended s (wakeAgent (syncEnd s k o l) { agent := a, result := v })) := by
  rw [finish_on s _ hon, syncOp_answered hobj hop]

/-- A SUB below 0 changes no object; it is counted, recorded and refused (11 R337, R344, R350). -/
theorem syncOp_sub_short (hobj : findObj s r = .ok k) (hkind : (objOf s k).kind = .tally) (hless : (objOf s k).value.toNat < n.toNat)
    (hret : hasRet a = true)
    (hmost : ovfUsed (putObj s k (objOf s k)) (keyObjStall k) ≤ getF s (synReg (keyObjStall k) 8) 16 11) :
    syncOp s a .sub r n = wakeAgent (emit (satF (wakeAll (putObj s k (objOf s k)) []) (synReg (keyObjStall k) 0x18) 0 16 1)
      (srcStall (keyObjStall k) 0x3F) 0x0482 r.toNat n.toNat) { agent := a, status := 0x0403 } := by
  have hkeeps : ¬getF (wakeAll (putObj s k (objOf s k)) []) (synReg (keyObjStall k) 8) 16 11
      < ovfUsed (wakeAll (putObj s k (objOf s k)) []) (keyObjStall k) := Nat.not_lt.mpr hmost
  simp only [syncOp, syncCore, hobj, applyOp_sub_short hkind hless, if_neg hkeeps, hret, syncFail, if_true]
  rfl

end

/-! ### The oldest release reaches its agent (11 R330, R341) -/

section
variable {s : State} {w : Wake} {rest : List Wake}

/-- The tokens on their way without the oldest. -/
def wakesLeft (s : State) (rest : List Wake) : State := onSync s (fun y => { y with wakes := rest })

theorem exec_waiterWake_on (hon : poweredUp s = true) (hwakes : s.sync.wakes = w :: rest) :
    exec .waiterWake s = .next (ended s (agentWoken (wakesLeft s rest) w)) := by
  have hwake : waiterWake s = agentWoken (wakesLeft s rest) w := by
    simp only [waiterWake, hwakes, wakesLeft]
  exact hwake ▸ finish_on s (waiterWake s) hon

theorem agentWoken_engine {e : Fin 16} (hagent : w.agent = .engine e) : agentWoken s w = send s (.reply w.agent w.status w.result) := by
  rw [agentWoken, hagent]

theorem agentWoken_seq {r : Region} {i : Fin 3} (hagent : w.agent = .seq r i) : agentWoken s w = seqWoken s r i w.status.toNat := by
  rw [agentWoken, hagent]

theorem agentWoken_barrow {b : BrwId} (hagent : w.agent = .barrow b) : agentWoken s w = barrowWoken s b false w.status.toNat := by
  rw [agentWoken, hagent]

/-- A live sequencer's first wait is met. -/
theorem seqWoken_first {r : Region} (hlive : seqLive (seqOf s r) = true) :
    seqWoken s r 0 0 = putSeq s r { seqOf s r with metA := true } := by
  simp only [seqWoken, hlive, Bool.not_true, Bool.false_eq_true, ne_eq, not_true_eq_false, if_false]

/-- A descriptor whose wait has been met. -/
def jobMet (j : BrwJob) : BrwJob := { j with waitMet := true, failed := 0 }

/-- The wait of the descriptor under way in a barrow's queue is met: its cycles are counted, and it may move. -/
theorem barrowWoken_met {b : BrwId} {j : BrwJob} (hjob : (brwOf s b).job = some j) (hqueue : imageOf j = false)
    (hwaits : j.waitMet = false) :
    barrowWoken s b false 0 = showJob (updBrw (satF s (brwBase b + 0x50) 0 48 (brwCycles s b (s.time - j.waitSince))) b
      (fun x => updAgentJob x false (fun _ => jobMet j))) b (jobMet j) := by
  have hfound : ((some j).toList ++ (brwOf s b).preempted.toList).find? (fun j => imageOf j == false && !j.waitMet) = some j := by
    rw [Option.toList_some, List.singleton_append, List.find?_cons_of_pos (by rw [hqueue, hwaits]; rfl)]
  simp only [barrowWoken, hjob, hfound, ne_eq, not_true_eq_false, if_false]
  rfl

end

/-! ### The refused wait held longest is repeated (11 R340) -/

section
variable {s : State} {w : Retry} {rest : List Retry}

/-- The refused waits without the one held longest. -/
def retriesLeft (s : State) (rest : List Retry) : State := onSync s (fun y => { y with retries := rest })

/-- The operation that a refused wait repeats. -/
def retryOp : WaitKind → SyncOp
  | .gate => .arriveWait
  | .ge => .waitGe
  | .take => .take

theorem exec_waitRetry_on (hon : poweredUp s = true) (hretries : s.sync.retries = w :: rest) :
    exec .waitRetry s = .next (ended s (syncOp (retriesLeft s rest) w.agent (retryOp w.kind) w.sref w.n)) := by
  refine (finish_on s _ hon).trans ?_
  simp only [hretries, retriesLeft]
  cases w.kind <;> rfl

end

/-- Settles O25: the operations by what each makes of its object, WAITER_WAKE by the agent that it reaches, WAIT_RETRY as the operation that
it repeats. That SYN_OPS does not count a refused SUB is log entry 74's. -/
theorem syncOperationsComplete : Obligations.SyncOperationsComplete := by
  refine ⟨?_, ?_, ?_, ?_, ?_⟩
  · intro s a r k hon hobj hkind o p rel gen
    refine ⟨fun hmore => ?_, fun hlast => ?_, fun hlatch hown hovf hmore => ?_, fun hlatch hopen => ?_, ?_⟩
    · have hcount : countArrival (objOf s k) = (p, []) := countArrival_incomplete hmore
      exact ⟨finish_syncOp_unanswered hon hobj ((applyOp_arrive hkind).trans (by rw [hcount])),
        finish_syncOp_unanswered hon hobj ((applyOp_signal_gate hkind).trans (by rw [hcount]))⟩
    · have hcount : countArrival (objOf s k) = (rel, (waiters o).map (fun w => (w, gen))) := countArrival_last hlast
      exact ⟨finish_syncOp_unanswered hon hobj ((applyOp_arrive hkind).trans (by rw [hcount])),
        finish_syncOp_unanswered hon hobj ((applyOp_signal_gate hkind).trans (by rw [hcount]))⟩
    · exact finish_syncOp_unanswered hon hobj (applyOp_arriveWait_incomplete hkind hlatch hown hovf hmore)
    · exact finish_syncOp_answered hon hobj (applyOp_arriveWait_open hkind hlatch hopen)
    · exact finish_syncOp_answered hon hobj (applyOp_read_gate hkind)
  · intro s a r n k hon hobj hkind o up one down
    refine ⟨fun hsum => ?_, fun hsum => ⟨?_, ?_⟩, fun henough => ⟨?_, ?_, fun hfirst => ?_⟩, fun hless hown hovf => ⟨?_, ?_⟩, ?_⟩
    · exact finish_syncOp_unanswered hon hobj (applyOp_signal_tally hkind hsum)
    · exact finish_syncOp_unanswered hon hobj (applyOp_add hkind hsum)
    · exact finish_syncOp_answered hon hobj (applyOp_fetchAdd hkind hsum)
    · exact finish_syncOp_unanswered hon hobj (applyOp_sub hkind henough)
    · exact finish_syncOp_answered hon hobj (applyOp_waitGe_met hkind henough)
    · exact finish_syncOp_answered hon hobj (applyOp_take_met hkind henough hfirst)
    · exact finish_syncOp_unanswered hon hobj (applyOp_waitGe_waits hkind hless hown hovf)
    · exact finish_syncOp_unanswered hon hobj (applyOp_take_waits hkind hless hown hovf)
    · exact finish_syncOp_answered hon hobj (applyOp_read_tally hkind)
  · intro s a r n k hon hobj hret st hkind hless hmost
    rw [← syncOp_sub_short hobj hkind hless hret hmost]
    exact finish_on s _ hon
  · intro s w rest hon hwakes u
    have hexec {v : State} (hwoken : agentWoken u w = v) : exec .waiterWake s = .next (ended s v) :=
      hwoken ▸ exec_waiterWake_on hon hwakes
    refine ⟨hexec rfl, fun e hagent => hexec (agentWoken_engine hagent), ?_, ?_⟩
    · intro r hagent hstatus hlive
      have hmet : seqWoken u r 0 0 = putSeq u r { seqOf s r with metA := true } := seqWoken_first hlive
      exact hexec ((agentWoken_seq hagent).trans (hstatus.symm ▸ hmet))
    · intro b j hagent hstatus hjob hqueue hwaits j'
      have hmet := barrowWoken_met (s := u) hjob hqueue hwaits
      exact hexec ((agentWoken_barrow hagent).trans (hstatus.symm ▸ hmet))
  · intro s w rest hon hretries u
    have hexec {op : SyncOp} {v : State} (hkind : retryOp w.kind = op) (hop : syncOp u w.agent op w.sref w.n = v) :
        exec .waitRetry s = .next (ended s v) := by
      subst hkind hop
      exact exec_waitRetry_on hon hretries
    refine ⟨hexec rfl rfl, ?_⟩
    intro k hobj hkind henough o
    refine ⟨fun hge => ?_, fun htake hfirst => ?_⟩
    · exact hexec (hge ▸ rfl) (syncOp_answered (s := u) hobj (applyOp_waitGe_met hkind henough))
    · exact hexec (htake ▸ rfl) (syncOp_answered (s := u) hobj (applyOp_take_met hkind henough hfirst))

end Sys2Proof.Machine
end

section
/-! SUPPORT. The statement of the TASK and SYNC commands (11 R328, R345, R346, R348; 13 R407). -/

namespace Sys2Proof.Machine

/-! ### The commands end as their bodies leave the slot begun (13 R400, R404) -/

section
variable {s : State} {k : MbSlot}

theorem exec_taskCreate_ready (h : CommandReady s k 0x0301 (fun l => l == 0)) :
    exec (.taskCreate k) s = .next (settled s (taskCreate (mbBegin s k) k (mbOf s k))) := finish_exactly s k _ 0 taskCreate h

theorem exec_taskStart_ready (h : CommandReady s k 0x0302 (fun l => l == 2)) :
    exec (.taskStart k) s = .next (settled s (taskStart (mbBegin s k) k (mbOf s k))) := finish_exactly s k _ 2 taskStart h

theorem exec_taskEnd_ready (h : CommandReady s k 0x0303 (fun l => l == 2)) :
    exec (.taskEnd k) s = .next (settled s (taskEnd (mbBegin s k) k (mbOf s k))) := finish_exactly s k _ 2 taskEnd h

theorem exec_taskDestroy_ready (h : CommandReady s k 0x0304 (fun l => l == 2)) :
    exec (.taskDestroy k) s = .next (settled s (taskDestroy (mbBegin s k) k (mbOf s k))) := finish_exactly s k _ 2 taskDestroy h

theorem exec_syncConfig_ready (h : CommandReady s k 0x0601 (fun l => l == 12)) :
    exec (.syncConfig k) s = .next (settled s (syncConfig (mbBegin s k) k (mbOf s k))) := finish_exactly s k _ 12 syncConfig h

theorem exec_syncFree_ready (h : CommandReady s k 0x0602 (fun l => l == 3)) :
    exec (.syncFree k) s = .next (settled s (syncFree (mbBegin s k) k (mbOf s k))) := finish_exactly s k _ 3 syncFree h

theorem exec_syncSet_ready (h : CommandReady s k 0x0603 (fun l => l == 8)) :
    exec (.syncSet k) s = .next (settled s (syncSet (mbBegin s k) k (mbOf s k))) := finish_exactly s k _ 8 syncSet h

end

/-! ### TASK (11 R345, R346) -/

section
variable {s : State} {k : MbSlot} {m : MbSt}

/-- The task that a TASK command names. -/
def namedTask (m : MbSt) : BitVec 16 := BitVec.ofNat 16 (mbArg m 0 2)

theorem onTask_known (h : taskExists s (mbArg m 0 2) = true) (f : BitVec 16 → State) : onTask s k m f = f (namedTask m) := if_pos h

theorem onTask_unknown (h : taskExists s (mbArg m 0 2) = false) (f : BitVec 16 → State) : onTask s k m f = mbFail s k 0x0904 :=
  if_neg (h ▸ Bool.false_ne_true)

theorem taskCreate_free {t : BitVec 16}
    (h : freeTask (pick s 0xFFFF).2 ((pick s 0xFFFF).2.sync.tasks.length + 1) (pick s 0xFFFF).1 = some t) :
    taskCreate s k m = mbOk (onSync (pick s 0xFFFF).2 (fun y => { y with tasks := y.tasks ++ [t] })) k [(2, t.toNat)] := by
  simp only [taskCreate, h]

/-- What was recorded of a task's objects at its start and since. -/
def taskRecords (s : State) (t : BitVec 16) : List ObjRecord :=
  ((s.sync.started.find? (fun e => e.1 == t)).map Prod.snd).getD []

/-- A task none of whose objects differs from its record leaves a closing event alone. -/
theorem taskEnd_clean (h : taskExists s (mbArg m 0 2) = true)
    (hclean : ∀ x ∈ taskRecords s (namedTask m), residueOf s (namedTask m) x = none) :
    taskEnd s k m = mbOk (onSync (emit s (srcGroom s) 0x0484 (namedTask m).toNat 0)
      (fun y => { y with started := y.started.filter (fun e => e.1 != namedTask m) })) k [(4, 0)] := by
  have hnone : (taskRecords s (namedTask m)).filterMap (fun x => (residueOf s (namedTask m) x).map (fun v => (x.sref, v))) = [] :=
    List.filterMap_eq_nil_iff.mpr fun x hx => by rw [hclean x hx, Option.map_none]
  unfold taskRecords at hnone
  simp only [taskEnd, onTask_known h, hnone]
  rfl

end

/-! ### SYNC (11 R328, R348) -/

section
variable {s : State} {k : MbSlot} {m : MbSt} {key : Nat}

/-- The object that a SYNC command names. -/
def namedObj (m : MbSt) : Sref := BitVec.ofNat 24 (mbArg m 0 3)

/-- The task that a command is for. -/
def ownTask (m : MbSt) : BitVec 16 := BitVec.ofNat 16 (mbTask m)

theorem ownTask_toNat (m : MbSt) : (ownTask m).toNat = mbTask m := Nat.mod_eq_of_lt (field_lt _ 48 16)

section
variable (hobj : findObj s (namedObj m) = .ok key) (hown : (objOf s key).kind = .free ∨ (objOf s key).task = ownTask m)
include hobj hown

/-- A free object, or one of the command's task, is changed, if it is as quiet as the command needs it. -/
theorem onObject_admits {quiet : Bool} (hquiet : quiet = true → waiters (objOf s key) = []) (f : State → Sref → Nat → SyncObj → State) :
    onObject s k m quiet f = f s (namedObj m) key (objOf s key) := by
  have hadmitted : ¬((objOf s key).kind ≠ .free ∧ (objOf s key).task.toNat ≠ mbTask m) := by
    rintro ⟨hused, hother⟩
    rcases hown with hfree | htask
    · exact hused hfree
    · rw [htask, ownTask_toNat] at hother
      exact hother rfl
  have hready : ¬(quiet = true ∧ waiters (objOf s key) ≠ []) := fun ⟨hq, hsome⟩ => hsome (hquiet hq)
  unfold namedObj at hobj
  simp only [onObject, hobj, if_neg hadmitted, if_neg hready]
  rfl

/-- A tally is configured with its value, whatever its two flags say. -/
theorem syncConfig_tally (hquiet : waiters (objOf s key) = []) (hkind : mbArg m 3 1 = 2) (hflags : mbArg m 4 1 < 2) :
    let o : SyncObj := { kind := .tally, task := ownTask m, value := BitVec.ofNat 32 (mbArg m 8 4), init := BitVec.ofNat 32 (mbArg m 8 4) }
    syncConfig s k m = mbOk (noteConfig (putObj s key o) (namedObj m) (some (ownTask m)) o) k [] := by
  have hlegal : ¬(4 ≤ mbArg m 4 1 ∨ mbArg m 4 1 = 2) := by omega
  simp only [syncConfig, onObject_admits hobj hown (fun _ => hquiet), hkind, if_neg hlegal]
  rfl

/-- A latched gate that is closed is configured with its count. -/
theorem syncConfig_latched (hquiet : waiters (objOf s key) = []) (hkind : mbArg m 3 1 = 1) (hflags : mbArg m 4 1 = 1)
    (hcount : mbArg m 6 2 ≠ 0) :
    let o : SyncObj := { kind := .gate, latch := true, open0 := false, count := BitVec.ofNat 16 (mbArg m 6 2), task := ownTask m, isOpen := false }
    syncConfig s k m = mbOk (noteConfig (putObj s key o) (namedObj m) (some (ownTask m)) o) k [] := by
  simp only [syncConfig, onObject_admits hobj hown (fun _ => hquiet), hkind, hflags, if_neg (mt And.right hcount)]
  rfl

theorem syncFree_frees (hquiet : waiters (objOf s key) = []) (hused : (objOf s key).kind ≠ .free) :
    syncFree s k m = mbOk (noteConfig (putObj s key {}) (namedObj m) none {}) k [] := by
  simp only [syncFree, onObject_admits hobj hown (fun _ => hquiet), if_neg hused]

/-- A value set by hand that removes no waiter is recorded with the value. -/
theorem syncSet_value {p : SyncObj} {rel : List (Waiter × BitVec 32)} (haction : mbArg m 3 1 = 0)
    (hset : setByHand (objOf s key) 0 (mbArg m 4 4) = .ok (p, rel, [])) :
    syncSet s k m = mbOk (emitManual (wakeAll (putObj s key { p with manual := true }) rel) (srcGroom s) 0x0485 (namedObj m).toNat
      (mbArg m 4 4)) k [(8, objStateWord (objOf s key))] := by
  simp only [syncSet, haction, onObject_admits (quiet := false) hobj hown (fun h => nomatch h), hset]
  rfl

end

end

/-- Settles O41, command by command. That a TASK-DESTROY leaves the task's objects, and that action 0 of SYNC-SET is a tally's value, are
log entry 76's. -/
theorem taskAndSyncCommandsComplete : Obligations.TaskAndSyncCommandsComplete := by
  refine ⟨?_, ?_⟩
  · intro s k b m t
    refine ⟨fun n hready hfree => ?_, fun hknown => ⟨fun hready => ?_, fun hready hclean => ?_, fun hready => ?_⟩, fun hunknown hready => ?_⟩
    · rw [exec_taskCreate_ready hready, taskCreate_free hfree]
    · rw [exec_taskStart_ready hready, taskStart, onTask_known hknown]
      rfl
    · rw [exec_taskEnd_ready hready, taskEnd_clean hknown hclean]
      rfl
    · rw [exec_taskDestroy_ready hready, taskDestroy, onTask_known hknown]
      rfl
    · rw [exec_taskDestroy_ready hready, taskDestroy, onTask_unknown hunknown]
  · intro s k b m r t key hobj hown
    refine ⟨fun hready hquiet hkind hflags => ?_, fun hready hquiet hkind hflags hcount => ?_, fun hready hquiet hused => ?_,
      fun p rel hready haction hset => ?_⟩
    · rw [exec_syncConfig_ready hready, syncConfig_tally hobj hown hquiet hkind hflags]
      rfl
    · rw [exec_syncConfig_ready hready, syncConfig_latched hobj hown hquiet hkind hflags hcount]
      rfl
    · rw [exec_syncFree_ready hready, syncFree_frees hobj hown hquiet hused]
      rfl
    · rw [exec_syncSet_ready hready, syncSet_value hobj hown haction hset]
      rfl

end Sys2Proof.Machine
end

section
/-! SUPPORT. The statements of the step and of the queue: how a command ends, with power and without (13 R400, R401, R403; 14 R416,
R420). -/

namespace Sys2Proof.Machine

/-! ### How a command ends (13 R401; 14 R416) -/

/-- A command of any part but the always-on island ends as such a part does. -/
theorem exec_eq_finish {c : Instr} (h : actsOnAlwaysOn c = false) (s : State) : ∃ u, exec c s = finish s u := by
  cases c with
  | perstAssert | perstRelease | powerFail | overVoltage | inputRestart | brownOut | coldStart | wakeTimer | padRelease
  | dynamicAddressAssignment | mctpControl | pldmRequest | wake | retain | moduleReset | identifyLed => cases h
  | _ => exact ⟨_, rfl⟩

/-- A command of the always-on island ends with its effect, whether the other parts have power or not. -/
theorem exec_eq_finishAon {c : Instr} (h : actsOnAlwaysOn c = true) (s : State) : ∃ u, exec c s = finishAon s u := by
  cases c with
  | perstAssert | perstRelease | powerFail | overVoltage | inputRestart | brownOut | coldStart | wakeTimer | padRelease
  | dynamicAddressAssignment | mctpControl | pldmRequest | wake | retain | moduleReset | identifyLed => exact ⟨_, rfl⟩
  | _ => cases h

/-- A command of a part with power ends as its effect leaves the state. -/
theorem finish_of_eq {s u v : State} (hon : poweredUp s = true) (h : u = v) : finish s u = .next (ended s v) := h ▸ finish_on s u hon

/-- What every command's end keeps: the commands that wait, the clock, and the bound of the event queue. -/
theorem exec_next (c : Instr) (s : State) :
    ∃ t, exec c s = .next t ∧ t.pending = s.pending ∧ t.time = s.time ∧ QueueBounded t := by
  cases hc : actsOnAlwaysOn c with
  | false =>
    obtain ⟨u, hu⟩ := exec_eq_finish hc s
    exact hu ▸ finish_next s u
  | true =>
    obtain ⟨u, hu⟩ := exec_eq_finishAon hc s
    exact hu ▸ finishAon_next s u

/-! ### Steps (13 R400) -/

theorem step_tick {s : State} (h : s.pending = []) : step s = .next (tick s) := by
  rw [step, h]

theorem step_front {s : State} {c : Instr} {rest : List Instr} (h : s.pending = c :: rest) :
    step s = exec c { s with pending := rest } := by
  rw [step, h]

/-- A step with a command in front leaves the rest waiting, at the same clock. -/
theorem step_next_of_front {s : State} {c : Instr} {rest : List Instr} (h : s.pending = c :: rest) :
    ∃ t, step s = .next t ∧ t.pending = rest ∧ t.time = s.time ∧ QueueBounded t := by
  rw [step_front h]
  exact exec_next c _

theorem step_keeps_queueBounded {s t : State} (hs : QueueBounded s) (h : step s = .next t) : QueueBounded t := by
  cases hp : s.pending with
  | nil =>
    rw [step_tick hp] at h
    cases h
    exact hs
  | cons c rest =>
    obtain ⟨u, hu, -, -, hbound⟩ := step_next_of_front hp
    cases hu.symm.trans h
    exact hbound

/-- Settles O56, by the two branches of `step`. The queue and the tick are the model's (log entries 1 and 2). -/
theorem stepRunsTheFront : Obligations.StepRunsTheFront :=
  ⟨fun _ _ _ => step_front rfl, fun _ h => step_tick h⟩

/-- Settles O57: every command ends by `finish` or `finishAon`, which cap the queue of records. That a command in every state ends
in a next state with the queue and clock of log entries 1 and 2 is log entry 4's. -/
theorem everyStepKeepsTheQueues : Obligations.EveryStepKeepsTheQueues := by
  refine ⟨fun c s => ?_, fun s t hs h => step_keeps_queueBounded hs h⟩
  obtain ⟨t, ht, hpending, htime, hbound⟩ := exec_next c s
  exact ⟨t, ht, hpending, htime, fun _ => hbound⟩

/-- A run goes on from the state that its first step leads to. -/
theorem run_of_step_next {s u : State} (n : Nat) (h : step s = .next u) :
    Host.Core.run Sys2Proof.core (n + 1) s = Host.Core.run Sys2Proof.core n u := by
  have hcore : Sys2Proof.core.step s = .next u := h
  simp only [Host.Core.run, hcore]

/-- Steps, as many as commands wait, serve them all at the same clock. -/
theorem run_drains (n : Nat) : ∀ s : State, s.pending.length = n →
    ∃ t, Host.Core.run Sys2Proof.core n s = .next t ∧ t.pending = [] ∧ t.time = s.time ∧ (QueueBounded s → QueueBounded t) := by
  induction n with
  | zero => exact fun s h => ⟨s, rfl, List.eq_nil_of_length_eq_zero h, rfl, id⟩
  | succ n ih =>
    intro s h
    obtain ⟨c, rest, hp⟩ := List.exists_cons_of_length_eq_add_one h
    obtain ⟨u, hu, hrest, htime, hbound⟩ := step_next_of_front hp
    have hlen : u.pending.length = n := by
      rw [hp, List.length_cons] at h
      rw [hrest]
      omega
    obtain ⟨t, ht, hempty, htime', hbound'⟩ := ih u hlen
    refine ⟨t, ?_, hempty, htime'.trans htime, fun _ => hbound' hbound⟩
    rw [run_of_step_next n hu]
    exact ht

/-- Settles O58, by induction on the number of commands that wait (the queue and its clock are log entries 1 and 2). -/
theorem waitingCommandsDrain : Obligations.WaitingCommandsDrain := fun s => run_drains _ s rfl

/-- Settles O59: a part without power ends as the state began (log entry 4), and a queue within its bound is not cut. -/
theorem nothingActsWithoutPower : Obligations.NothingActsWithoutPower := by
  intro c s hoff hbound hc
  obtain ⟨u, hu⟩ := exec_eq_finish hc s
  rw [hu, finish_off s u hoff, ended_self s hbound]

end Sys2Proof.Machine
end

section
/-! SUPPORT. The statements of the mailbox: a slot's return, the refusals made whatever a command's arguments, and what the commands
that only answer leave alone (13 R400, R401, R404–R407). -/

namespace Sys2Proof.Machine

/-! ### The slot's return (13 R401, R404) -/

theorem field_eq_div_mod (w lo len : Nat) : field w lo len = w / 2 ^ lo % 2 ^ len := by
  rw [field, Nat.shiftRight_eq_div_pow]

/-- The result word holds its three fields of 16 bits side by side. -/
theorem resultWord_fields {status len wh : Nat} (hstatus : status < 2 ^ 16) (hlen : len < 2 ^ 16) (hwh : wh < 2 ^ 16) :
    field (BitVec.ofNat 64 (status + len * 2 ^ 16 + wh * 2 ^ 32)).toNat 0 16 = status
    ∧ field (BitVec.ofNat 64 (status + len * 2 ^ 16 + wh * 2 ^ 32)).toNat 16 16 = len
    ∧ field (BitVec.ofNat 64 (status + len * 2 ^ 16 + wh * 2 ^ 32)).toNat 32 16 = wh := by
  have hword : (BitVec.ofNat 64 (status + len * 2 ^ 16 + wh * 2 ^ 32)).toNat = status + len * 2 ^ 16 + wh * 2 ^ 32 := by
    rw [BitVec.toNat_ofNat]
    exact Nat.mod_eq_of_lt (by omega)
  rw [hword]
  simp only [field_eq_div_mod]
  omega

/-- Settles O37: the slot holds what `completedSlot` makes of it, and a completion changes the mailbox alone. -/
theorem completionReturnsTheSlot : Obligations.CompletionReturnsTheSlot := by
  intro s k status wh fields t fs hlen
  have hslot : mbOf t k = completedSlot (mbOf s k) status fields wh := mbOf_mbComplete_same s k status fields wh
  obtain ⟨hstatus, hresults, hplace⟩ :=
    resultWord_fields (Nat.mod_lt status (Nat.two_pow_pos 16)) hlen (Nat.mod_lt wh (Nat.two_pow_pos 16))
  rw [hslot]
  exact ⟨hstatus, hresults, hplace, rfl, rfl, rfl, fun j hj => mbOf_mbComplete_other s k j status fields wh hj,
    mbComplete_only s k status fields wh⟩

/-! ### A command that is ready (13 R400) -/

/-- A command that is ready ends as its body leaves the slot begun. -/
theorem finish_runCommand_of_eq {s u : State} {k : MbSlot} {code : Nat} {len : MbSt → Nat → Bool} {body : State → MbSlot → MbSt → State}
    (h : CommandReady s k code (len (mbOf s k))) (hbody : body (mbBegin s k) k (mbOf s k) = u) :
    finish s (runCommand s k code len body) = .next (settled s u) := by
  rw [finish_runCommand s k code len body h, hbody, settled]

/-! ### Refusals whatever the arguments (13 R404–R406) -/

section
variable {s : State} {k : MbSlot} {code : Nat} {len : MbSt → Nat → Bool} {body : State → MbSlot → MbSt → State}
variable (hon : poweredUp s = true) (hhead : mbHead s = some k) (hcode : mbCode (mbOf s k) = code)
include hon hhead hcode

/-- A command that its gate refuses ends with the gate's status alone. -/
theorem finish_runCommand_refused (hgate : mbGate s (mbOf s k) ≠ 0) :
    finish s (runCommand s k code len body) = .next (settled s (mbFail (mbBegin s k) k (mbGate s (mbOf s k)))) := by
  have hrefused : mbGate (mbBegin s k) (mbOf s k) ≠ 0 := hgate
  rw [finish_on s _ hon, runCommand, if_pos ⟨hhead, hcode⟩]
  dsimp only
  rw [if_pos hrefused]
  rfl

/-- A command of another length than its own ends with status 0x0902 alone. -/
theorem finish_runCommand_badLength (hgate : mbGate s (mbOf s k) = 0) (hlen : len (mbOf s k) (mbLen (mbOf s k)) = false) :
    finish s (runCommand s k code len body) = .next (settled s (mbFail (mbBegin s k) k 0x0902)) := by
  have hadmitted : ¬mbGate s (mbOf s k) ≠ 0 := not_not_intro hgate
  have hshort : (!len (mbOf s k) (mbLen (mbOf s k))) = true := by rw [hlen]; rfl
  rw [finish_on s _ hon, runCommand, if_pos ⟨hhead, hcode⟩]
  simp only [mbGate_mbBegin, if_neg hadmitted, if_pos hshort]
  rfl

end

theorem exactly_ne {n l : Nat} (h : l ≠ n) (m : MbSt) : exactly n m l = false := beq_false_of_ne h

/-- Settles O38: the commands named are `runCommand` with their code and length. -/
theorem refusedCommandsDoNothing : Obligations.RefusedCommandsDoNothing := by
  intro s k hon hhead
  refine ⟨?_, fun hgate => ⟨fun hcode hlen => ?_, fun hcode hlen => ?_⟩⟩
  · rintro st rfl hrefused
    exact ⟨fun hcode => finish_runCommand_refused hon hhead hcode hrefused,
      fun hcode => finish_runCommand_refused hon hhead hcode hrefused,
      fun hcode => finish_runCommand_refused hon hhead hcode hrefused,
      fun hcode => finish_runCommand_refused hon hhead hcode hrefused⟩
  · exact finish_runCommand_badLength hon hhead hcode hgate (exactly_ne hlen _)
  · exact finish_runCommand_badLength hon hhead hcode hgate (exactly_ne hlen _)

/-! ### Commands that only answer (13 R407) -/

/-- A command whose body changes the mailbox alone changes the mailbox alone. -/
theorem runCommand_only {s : State} {k : MbSlot} {code : Nat} {len : MbSt → Nat → Bool} {body : State → MbSlot → MbSt → State}
    (hbody : ∀ u m, OnlyMailbox u (body u k m)) : OnlyMailbox s (runCommand s k code len body) := by
  unfold runCommand
  split
  · refine OnlyMailbox_trans (mbBegin_only s k) (OnlyMailbox_trans ?_ (settlePosted_only _))
    split
    · exact mbFail_only _ k _
    · split
      · exact mbFail_only _ k _
      · exact hbody _ _
  · exact OnlyMailbox_refl s

/-- The end of a command adds nothing to that, in a state within the event queue's bound. -/
theorem finish_only {s u t : State} (hbound : QueueBounded s) (hu : OnlyMailbox s u) (h : finish s u = .next t) : OnlyMailbox s t := by
  have hended : ∀ v, OnlyMailbox s v → OnlyMailbox s (ended s v) := by
    rintro v ⟨⟨regs, slots, posted, pba, journal, out, hv⟩, hregs⟩
    have hqueue : v.host.evq.length ≤ 4096 := hv ▸ hbound
    rw [ended_short s v hqueue]
    exact ⟨⟨regs, slots, posted, pba, journal, out, by rw [hv]⟩, hregs⟩
  unfold finish finishAon at h
  cases h
  split
  · exact hended u hu
  · exact hended s (OnlyMailbox_refl s)

theorem distance_only (s : State) (k : MbSlot) (m : MbSt) : OnlyMailbox s (distance s k m) := by
  unfold distance
  dsimp only
  split
  · exact mbComplete_only s k _ _ _
  · split
    · exact mbComplete_only s k _ _ _
    · exact mbComplete_only s k _ _ _

theorem bistResults_only (s : State) (k : MbSlot) (m : MbSt) : OnlyMailbox s (bistResults s k m) := by
  unfold bistResults
  dsimp only
  split
  · exact mbComplete_only s k _ _ _
  · exact mbComplete_only s k _ _ _

theorem eventRead_only (s : State) (k : MbSlot) (m : MbSt) : OnlyMailbox s (eventRead s k m) := by
  unfold eventRead
  dsimp only
  split
  · exact mbComplete_only s k _ _ _
  · exact mbComplete_only s k _ _ _

/-- Settles O39: each of the five completes its slot and does nothing else. -/
theorem answeringCommandsFrame : Obligations.AnsweringCommandsFrame := by
  intro s t k i hi hbound hx
  rcases hi with rfl | rfl | rfl | rfl | rfl
  · exact finish_only hbound (runCommand_only fun u _ => mbComplete_only u k _ _ _) hx
  · exact finish_only hbound (runCommand_only fun u _ => mbComplete_only u k _ _ _) hx
  · exact finish_only hbound (runCommand_only fun u m => distance_only u k m) hx
  · exact finish_only hbound (runCommand_only fun u m => bistResults_only u k m) hx
  · exact finish_only hbound (runCommand_only fun u m => eventRead_only u k m) hx

end Sys2Proof.Machine
end

section
/-! SUPPORT. The statements of the host port and of the groom pair: the control window and the data window, the post and the cancel of
slots, the link and its resets (13 R389–R399, R411; 15 R449, R450), heartbeats, takeover and reload (13 R408, R409). -/

namespace Sys2Proof.Machine

/-! ### Writes of the control window (13 R392, R393) -/

section
variable {s : State} {off : Nat} {data : List Byte}
variable (hout : s.host.inReset = false) (hdata : data ≠ [])
include hout hdata

/-- Out of reset a write with data is served by the part that it falls in. -/
theorem controlWrite_admitted : ¬(s.host.inReset = true ∨ data = []) := by
  rw [hout]
  rintro (h | h)
  · cases h
  · exact hdata h

/-- Bytes behind the owner word of a slot that the host owns are stored. -/
theorem controlWrite_free_slot {k : MbSlot} {o : Nat} (hpart : cwPart off = .slot k o) (hlo : 8 ≤ o) (hhi : o + data.length ≤ 0x1000)
    (hfree : mbOwned (mbOf s k) = false) : controlWrite s off data = updMb s k (fun m => putSlotBytes m o data) := by
  simp only [controlWrite, if_neg (controlWrite_admitted hout hdata), hpart, slotWrite, if_neg (Nat.not_lt.mpr hhi),
    if_neg (Nat.not_lt.mpr hlo), hfree, Bool.false_eq_true, if_false]

/-- A write of a slot that the groom owns is recorded. -/
theorem controlWrite_owned_slot {k : MbSlot} {o : Nat} (hpart : cwPart off = .slot k o) (hlo : 8 ≤ o) (hhi : o + data.length ≤ 0x1000)
    (howned : mbOwned (mbOf s k) = true) : controlWrite s off data = accessOwned s off data.length := by
  simp only [controlWrite, if_neg (controlWrite_admitted hout hdata), hpart, slotWrite, if_neg (Nat.not_lt.mpr hhi),
    if_neg (Nat.not_lt.mpr hlo), howned, if_true]

theorem controlWrite_reserved (hpart : cwPart off = .reserved) : controlWrite s off data = accessOnce s off data.length true := by
  simp only [controlWrite, if_neg (controlWrite_admitted hout hdata), hpart]

theorem controlWrite_msix {o : Nat} (hpart : cwPart off = .msix o) (hsize : wordSized off data.length = true) :
    controlWrite s off data = msixWrite s o data := by
  simp only [controlWrite, if_neg (controlWrite_admitted hout hdata), hpart, hsize, if_true]

end

/-! ### Reads of the data window (13 R394) -/

/-- The state in which a read of the data window waits for its answer. -/
def readPending (s : State) (off a : Nat) : State :=
  onHost s (fun h => { h with pendingReads := h.pendingReads ++ [(BitVec.ofNat 36 off, BitVec.ofNat 48 a)] })

/-- The access that a read of the data window makes of its module's memory. -/
def hostReadOf (a size : Nat) : Access := { agent := .host, addr := BitVec.ofNat 48 a, write := false, size := size }

section
variable {s : State} {off size : Nat}

/-- An open window maps inside the address space. -/
theorem dwinAddr_lt (h : dwinClosed s off size = false) : dwinAddr s off < 2 ^ 48 := by
  have hend : ¬2 ^ 48 < dwinAddr s off + max size 1 := of_decide_eq_false (Bool.or_eq_false_iff.mp h).2
  omega

section
variable (hout : s.host.inReset = false)
include hout

theorem dataRead_closed (hclosed : dwinClosed s off size = true) :
    dataRead s off size = send (accessEvent s off size false) (.completion .unsupported false []) := by
  simp only [dataRead, hout, hclosed, Bool.false_eq_true, if_false, if_true]

variable (hopen : dwinClosed s off size = false) (hrange : inHostRange (dwinAddr s off) = false) (hown : dwinModule s off = ownModule s)
include hopen hrange hown

theorem dataRead_register (hreg : regSpace ≤ dwinAddr s off) :
    dataRead s off size
      = send (registerRead s (dwinAddr s off) size).2 (.completion .success false (registerRead s (dwinAddr s off) size).1) := by
  simp only [dataRead, hout, hopen, hrange, hown, if_pos hreg, Bool.false_eq_true, if_false, if_true]

theorem dataRead_memory (hmem : dwinAddr s off < regSpace) :
    dataRead s off size = memoryAccess (readPending s off (dwinAddr s off)) (hostReadOf (dwinAddr s off) size) := by
  simp only [dataRead, hout, hopen, hrange, hown, if_neg (Nat.not_le.mpr hmem), Bool.false_eq_true, if_false, if_true]
  rfl

end

end

/-- A read that finds no poisoned line leaves the state. -/
theorem readPoison_clean {v : State} {x : Access} (h : ∀ q ∈ pieces x.addr.toNat x.size, (readPiece v q.1 q.2).2 = false) :
    readPoison v x = v := by
  unfold readPoison each
  refine List.foldlRecOn (motive := (· = v)) _ _ rfl ?_
  rintro u rfl q hq
  rw [if_pos (by rw [h q hq]; rfl)]

/-- The host's read that waits gets its bytes, and waits no more. -/
theorem answerRead_host_success {v : State} {x : Access} {e : BitVec 36 × Addr} (poison : Bool) (d : List Byte) (hx : x.agent = .host)
    (hfind : v.host.pendingReads.find? (fun e => e.2 == x.addr) = some e) :
    answerRead v x 0 poison d = send (onHost v (fun h => { h with pendingReads := h.pendingReads.erase e })) (.completion .success poison d) := by
  have hany : v.host.pendingReads.any (fun e => e.2 == x.addr) = true :=
    List.any_eq_true.mpr ⟨e, List.mem_of_find?_eq_some hfind, List.find?_some (p := fun e : BitVec 36 × Addr => e.2 == x.addr) hfind⟩
  simp only [answerRead, hx, hany, if_true, hostReadDone, hfind]

/-- A read of the host that is admitted, of clean lines, ends with their bytes. -/
theorem memoryAccess_hostRead {w v : State} {a size : Nat} {e : BitVec 36 × Addr} (ha : a < regSpace) (hwait : rangeWaits w a size = false)
    (hcode : rangeCode w a size = 0) (hv : touchRange w a size = v) (hclean : ∀ q ∈ pieces a size, (readPiece v q.1 q.2).2 = false)
    (hfind : v.host.pendingReads.find? (fun e => e.2 == BitVec.ofNat 48 a) = some e) :
    memoryAccess w (hostReadOf a size) = send (onHost v (fun h => { h with pendingReads := h.pendingReads.erase e }))
      (.completion .success (poisonRange v a size) (readRange v a size)) := by
  have haddr : (hostReadOf a size).addr.toNat = a := by
    have hreg : regSpace < 2 ^ 48 := by decide
    exact Nat.mod_eq_of_lt (Nat.lt_trans ha hreg)
  have hsize : (hostReadOf a size).size = size := rfl
  have hpoison : readPoison v (hostReadOf a size) = v := readPoison_clean (by rw [haddr]; exact hclean)
  rw [memoryAccess_read_admitted w (hostReadOf a size) (haddr.symm ▸ ha) rfl (haddr.symm ▸ hwait) (haddr.symm ▸ hcode) rfl rfl, haddr, hsize, hv,
    hpoison]
  exact answerRead_host_success _ _ rfl hfind

/-- A read that is late is aborted with its event. -/
theorem dataReadTimeout_pending {s : State} {off : BitVec 36} {e : BitVec 36 × Addr}
    (h : s.host.pendingReads.find? (fun e => e.1 == off) = some e) :
    dataReadTimeout s off = send (emit (satF (onHomes (onHost s (fun h => { h with pendingReads := h.pendingReads.erase e }))
      (fun h => { h with held := h.held.filter (fun x => !(x.agent == .host && !x.write && x.addr == e.2)) })) (shedReg 0 0x200010) 0 32 1)
      (srcShed 0 0x30) 0x0982 off.toNat e.2.toNat) (.completion .abort false []) := by
  simp only [dataReadTimeout, h]

/-! ### Writes of the data window (13 R395) -/

/-- The access that a posted write of the data window makes. -/
def hostWriteOf (a : Nat) (data : List Byte) : Access :=
  { agent := .host, addr := BitVec.ofNat 48 a, write := true, size := data.length, data := data }

section
variable {s : State} {off : Nat} {data : List Byte}
variable (hout : s.host.inReset = false)
include hout

theorem dataWrite_closed (hclosed : dwinClosed s off data.length = true) :
    dataWrite s off data false = accessEvent s off data.length true := by
  simp only [dataWrite, hout, Bool.false_eq_true, if_false, if_pos (Or.inl hclosed)]

theorem dataWrite_posted (hopen : dwinClosed s off data.length = false) (hrange : inHostRange (dwinAddr s off) = false)
    (hw : bitOf (dwin s (off / 2 ^ 32)) 1 = true) :
    dataWrite s off data false = postHostWrite s (dwinModule s off) (hostWriteOf (dwinAddr s off) data) := by
  simp only [dataWrite, hout, hopen, hrange, hw, Bool.not_true, Bool.false_eq_true, or_self, if_false]
  rfl

end

/-- A write that nothing holds up, posted with none before it, is performed at once. -/
theorem postHostWrite_lands {s : State} {a : Nat} {data : List Byte} (hnone : s.host.heldWrites = []) (ha : a < regSpace)
    (hwait : rangeWaits s a data.length = false) (hmove : ∀ q ∈ pieces a data.length, nameMoving s q.1 = false)
    (hcode : writeRangeCode s .host a data.length = 0) :
    postHostWrite s (ownModule s) (hostWriteOf a data) = writeRange (countRmw s a data.length) a data false := by
  have haddr : (hostWriteOf a data).addr.toNat = a := by
    have hreg : regSpace < 2 ^ 48 := by decide
    exact Nat.mod_eq_of_lt (Nat.lt_trans ha hreg)
  have hstill : rangeMoving s a data.length = false := by
    rw [rangeMoving, List.any_eq_false]
    exact fun q hq => by rw [hmove q hq]; exact Bool.false_ne_true
  let u := onHost s (fun h => { h with heldWrites := h.heldWrites ++ [(ownModule s, hostWriteOf a data)] })
  have hheld : u.host.heldWrites = [(ownModule s, hostWriteOf a data)] := by
    change s.host.heldWrites ++ _ = _
    rw [hnone]
    rfl
  have hgoes : hostWriteWaits u (ownModule s) (hostWriteOf a data) = false := by
    rw [hostWriteWaits, haddr]
    change (_ && (rangeWaits s a data.length || rangeMoving s a data.length)) = false
    rw [hwait, hstill]
    exact Bool.and_false _
  have hback : onHost u (fun h => { h with heldWrites := [] }) = s := by
    change { s with host := { s.host with heldWrites := [] } } = s
    rw [← hnone]
  have hlanded : memoryAccess s (hostWriteOf a data) = writeRange (countRmw s a data.length) a data false := by
    have hdata : (hostWriteOf a data).data = data := rfl
    rw [memoryAccess_write s (hostWriteOf a data) (haddr.symm ▸ ha) rfl (haddr.symm ▸ hwait) (haddr.symm ▸ hmove),
      landWrite_admitted s (hostWriteOf a data) (haddr.symm ▸ hcode) (fun _ _ h => nomatch h), haddr, hdata]
    rfl
  calc postHostWrite s (ownModule s) (hostWriteOf a data) = releaseHost u.host.heldWrites.length u := rfl
    _ = hostWriteTo (onHost u (fun h => { h with heldWrites := [] })) (ownModule s) (hostWriteOf a data) := by
      rw [hheld, List.length_singleton, releaseHost, hheld]
      dsimp only
      rw [if_neg (by rw [hgoes]; exact Bool.false_ne_true)]
      rfl
    _ = memoryAccess s (hostWriteOf a data) := by rw [hback, hostWriteTo, if_pos rfl]
    _ = writeRange (countRmw s a data.length) a data false := hlanded

/-! ### Posts and cancels (13 R399) -/

section
variable {s : State} {k : MbSlot} {w : Word}

theorem postWake_no_entry (h : s.power.entry = none) : postWake s k = s := by
  rw [postWake, h]

theorem OnlyMailbox.power {t : State} (h : OnlyMailbox s t) : t.power = s.power := by
  obtain ⟨⟨regs, slots, posted, pba, journal, out, rfl⟩, -⟩ := h
  rfl

/-- The owner word as the module keeps it. -/
theorem ownerWord_masked (w : Word) : BitVec.ofNat 64 (w.toNat &&& 0xFF03) = w &&& 0xFF03 := by
  apply BitVec.eq_of_toNat_eq
  rw [BitVec.toNat_and, BitVec.toNat_ofNat]
  exact Nat.mod_eq_of_lt (Nat.lt_of_le_of_lt Nat.and_le_left w.isLt)

theorem mailboxPost_only (s : State) (k : MbSlot) (w : Nat) : OnlyMailbox s (mailboxPost s k w) := by
  unfold mailboxPost
  dsimp only
  split
  · split
    · exact OnlyMailbox_trans (posted_only s (fun l => l.filter (fun j => j != k)))
        (OnlyMailbox_trans (mbFail_only _ k _) (OnlyMailbox_trans (mbstat_only _ 16 16 1) (settlePosted_only _)))
    · exact OnlyMailbox_refl s
  · have hput := putMb_only s k { mbOf s k with owner := BitVec.ofNat 64 (w &&& 0xFF03) }
    split
    · exact hput
    · split
      · exact OnlyMailbox_trans hput (OnlyMailbox_trans (mbFail_only _ k _) (mbstat_only _ 16 16 1))
      · exact OnlyMailbox_trans hput (OnlyMailbox_trans (posted_only _ (fun l => l ++ [k])) (settlePosted_only _))

/-- Out of reset and with no entry under way, the write of an owner word is the post alone. -/
theorem exec_mailboxPost_on (hon : poweredUp s = true) (hout : s.host.inReset = false) (hentry : s.power.entry = none) :
    exec (.mailboxPost k w) s = .next (ended s (mailboxPost s k w.toNat)) := by
  have hstill : postWake (mailboxPost s k w.toNat) k = mailboxPost s k w.toNat :=
    postWake_no_entry ((mailboxPost_only s k w.toNat).power ▸ hentry)
  have hpost : ownerWrite s k w.toNat = mailboxPost s k w.toNat := by
    simp only [ownerWrite, hout, Bool.false_eq_true, if_false, when, hstill, ite_self]
  calc exec (.mailboxPost k w) s = .next (ended s (ownerWrite s k w.toNat)) := finish_on s _ hon
    _ = _ := by rw [hpost]

/-- The state in which a slot's owner word is written. -/
def ownerWritten (s : State) (k : MbSlot) (w : Word) : State := putMb s k { mbOf s k with owner := w &&& 0xFF03 }

theorem mailboxPost_free (hfree : mbOwned (mbOf s k) = false) :
    mailboxPost s k w.toNat = if !bitOf w.toNat 0 then ownerWritten s k w
      else if bitOf w.toNat 1 then satF (mbFail (ownerWritten s k w) k 0x0905) (shedReg 0 0x200018) 16 16 1
      else settlePosted (onHost (ownerWritten s k w) (fun h => { h with posted := h.posted ++ [k] })) := by
  simp only [mailboxPost, hfree, Bool.false_eq_true, if_false, ownerWord_masked]
  rfl

theorem mailboxPost_cancels (howned : mbOwned (mbOf s k) = true) (hcancel : bitOf w.toNat 1 = true) (hwaits : mbBegun (mbOf s k) = false)
    (hposted : k ∈ s.host.posted) :
    mailboxPost s k w.toNat = settlePosted (satF (mbFail (onHost s (fun h =>
      { h with posted := h.posted.filter (fun j => j != k) })) k 0x0905) (shedReg 0 0x200018) 16 16 1) := by
  have hin : s.host.posted.contains k = true := List.contains_iff_mem.mpr hposted
  simp only [mailboxPost, howned, hcancel, hwaits, hin, Bool.not_false, and_self, if_true]

end

/-- Settles O32, window by window. The masks of the owner word are log entry 93's, and what is discarded is log entry 85's. -/
theorem hostWindowsComplete : Obligations.HostWindowsComplete := by
  refine ⟨⟨?_, ?_, ?_, ?_⟩, ?_⟩
  · intro s off data hon hout hdata
    exact ⟨fun k o hpart hlo hhi =>
        ⟨fun hfree => finish_of_eq hon (controlWrite_free_slot hout hdata hpart hlo hhi hfree),
          fun howned => finish_of_eq hon (controlWrite_owned_slot hout hdata hpart hlo hhi howned)⟩,
      fun hpart => finish_of_eq hon (controlWrite_reserved hout hdata hpart),
      fun o hpart hsize => finish_of_eq hon (controlWrite_msix hout hdata hpart hsize)⟩
  · intro s off size hon hout
    refine ⟨fun hclosed => finish_of_eq hon (dataRead_closed hout hclosed),
      fun hopen hrange hown hreg => finish_of_eq hon (dataRead_register hout hopen hrange hown hreg),
      fun hopen hrange hown hmem => finish_of_eq hon (dataRead_memory hout hopen hrange hown hmem),
      fun hopen hrange hown hmem hwait hcode hclean e hfind => finish_of_eq hon ?_⟩
    exact (dataRead_memory hout hopen hrange hown hmem).trans (memoryAccess_hostRead hmem hwait hcode rfl hclean hfind)
  · intro s off data hon hout
    refine ⟨fun hclosed => finish_of_eq hon (dataWrite_closed hout hclosed),
      fun hopen hrange hw => finish_of_eq hon (dataWrite_posted hout hopen hrange hw),
      fun hopen hrange hw hown hmem hnone hwait hmove hcode => finish_of_eq hon ?_⟩
    rw [dataWrite_posted hout hopen hrange hw, hown, postHostWrite_lands hnone hmem hwait hmove hcode]
  · intro s off e hon hfind
    exact finish_of_eq hon (dataReadTimeout_pending hfind)
  · intro s k w hon hout hentry
    refine ⟨fun hfree hown hkeep => ?_, fun hfree hown hcancel => ?_, fun hfree hback => ?_, fun howned hcancel hwaits hposted => ?_⟩
    · rw [exec_mailboxPost_on hon hout hentry, mailboxPost_free hfree, hown, hkeep]
      rfl
    · rw [exec_mailboxPost_on hon hout hentry, mailboxPost_free hfree, hown, hcancel]
      rfl
    · rw [exec_mailboxPost_on hon hout hentry, mailboxPost_free hfree, hback]
      rfl
    · rw [exec_mailboxPost_on hon hout hentry, mailboxPost_cancels howned hcancel hwaits hposted]
      rfl

/-! ### The host link (13 R389, R402) -/

section
variable {s : State} {width gen : Nat} {flit : Bool}

theorem linkWord_regs (s : State) (width gen : Nat) : (linkWord s width gen).2.regs = s.regs := by
  unfold linkWord
  dsimp only
  split
  · rfl
  · rfl

/-- What HIF_LINK shows does not depend on the free bit's draw. -/
theorem link_differs {v : Nat} (h : (getReg s (shedReg 0 0x200000)).toNat ≠ v) :
    ((getReg (linkWord s width gen).2 (shedReg 0 0x200000)).toNat != v) = true := by
  rw [getReg_of_regs s _ _ (linkWord_regs s width gen)]
  exact bne_iff_ne.mpr h

theorem hostLinkChange_down (h : (getReg s (shedReg 0 0x200000)).toNat ≠ (linkWord s width gen).1 + (flag flit) <<< 8) :
    hostLinkChange s width gen flit false = raiseVector (emit (setReg (linkWord s width gen).2 (shedReg 0 0x200000)
      (BitVec.ofNat 64 ((linkWord s width gen).1 + (flag flit) <<< 8))) (srcShed 0 0x30) 0x0983 (linkWord s width gen).1 0) 61 := by
  have hdown : (flag false) <<< 9 = 0 := rfl
  simp only [hostLinkChange, Bool.false_eq_true, and_false, if_false, hdown, Nat.add_zero, link_differs h, when, if_true]

theorem hostLinkChange_up (hout : s.host.inReset = false)
    (h : (getReg s (shedReg 0 0x200000)).toNat ≠ (linkWord s width gen).1 + (flag flit) <<< 8 + 1 <<< 9) :
    hostLinkChange s width gen flit true = raiseVector (emit (onHost (setF (setReg (linkWord s width gen).2 (shedReg 0 0x200000)
      (BitVec.ofNat 64 ((linkWord s width gen).1 + (flag flit) <<< 8 + 1 <<< 9))) (shedReg 0 0x300010) 2 1 0)
      (fun h => { h with cfgReady := true })) (srcShed 0 0x30) 0x0983 (linkWord s width gen).1 0) 61 := by
  have hup : flag true = 1 := rfl
  simp only [hostLinkChange, hout, Bool.false_eq_true, false_and, if_false, hup, link_differs h, when, if_true]

end

/-- Settles O33, for a link that is down and one that comes up. A change alone is recorded (log entry 90), and the bit that width and
generation share is log entry 84's. -/
theorem hostLinkChangeRecorded : Obligations.HostLinkChangeRecorded := by
  intro s width gen flit hon
  exact ⟨fun hchange => finish_of_eq hon (hostLinkChange_down hchange),
    fun hout hchange => finish_of_eq hon (hostLinkChange_up hout hchange)⟩

/-! ### Resets and errors of the link (13 R390, R411; 15 R449, R450) -/

/-- A command of the always-on island ends as its effect leaves the state. -/
theorem finishAon_of_eq {s u v : State} (h : u = v) : finishAon s u = .next (ended s v) := h ▸ rfl

/-- Settles O34, pin by pin. That a reset by PERST# is recorded with argument 1 is log entry 91's. -/
theorem hostResetsComplete : Obligations.HostResetsComplete := by
  refine ⟨fun s hon hout => ?_, fun s hhigh => ?_, fun s hlow => ?_, fun s ty rq hon hout => ?_⟩
  · have hadmitted : ¬s.host.inReset = true := Bool.eq_false_iff.mp hout
    exact ⟨finish_of_eq hon (if_neg hadmitted), finish_of_eq hon (if_neg hadmitted)⟩
  · have hpower : poweredUp (onPower s (fun p => { p with perst := true })) = poweredUp s := rfl
    refine ⟨fun hoff => finishAon_of_eq ?_, fun hon => finishAon_of_eq ?_⟩
    · simp only [hhigh, hpower, hoff, Bool.false_eq_true, if_false, Bool.not_false, if_true]
    · simp only [hhigh, hpower, hon, Bool.false_eq_true, if_false, Bool.not_true]
  · refine ⟨fun hon hawake hwake => finishAon_of_eq ?_, fun hoff hcause => finishAon_of_eq ?_, fun hoff hcause => finishAon_of_eq ?_⟩
    · simp only [hlow, onPower_power, hon, Bool.not_true, Bool.false_eq_true, if_false, when, decide_eq_true hawake, if_true, hwake]
    · simp only [hlow, onPower_power, hoff, hcause, Bool.not_true, Bool.not_false, Bool.false_eq_true, if_false, if_true]
    · simp only [hlow, onPower_power, hoff, if_neg hcause, Bool.not_true, Bool.not_false, Bool.false_eq_true, if_false, if_true]
  · have hadmitted : ¬s.host.inReset = true := Bool.eq_false_iff.mp hout
    exact ⟨finish_of_eq hon (if_neg hadmitted), finish_of_eq hon (if_neg hadmitted)⟩

/-! ### The groom pair (13 R408, R409) -/

section
variable {s : State} {b : Bool}

/-- A mismatch takes the active groom out; a takeover is due when the other is the standby. -/
theorem lockstepMismatch_active (h : groomState s b = .active) :
    lockstepMismatch s b
      = onGroom (setGroom s b .out) (fun g => { g with takeover := groomState s (!b) == .standby }) := by
  rw [lockstepMismatch, h]
  cases b with
  | false => rfl
  | true =>
    have hother : (s.groom.a == GroomState.standby || GroomState.out == GroomState.standby) = (s.groom.a == GroomState.standby) :=
      Bool.or_false _
    simp only [setGroom, groomState, onGroom, if_true, Bool.not_true, Bool.false_eq_true, if_false, hother]

theorem lockstepMismatch_standby (h : groomState s b = .standby) : lockstepMismatch s b = standbyFails s b := by
  rw [lockstepMismatch, h]

/-- Groom B takes over from a groom A that a mismatch took out. -/
theorem groomTakeover_due (hb : s.groom.b = .standby) (ha : s.groom.a = .out) (hdue : s.groom.takeover = true) :
    groomTakeover s = settlePosted (raiseVector (emit (onGroom (onSec s (fun x => { x with runSince := s.time }))
      (fun g => { g with b := .active, takeover := false })) 0x407F 0x0985 0 (begunAgain s)) 62) := by
  have hout : groomState s (!true) = .out := ha
  simp only [groomTakeover, if_pos hb, takeOver, hout, when, hdue, if_true]
  rfl

/-- Groom B, out, is reloaded as the standby, or fails. -/
theorem standbyReload_b (hlive : groomLive s = true) (hb : s.groom.b = .out) (ok : Bool) :
    standbyReload s ok = if ok then setGroom s true .standby else standbyFails s true := by
  simp only [standbyReload, hlive, Bool.not_true, Bool.false_eq_true, if_false, if_pos hb]

end

/-- Settles O35, by the state of the groom that the command is about. What a takeover counts as begun again is log entry 100's. -/
theorem groomPairCompletes : Obligations.GroomPairCompletes :=
  ⟨fun _ hon hlive => finish_of_eq hon (if_pos hlive),
    fun _ _ hon => ⟨fun hactive => finish_of_eq hon (lockstepMismatch_active hactive),
      fun hstandby => finish_of_eq hon (lockstepMismatch_standby hstandby)⟩,
    fun _ hon hb ha hdue => finish_of_eq hon (groomTakeover_due hb ha hdue),
    fun _ ok hon hlive hb => finish_of_eq hon (standbyReload_b hlive hb ok)⟩

end Sys2Proof.Machine
end

section
/-! SUPPORT. The statements of the fabric: a port's link (12 R353–R367), the traffic of flows and packets, and its watch (12 R367–R382),
and the FABRIC commands of the mailbox (12 R365–R383; 13 R407). -/

namespace Sys2Proof.Machine

/-! ### Flits (12 R355–R357, R362) -/

section
variable {s : State} {p : Port} {f : Flit}

theorem portOf_setF (s : State) (p : Port) (a lo len v : Nat) : portOf (setF s a lo len v) p = portOf s p := rfl

theorem portOf_updPort (s : State) (p : Port) (g : PortSt → PortSt) : portOf (updPort s p g) p = g (portOf s p) := portOf_putPort s p _

/-- A port with a link takes flits. -/
theorem linked_admitted (h : portState s p = 2 ∨ portState s p = 3 ∨ portState s p = 4) :
    ¬(portState s p ≠ 2 ∧ portState s p ≠ 3 ∧ portState s p ≠ 4) := by
  omega

theorem flitReceive_bad (hlink : portState s p = 2 ∨ portState s p = 3 ∨ portState s p = 4) (hbad : f.fecOk = false) :
    flitReceive s p f = badFlit (satF s (portReg p 0x18) 0 48 f.corrected) p := by
  simp only [flitReceive, if_neg (linked_admitted hlink), hbad, Bool.not_false, true_or, if_true]

/-- An intact flit: what it acknowledges and the credits that it returns are taken, its body, in sequence, joins its channel, and the
port goes on. -/
theorem flitReceive_intact (hlink : portState s p = 2 ∨ portState s p = 3 ∨ portState s p = 4) (hok : f.fecOk = true)
    (hcrc : trField f 32 32 = trailerCrc f.body f.trailer.toNat) (hplain : trField f 22 1 = 0)
    (hack : (BitVec.ofNat 11 (trField f 11 11) - (portOf (satF s (portReg p 0x18) 0 48 f.corrected) p).acked).toNat
      ≤ (portOf (satF s (portReg p 0x18) 0 48 f.corrected) p).replay.length) :
    flitReceive s p f =
      let v := updPort (takeAck (satF s (portReg p 0x18) 0 48 f.corrected) p (BitVec.ofNat 11 (trField f 11 11))) p
        (fun x => { x with credits := mupd x.credits 0 (trField f 26 2) (· + 4 * trField f 28 4) })
      pumpPort (if trField f 0 11 = ((portOf v p).rxLast + 1).toNat then
        flitBody (putPort v p { portOf v p with rxLast := (portOf v p).rxLast + 1, nak := false }) p f else v) p := by
  have hintact : ¬((!f.fecOk) = true ∨ trField f 32 32 ≠ trailerCrc f.body f.trailer.toNat) := by
    rw [hok]
    rintro (h | h)
    · cases h
    · exact h hcrc
  have hfresh : ¬trField f 22 1 = 1 := by omega
  simp only [flitReceive, if_neg (linked_admitted hlink), if_neg hintact, if_neg (Nat.not_lt.mpr hack), if_neg hfresh]

end

/-! ### Training and lanes (12 R353, R366) -/

section
variable {s : State} {p : Port} {full slow : Bool} {lanes : List (Fin 4 × Bool)}

/-- The port with its lane map, its width and its rate, as training has found them. -/
def laneMapped (s : State) (p : Port) (lanes : List (Fin 4 × Bool)) (slow : Bool) : State :=
  setF (setF (updPort s p (fun x => { x with laneMap := if 4 ≤ lanes.length then lanes else lanes.take 2 }))
    (portReg p 0) 3 2 (if 4 ≤ lanes.length then 0 else 1)) (portReg p 0) 5 1 (flag slow)

theorem was_laneMapped : (portOf (laneMapped s p lanes slow) p).was = (portOf s p).was := by
  rw [laneMapped, portOf_setF, portOf_setF, portOf_updPort]

/-- The width code of the lanes is 0 for four of them, 1 for two. -/
theorem flag_not_decide (c : Prop) [Decidable c] : flag (!decide c) = if c then 0 else 1 := by
  by_cases hc : c
  · rw [decide_eq_true hc, if_pos hc]
    rfl
  · rw [decide_eq_false hc, if_neg hc]
    rfl

theorem retrainComplete_trained (htrain : portState s p ≤ 1) (hlanes : 2 ≤ lanes.length) :
    retrainComplete s p full lanes slow =
      if (portOf s p).was = 0 then linkUp (laneMapped s p lanes slow) p
      else sendWaiting (pumpPort (emit (replayFlits (updPort (setPortState (laneMapped s p lanes slow) p (portOf s p).was) p
        (fun x => { x with was := 0 })) p) (srcPort p) 0x0582 p.val (flag full)) p) := by
  have hadmitted : ¬(1 < portState s p ∨ lanes.length < 2) := by omega
  rw [← was_laneMapped (lanes := lanes) (slow := slow)]
  simp only [retrainComplete, if_neg hadmitted, flag_not_decide, decide_eq_true_eq]
  rfl

theorem laneFailure_first {sh : Shed} {lane : Fin 18} (hlane : lane.val < 16)
    (hfirst : ∀ e ∈ s.fab.failedLanes, e.1 ≠ sh.val * 18 + lane.val) : laneFailure s sh lane = serveLane s sh lane.val := by
  have hnew : s.fab.failedLanes.any (fun e => e.1 == sh.val * 18 + lane.val) = false :=
    List.any_eq_false.mpr fun e he => by rw [beq_false_of_ne (hfirst e he)]; exact Bool.false_ne_true
  simp only [laneFailure, if_pos hlane, hnew, Bool.false_eq_true, if_false]

end

/-! ### Discovery (12 R367) -/

section
variable {s : State} {p : Port} {r : BootRecord}

theorem bootRecordReceive_cleared (hidle : portState s p = 2) (hcleared : secretsCleared s = true) :
    bootRecordReceive s p r = identityRejected s p := by
  simp only [bootRecordReceive, hidle, hcleared, ne_eq, not_true_eq_false, if_false, Bool.not_true, Bool.false_eq_true, and_false]

/-- A record not seen before is taken when it is signed, its chain value goes back to the first, and its peer is admitted. -/
theorem bootRecordReceive_admitted (hidle : portState s p = 2) (hkeys : secretsCleared s = false) (hnew : (portOf s p).bootOk = false)
    (hsigned : Config.verifies (toBytes 68 r.pubKey.toNat) (bootMessage r) r.signature = true) (hchain : hashChain r.k r.ck = r.c0)
    (hclaim : r.claimed ≠ 0xFFFF) (hadmit : (keyHash r, r.claimed) ∈ s.fab.admission) :
    bootRecordReceive s p r = admitUp (setF (updPort s p (fun x => { x with
      bootOk := true, bootDigest := Config.digest 0 (bootMessage r ++ r.signature), chainK := r.k, chainC := r.ck }))
      (portReg p 0) 8 16 r.claimed.toNat) p := by
  have hlisted : s.fab.admission.any (fun e => e.1 == keyHash r && e.2 == r.claimed) = true :=
    List.any_eq_true.mpr ⟨_, hadmit, by simp only [beq_self_eq_true, Bool.and_self]⟩
  have hnamed : (r.claimed != 0xFFFF) = true := bne_iff_ne.mpr hclaim
  simp only [bootRecordReceive, hidle, hkeys, hnew, hsigned, hchain, hlisted, hnamed, ne_eq, not_true_eq_false, if_false, Bool.false_and,
    Bool.false_eq_true, Bool.false_or, Nat.zero_le, decide_true, Nat.sub_zero, beq_self_eq_true, Bool.and_self, Bool.not_false, and_self,
    if_true]

end

/-- Settles O29, command by command. That a port with too few lanes trains on, and a failing lane retrains it at once, is log entry
78's. -/
theorem portCommandsComplete : Obligations.PortCommandsComplete := by
  refine ⟨fun s p f hon hlink => ?_, fun s p hon hwaits => ?_, fun s p full slow lanes hon htrain hlanes => ?_, fun s p hon htrain => ?_,
    fun s sh lane hon hlane hfirst => ?_, fun s p r hon hidle => ?_⟩
  · exact ⟨fun hbad => finish_of_eq hon (flitReceive_bad hlink hbad),
      fun hok hcrc hplain hack => finish_of_eq hon (flitReceive_intact hlink hok hcrc hplain hack)⟩
  · exact finish_of_eq hon (if_neg hwaits)
  · exact ⟨fun hfirst => finish_of_eq hon ((retrainComplete_trained htrain hlanes).trans (if_pos hfirst)),
      fun hagain => finish_of_eq hon ((retrainComplete_trained htrain hlanes).trans (if_neg hagain))⟩
  · exact finish_of_eq hon (if_pos htrain)
  · exact finish_of_eq hon (laneFailure_first hlane hfirst)
  · exact ⟨fun hcleared => finish_of_eq hon (bootRecordReceive_cleared hidle hcleared),
      fun hkeys hnew hsigned hchain hclaim hadmit =>
        finish_of_eq hon (bootRecordReceive_admitted hidle hkeys hnew hsigned hchain hclaim hadmit)⟩

end Sys2Proof.Machine
end

section
/-! SUPPORT. The statement of the fabric's traffic: reductions, takeover records, packets on their way, the waits for an answer and the
watch of a shed (12 R367–R382). -/

namespace Sys2Proof.Machine

/-! ### Reductions (12 R374–R376) -/

section
variable {s : State} {flow : BitVec 16} {rstep : Byte} {first : Nat} {bales : List Bale}
variable (hflow : recBits flow 14 2 = 0)
include hflow

theorem reductionUp_own (c : Fin 7) : reductionUp s flow (.own c) rstep first bales = ownUp s flow (.own c) rstep first bales :=
  if_neg (not_not_intro hflow)

theorem reductionUp_child {u : State} {p q : Port} {n : Nat}
    (htaken : takeQueued s (fun i k => i == p && k.kind == 7 && k.tag == flow && k.rstep == rstep && k.addr.toNat == first)
      = (some (q, n), u)) :
    reductionUp s flow (.child p) rstep first bales
      = childUp u p { flow := flow, rstep := rstep, first := first, bales := bales, blocks := n } := by
  simp only [reductionUp, htaken, if_neg (not_not_intro hflow)]

/-- Sums that come down to a flow with an entry are written and sent on to its children. -/
theorem reductionDown_valid {u : State} {q : Port} {n : Nat}
    (htaken : takeQueued s (fun _ k => k.kind == 8 && k.tag == flow && k.rstep == rstep && k.addr.toNat == first) = (some (q, n), u))
    (hvalid : feValid (flowEntry (freeBlocks u q 2 n) (flowIndex (freeBlocks u q 2 n) flow)) = true) :
    reductionDown s flow rstep first bales =
      let v := freeBlocks u q 2 n
      let e := flowEntry v (flowIndex v flow)
      (feChildren e).foldl (fun s p => txPort s p { balePacket s p 8 flow (feStep e) first bales with rstep := rstep })
        (bales.zipIdx.foldl (fun s b => if b.1.pre then s else writeThrough s (redSrc e) (feDst e) (feBsz e) (first + b.2) b.1) v) := by
  have hdown : ¬(recBits flow 14 2 ≠ 0
      ∨ (!feValid (flowEntry (freeBlocks u q 2 n) (flowIndex (freeBlocks u q 2 n) flow))) = true) := by
    rw [hflow, hvalid]
    rintro (h | h)
    · exact h rfl
    · cases h
  simp only [reductionDown, htaken, if_neg hdown]

end

/-! ### A contribution of the module's own (12 R374, R375) -/

/-- An element that has taken a contribution to a bale into its window. -/
def joined (x : FlowEl) (c : Contributor) (i : Nat) (b : Bale) : FlowEl :=
  { x with seen := x.seen ++ [(i, c)], window := x.window ++ [(i, c, b)] }

section
variable {s : State} {flow : BitVec 16} {k e i : Nat} {c : Contributor} {b : Bale}
variable (hplain : b.pre = false) (hnew : (i, c) ∉ (elOf s k).seen) (hbale : i < feNb e) (hroom : i < lowest (elOf s k) e + feWin e)
include hplain hnew hbale hroom

/-- A contribution within the window, not seen before, joins it; the bale stays while contributions are missing. -/
theorem acceptBale_joins (hmore : baleDone (joined (elOf s k) c i b) e i = false) :
    acceptBale s flow k e c i b = (putEl s k (joined (elOf s k) c i b), false) := by
  unfold joined at hmore
  have hseen : (elOf s k).seen.contains (i, c) = false := by rw [List.contains_eq_mem, decide_eq_false hnew]
  simp only [acceptBale, hplain, Bool.false_eq_true, if_false, hseen, if_neg (Nat.not_le.mpr hbale), if_neg (Nat.not_le.mpr hroom), hmore]
  rfl

/-- With the last one, the bale's sum goes up to the parent, and the element is done with it. -/
theorem acceptBale_completes {t : Bale} (hdone : baleDone (joined (elOf s k) c i b) e i = true)
    (hsum : sumBales (sumOrder ((joined (elOf s k) c i b).window.filter (fun w => w.1 == i))) = some t) (hup : feRoot e = false) :
    acceptBale s flow k e c i b = (closeStep (putEl (txPort s (feParent e) (balePacket s (feParent e) 7 flow (feStep e) i [t])) k
      { joined (elOf s k) c i b with
        window := (joined (elOf s k) c i b).window.filter (fun w => w.1 != i), delivered := (joined (elOf s k) c i b).delivered + 1 }) k e,
      false) := by
  unfold joined at hdone hsum
  have hseen : (elOf s k).seen.contains (i, c) = false := by rw [List.contains_eq_mem, decide_eq_false hnew]
  simp only [acceptBale, hplain, Bool.false_eq_true, if_false, hseen, if_neg (Nat.not_le.mpr hbale), if_neg (Nat.not_le.mpr hroom), hdone,
    if_true, hsum, passOn, hup, Bool.not_false]
  rfl

end

/-- One bale that is accepted leaves none to wait. -/
theorem ownUp_one {s v : State} {flow : BitVec 16} {c : Contributor} {rstep : Byte} {i : Nat} {b : Bale}
    (hvalid : feValid (flowEntry s (flowIndex s flow)) = true) (hpart : contributes (flowEntry s (flowIndex s flow)) c = true)
    (hstep : rstep.toNat = feStep (flowEntry s (flowIndex s flow))) (hruns : (elOf s (flowIndex s flow)).halted = false)
    (hfirst : waitsBefore (elOf s (flowIndex s flow)) c = false)
    (haccept : acceptBale s flow (flowIndex s flow) (flowEntry s (flowIndex s flow)) c i b = (v, false)) :
    ownUp s flow c rstep i [b] = pumpReduction v := by
  simp only [ownUp, hvalid, hpart, hstep, hruns, hfirst, acceptAll, haccept, Bool.not_true, Bool.false_eq_true, or_self, if_false, ne_eq,
    not_true_eq_false, false_and]

/-! ### Takeover records and packets on their way (12 R359, R370, R382) -/

section
variable {s : State} {p : Port}

theorem takeoverRecord_known {x sp : ModuleId} {n : BitVec 32} (h : takeoverKey x sp n ∈ s.fab.takeovers) :
    takeoverRecord s p x sp n = s :=
  if_pos (List.contains_iff_mem.mpr h)

theorem takeoverRecord_new {x sp : ModuleId} {n : BitVec 32} (h : takeoverKey x sp n ∉ s.fab.takeovers) :
    takeoverRecord s p x sp n =
      let u := onFab s (fun f => { f with takeovers := takeoverKey x sp n :: f.takeovers })
      let v := setSheds u (0x1000000 + 8 * x.toNat) (BitVec.ofNat 64 (routeEntry u sp))
      let w := emit (setSheds v (0x1000000 + 8 * sp.toNat) 0) (srcPort p) 0x0589 x.toNat sp.toNat
      sendWaiting (floodTakeover w x sp n (some p)) :=
  if_neg (mt List.contains_iff_mem.mp h)

/-- A packet of the request or the response channel for another module is in transit, in a module that is no standby. -/
theorem packetForward_transit {k : Packet} (hrole : fabRole s ≠ 2) (hother : forUs s k = false) (hred : channelOf k.kind.toNat ≠ 2)
    (hmanage : channelOf k.kind.toNat ≠ 3) :
    packetForward s p k =
      let u := takePacket s k
      if k.hops = 15 then violation (malformedEvent u p k.kind.toNat k.smod.toNat) p
      else if !routeValid (routeEntry u k.dmod) ∨ k.dmod = 0xFFFF then fabRefusal u (portShed p) k.addr.toNat 0x0501 k.dmod
      else sendPacket u { k with hops := k.hops + 1 } := by
  have htransit : ¬(fabRole s = 2 ∨ forUs s k = true ∨ channelOf k.kind.toNat = 2 ∨ channelOf k.kind.toNat = 3) := by
    rw [hother]
    rintro (h | h | h | h)
    · exact hrole h
    · cases h
    · exact hred h
    · exact hmanage h
  exact if_neg htransit

end

/-! ### Waits for an answer (12 R370, R372) -/

/-- A packet of another module that waited for a port is refused. -/
theorem routeWaitTimeout_one {s : State} {m : ModuleId} {k : Packet} {b : Nat}
    (hone : s.fab.waiting.filter (fun e => e.1.dmod == m) = [(k, b)]) (hother : k.smod ≠ ownModule s) :
    routeWaitTimeout s m
      = fabRefusal (onFab s (fun f => { f with waiting := f.waiting.filter (fun e => e.1.dmod != m) })) 0 k.addr.toNat 0x0504 m := by
  let u := onFab s (fun f => { f with waiting := f.waiting.filter (fun e => e.1.dmod != m) })
  have hforeign : ¬(k.smod = ownModule u ∧ k.kind.toNat ≤ 3) := fun h => hother h.1
  simp only [routeWaitTimeout, hone, each, List.foldl_cons, List.foldl_nil]
  rw [if_neg hforeign]

theorem fabricTimeout_outstanding {s : State} {tag : BitVec 16} {o : Outstanding}
    (h : s.fab.outstanding.find? (fun o => o.tag == tag && (o.kind == 1 || o.kind == 3)) = some o) :
    fabricTimeout s tag = requestFailed s o 0x0503 := by
  simp only [fabricTimeout, h]

/-! ### The watch of a shed (12 R377–R379) -/

section
variable {s : State} {sh : Shed}

/-- Ports whose head waits behind a full window of a flow homed in the shed. -/
def fullPorts (s : State) (sh : Shed) : List Port := (List.finRange 16).filter (windowFull s sh)

/-- Ports with a queue that has not moved for the window of time. -/
def stalledPorts (s : State) (sh : Shed) : List Port := (List.finRange 16).filter (fun p => stalledRed s sh p || stalledTx s sh p)

variable (hwatch : getF s (pwReg sh) 8 1 = 1) (hfull : fullPorts s sh ≠ []) (hstalled : stalledPorts s sh ≠ [])
include hwatch hfull hstalled

/-- A watch that is on, with full windows and stalled ports, looks for a cycle. -/
theorem shedWatch_due : ¬(getF s (pwReg sh) 8 1 = 0 ∨ fullPorts s sh = [] ∨ stalledPorts s sh = []) := by
  rw [hwatch]
  rintro (h | h | h)
  · cases h
  · exact hfull h
  · exact hstalled h

theorem shedWatch_cycle {ps : List Port} (hcycle : (fullPorts s sh).findSome? (fun p => cycleFrom s p 16 p []) = some ps) :
    shedWatch s sh = breakCycle s sh ps := by
  have hdue := shedWatch_due hwatch hfull hstalled
  unfold fullPorts stalledPorts at *
  simp only [shedWatch, if_neg hdue, hcycle]

theorem shedWatch_slow (hnone : (fullPorts s sh).findSome? (fun p => cycleFrom s p 16 p []) = none) :
    shedWatch s sh = each (stalledPorts s sh) (fun s p => updPort s p (fun x => { x with redMoved := s.time, txMoved := s.time }))
      (emit s (srcShed sh 0x11) 0x058B ((((fullPorts s sh).filterMap (headFlow s)).getD 0 0).toNat) 0) := by
  have hdue := shedWatch_due hwatch hfull hstalled
  unfold fullPorts stalledPorts at *
  simp only [shedWatch, if_neg hdue, hnone]

end

/-- Settles O31, by what each command finds: the flow's entry and element, the record, the packet's route, the request, the ports of the
shed. The layout of a takeover record is log entry 80's, how the watch follows a cycle log entry 81's. -/
theorem fabricTrafficCompletes : Obligations.FabricTrafficCompletes := by
  refine ⟨⟨fun s p k hon => finish_of_eq hon rfl, fun s flow c rstep first bales hon hflow => finish_of_eq hon (reductionUp_own hflow c),
    fun s flow c rstep i b hon => ?_, fun s u p q n flow rstep first bales hon hflow => ?_, fun s p x sp n hon => ?_,
    fun s p k hon hrole hother hred hmanage => ?_, fun s m k b hon hone hother => ?_, fun s tag o hon hfind => ?_⟩,
    fun s sh hon hwatch hfull hstalled => ?_⟩
  · intro n e x hflow hvalid hpart hstep hruns hfirst hplain hnew hbale hroom
    refine ⟨fun hmore => finish_of_eq hon ?_, fun t hdone hsum hup => finish_of_eq hon ?_⟩
    · exact (reductionUp_own hflow c).trans (ownUp_one hvalid hpart hstep hruns hfirst (acceptBale_joins hplain hnew hbale hroom hmore))
    · exact (reductionUp_own hflow c).trans
        (ownUp_one hvalid hpart hstep hruns hfirst (acceptBale_completes hplain hnew hbale hroom hdone hsum hup))
  · exact ⟨fun htaken => finish_of_eq hon (reductionUp_child hflow htaken),
      fun htaken hvalid => finish_of_eq hon (reductionDown_valid hflow htaken hvalid)⟩
  · exact ⟨fun hknown => finish_of_eq hon (takeoverRecord_known hknown), fun hnew => finish_of_eq hon (takeoverRecord_new hnew)⟩
  · refine ⟨fun hfar => finish_of_eq hon ?_, fun hnear hroute hdest => finish_of_eq hon ?_, fun hnear hroute => finish_of_eq hon ?_⟩
    · exact (packetForward_transit hrole hother hred hmanage).trans (if_pos hfar)
    · rw [packetForward_transit hrole hother hred hmanage]
      simp only [if_neg hnear, hroute, hdest, Bool.not_true, Bool.false_eq_true, or_self, if_false]
    · rw [packetForward_transit hrole hother hred hmanage]
      simp only [if_neg hnear, hroute, Bool.not_false, true_or, if_true]
  · exact finish_of_eq hon (congrArg settleResponses (routeWaitTimeout_one hone hother))
  · exact finish_of_eq hon (congrArg settleResponses (fabricTimeout_outstanding hfind))
  · exact ⟨fun ps hcycle => finish_of_eq hon (shedWatch_cycle hwatch hfull hstalled hcycle),
      fun hnone => finish_of_eq hon (shedWatch_slow hwatch hfull hstalled hnone)⟩

end Sys2Proof.Machine
end

section
/-! SUPPORT. The statement of the FABRIC commands of the mailbox (12 R365–R383; 13 R407). -/

namespace Sys2Proof.Machine

section
variable {s : State} {k : MbSlot} {m : MbSt}

/-! ### FAB-ID and ADMIT-PEER (12 R368, R381) -/

theorem fabId_sets (hid : mbArg m 0 2 ≠ 0xFFFF) (hrole : mbArg m 4 1 ≤ 2) (hstandby : mbArg m 4 1 = 2 → mbArg m 2 2 ≠ 0xFFFF) :
    fabId s k m = mbOk (pumpAll (setFabId s (mbArg m 0 2) (mbArg m 2 2) (mbArg m 4 1))) k [] := by
  have hspare : ¬(mbArg m 4 1 = 2 ∧ mbArg m 2 2 = 0xFFFF) := fun ⟨h, hnone⟩ => hstandby h hnone
  simp only [fabId, if_neg hid, if_neg hspare, if_neg (Nat.not_lt.mpr hrole)]

/-- The entries of the admission list for other keys than the command's. -/
def otherPeers (s : State) (m : MbSt) : List (BitVec 256 × ModuleId) := s.fab.admission.filter (fun e => e.1 != BitVec.ofNat 256 (mbArg m 0 32))

theorem admitPeer_removes (haction : mbArg m 34 1 = 1) :
    admitPeer s k m = mbOk (onFab s (fun f => { f with admission := otherPeers s m })) k [] := by
  simp only [admitPeer, haction, Nat.lt_irrefl, if_false, if_true]
  rfl

theorem admitPeer_admits (haction : mbArg m 34 1 = 0) (hid : mbArg m 32 2 ≠ 0xFFFF) (hsize : mbArg m 32 2 < 2 ^ 16)
    (hroom : (otherPeers s m).length < 65535) :
    admitPeer s k m = mbOk (onFab s (fun f =>
      { f with admission := otherPeers s m ++ [(BitVec.ofNat 256 (mbArg m 0 32), BitVec.ofNat 16 (mbArg m 32 2))] })) k [] := by
  have hnamed : ¬BitVec.ofNat 16 (mbArg m 32 2) = 0xFFFF := by
    intro h
    have hnat := congrArg BitVec.toNat h
    rw [BitVec.toNat_ofNat, Nat.mod_eq_of_lt hsize] at hnat
    exact hid hnat
  unfold otherPeers at *
  simp only [admitPeer, haction, Nat.not_lt_zero, Nat.zero_ne_one, if_neg hnamed, if_neg (Nat.not_le.mpr hroom), if_false]

/-! ### ROUTE and FLOW (12 R369, R373, R374) -/

theorem route_enters (hroom : mbArg m 0 2 + mbArg m 2 2 ≤ 65536)
    (hlegal : ((List.range (mbArg m 2 2)).map (fun i => mbArg m (8 + 8 * i) 8)).findIdx? (fun e => !routeLegal e) = none) :
    route s k m = mbOk (sendWaiting (each ((List.range (mbArg m 2 2)).map (fun i => mbArg m (8 + 8 * i) 8)).zipIdx
      (fun s e => setSheds s (0x1000000 + 8 * (mbArg m 0 2 + e.2)) (BitVec.ofNat 64 e.1)) s)) k [] := by
  simp only [route, if_neg (Nat.not_lt.mpr hroom), hlegal]

theorem flow_enters (hset : mbArg m 0 1 < 16) (hregion : mbArg m 1 1 < 64) (hroom : mbArg m 2 1 + mbArg m 3 1 ≤ 256)
    (hlegal : ∀ e ∈ (List.range (mbArg m 3 1)).map (fun i => mbArg m (8 + 32 * i) 32), feValid e = true → feLegal e = true) :
    flow s k m = mbOk (each ((List.range (mbArg m 3 1)).map (fun i => mbArg m (8 + 32 * i) 32)).zipIdx
      (fun s e => putFlowEntry s (16384 * mbArg m 0 1 + 256 * mbArg m 1 1 + mbArg m 2 1 + e.2) e.1) s) k [] := by
  have hall : ((List.range (mbArg m 3 1)).map (fun i => mbArg m (8 + 32 * i) 32)).any (fun e => feValid e && !feLegal e) = false := by
    refine List.any_eq_false.mpr fun e he => ?_
    cases hv : feValid e with
    | false => exact Bool.false_ne_true
    | true =>
      rw [hlegal e he hv]
      exact Bool.false_ne_true
  simp only [flow, if_neg (Nat.not_le.mpr hset), if_neg (Nat.not_le.mpr hregion), if_neg (Nat.not_lt.mpr hroom), hall,
    Bool.false_eq_true, if_false]

/-! ### FLOW-SELECT and FLOW-FLUSH (12 R365, R379) -/

/-- A set whose reserves every shed holds is selected in the region's field. -/
theorem flowSelect_holds {r : Region} {set : Nat} (h : ∀ x : Shed, flowReserve s x (some (r.val, set)) ≤ getF s (shedReg x 0x10) 0 18) :
    flowSelect s r set = (0, setReg s (shedReg 0 (0x30 + 8 * (r.val / 16)))
      (BitVec.ofNat 64 (setBits (getReg s (shedReg 0 (0x30 + 8 * (r.val / 16)))).toNat (4 * (r.val % 16)) 4 set))) := by
  have hroom : ([0, 1, 2, 3] : List Shed).any
      (fun x => decide (getF s (shedReg x 0x10) 0 18 < flowReserve s x (some (r.val, set)))) = false :=
    List.any_eq_false.mpr fun x _ => by rw [decide_eq_false (Nat.not_lt.mpr (h x))]; exact Bool.false_ne_true
  simp only [flowSelect, hroom, Bool.false_eq_true, if_false]

theorem flowSelectCommand_legal (hregion : mbArg m 0 1 < 64) (hset : mbArg m 1 1 < 16) :
    flowSelectCommand s k m = if (flowSelect s (asRegion (mbArg m 0 1)) (mbArg m 1 1)).1 = 0
      then mbOk (flowSelect s (asRegion (mbArg m 0 1)) (mbArg m 1 1)).2 k []
      else mbFail s k (flowSelect s (asRegion (mbArg m 0 1)) (mbArg m 1 1)).1 := by
  simp only [flowSelectCommand, if_neg (Nat.not_le.mpr hregion), if_neg (Nat.not_le.mpr hset)]

theorem flowFlush_discards (h : mbArg m 0 2 < 16384) :
    flowFlush s k m = mbOk (replayStep (pumpReduction (discardFlow s (flowIndex s (BitVec.ofNat 16 (mbArg m 0 2))))) 3) k
      [(4, flowFlits s (flowIndex s (BitVec.ofNat 16 (mbArg m 0 2))))] :=
  if_neg (Nat.not_le.mpr h)

/-! ### PORT and TAKEOVER (12 R366, R380, R382) -/

theorem port_acts {p : Port} (h : mbArg m 0 1 = p.val) :
    port s k m = if mbArg m 1 1 = 0 then mbOk (enablePort s p) k [(1, portState (enablePort s p) p)]
      else if mbArg m 1 1 = 1 then mbOk (disablePort s p) k [(1, portState (disablePort s p) p)]
      else if mbArg m 1 1 = 2 then mbOk (endQuarantine s p) k [(1, portState (endQuarantine s p) p)]
      else mbIllegal s k 1 := by
  have hlt : mbArg m 0 1 < 16 := h ▸ p.isLt
  have hport : (⟨mbArg m 0 1, hlt⟩ : Port) = p := Fin.ext h
  simp only [port, dif_pos hlt, hport]

theorem takeover_takes (hid : mbArg m 0 2 ≠ 0xFFFF) (hrole : fabRole s = 2) (hdead : liveModule s (mbArg m 0 2) = false)
    (hother : ownModule s ≠ BitVec.ofNat 16 (mbArg m 0 2)) :
    takeover s k m =
      let sp := getF s (shedReg 0 0) 16 16
      let u := emit (onFab (setFabId (arraysCold s) (mbArg m 0 2) sp 1) (fun f => { f with takeoverSeq := f.takeoverSeq + 1 }))
        (srcShed 0 0x3F) 0x0589 (mbArg m 0 2) sp
      mbOk (pumpAll (floodTakeover u (BitVec.ofNat 16 (mbArg m 0 2)) (BitVec.ofNat 16 sp) u.fab.takeoverSeq none)) k [] := by
  simp only [takeover, if_neg hid, hrole, hdead, hother, ne_eq, not_true_eq_false, Bool.false_eq_true, or_self, if_false]

end

/-- Settles O46, command by command. The numbers of PORT's actions are log entry 83's, the count of FLOW-FLUSH log entry 82's, and that a
spare's arrays stand cold log entry 127's. -/
theorem fabricMailboxCommandsComplete : Obligations.FabricMailboxCommandsComplete := by
  intro s k
  refine ⟨fun hready hid hrole hstandby => finish_runCommand_of_eq hready (fabId_sets hid hrole hstandby), fun hready => ⟨?_, ?_⟩,
    fun hready hroom hlegal => finish_runCommand_of_eq hready (route_enters hroom hlegal),
    fun hready hset hregion hroom hlegal => finish_runCommand_of_eq hready (flow_enters hset hregion hroom hlegal),
    fun hready hregion hset => ⟨fun hholds => ?_, fun hdone => ?_, fun hrefused => ?_⟩,
    fun hready hflow => finish_runCommand_of_eq hready (flowFlush_discards hflow), fun p hready hport => ?_,
    fun hready hid hrole hdead hother => finish_runCommand_of_eq hready (takeover_takes hid hrole hdead hother)⟩
  · exact fun haction => finish_runCommand_of_eq hready (admitPeer_removes haction)
  · exact fun haction hid hsize hroom => finish_runCommand_of_eq hready (admitPeer_admits haction hid hsize hroom)
  · refine finish_runCommand_of_eq hready ?_
    have hregionOf : (asRegion (mbArg (mbOf s k) 0 1)).val = mbArg (mbOf s k) 0 1 := Nat.mod_eq_of_lt hregion
    rw [flowSelectCommand_legal hregion hset, flowSelect_holds (hregionOf ▸ hholds), if_pos rfl]
  · exact finish_runCommand_of_eq hready ((flowSelectCommand_legal hregion hset).trans (if_pos hdone))
  · exact finish_runCommand_of_eq hready ((flowSelectCommand_legal hregion hset).trans (if_neg hrefused))
  · refine ⟨fun h => finish_runCommand_of_eq hready ?_, fun h => finish_runCommand_of_eq hready ?_,
      fun h => finish_runCommand_of_eq hready ?_, fun h => finish_runCommand_of_eq hready ?_⟩
    · rw [port_acts hport, if_pos h]
    · rw [port_acts hport, if_neg (by omega), if_pos h]
    · rw [port_acts hport, if_neg (by omega), if_neg (by omega), if_pos h]
    · rw [port_acts hport, if_neg (by omega), if_neg (by omega), if_neg (by omega)]

end Sys2Proof.Machine
end

section
/-! SUPPORT. The statements of power and of the management bus: POWER-STATE from abort point to abort point, what a stop keeps, and the
bus's messages (14 R416, R423–R435; 15 R448–R453). -/

namespace Sys2Proof.Machine

/-! ### Moves leave the state of power alone (10 R304–R310) -/

theorem copyFrame_power (s : State) (src dst : Loc) : (copyFrame s src dst).power = s.power := by
  unfold copyFrame
  split <;> rfl

theorem keepQuota_power (s : State) (task : Nat) : (keepQuota s task).power = s.power := by
  unfold keepQuota
  split <;> rfl

theorem rehouse_power (s : State) (n : Nat) (r : HomeRec) (t f : Nat) : (rehouse s n r t f).power = s.power :=
  (keepQuota_power _ _).trans (copyFrame_power s _ _)

theorem takeFrame_power {s t : State} {tier f : Nat} {only : Option Nat} (h : takeFrame s tier only = some (f, t)) :
    t.power = s.power := by
  unfold takeFrame at h
  dsimp only at h
  split at h
  · cases h
  · cases h
    rfl

/-- A placing that leaves the state of power alone. -/
def PlacingKeepsPower (place : Placing) : Prop :=
  ∀ s n r u v f t, place s n r u = .ok (v, f, t) → t.power = s.power

section
variable {place : Placing} (hp : PlacingKeepsPower place)
include hp

theorem evictOne_power {s t : State} {tier turn : Nat} {skip left : List Nat} (h : evictOne place s tier turn skip = some (t, left)) :
    t.power = s.power := by
  unfold evictOne at h
  split at h
  next n r u _ _ =>
    dsimp only at h
    split at h
    · cases h
      rfl
    next v f x hplace =>
      cases h
      rw [emit_power, satF_power, rehouse_power]
      exact hp _ _ _ _ _ _ _ hplace
  · cases h

theorem evictTo_power (fuel : Nat) (s : State) (tier turn : Nat) (skip : List Nat) :
    (evictTo place s tier turn skip fuel).power = s.power := by
  induction fuel generalizing s turn skip with
  | zero => rfl
  | succ fuel ih =>
    unfold evictTo
    split
    · rfl
    · split
      · rfl
      next h => exact (ih _ _ _).trans (evictOne_power hp h)

theorem evictPool_power (s : State) (tier : Nat) : (evictPool place s tier).power = s.power := by
  unfold evictPool
  split
  · rfl
  · split
    · exact evictTo_power hp _ s tier 0 []
    · rfl

end

theorem allocIn_power {fuel : Nat} {s t : State} {task tier v f : Nat} {spill : Bool} {only : Option Nat}
    (h : allocIn s task spill only fuel tier = .ok (v, f, t)) : t.power = s.power := by
  induction fuel generalizing s t task spill only tier v f with
  | zero => cases h
  | succ fuel ih =>
    unfold allocIn at h
    split at h
    · split at h
      · split at h
        · cases h
        · exact ih h
      · cases h
    · dsimp only at h
      split at h
      next htake =>
        cases h
        exact (takeFrame_power htake).trans (evictPool_power (fun _ _ _ _ _ _ _ hplace => ih hplace) s tier)
      · cases h

theorem setMove_power (s : State) (n : Nat) (v : Fin 3) : (setMove s n v).power = s.power := by
  unfold setMove
  split <;> rfl

theorem tierRefusal_power (s : State) (t code : Nat) : (tierRefusal s t code).power = s.power := by
  unfold tierRefusal
  split
  · exact setF_power _ _ _ _ _
  · rfl

theorem beginMove_power (s : State) (j : MoveJob) (t : Nat) : (beginMove s j t).2.power = s.power := by
  unfold beginMove
  split
  · rfl
  · dsimp only
    split
    · rfl
    · split
      · exact tierRefusal_power _ _ _
      · split
        · exact tierRefusal_power _ _ _
        next halloc => exact (keepQuota_power _ _).trans ((allocIn_power halloc).trans (setMove_power _ _ _))

theorem moveFailed_power (s : State) (j : MoveJob) (code : Nat) : (moveFailed s j code).power = s.power := by
  unfold moveFailed
  split
  · split <;> rfl
  · rfl

theorem startQueued_power (s : State) (m : Mg) (fuel : Nat) : (startQueued s m fuel).power = s.power := by
  induction fuel generalizing s with
  | zero => rfl
  | succ fuel ih =>
    unfold startQueued
    split
    · rfl
    · split
      · rfl
      · exact (ih _).trans ((moveFailed_power _ _ _).trans (beginMove_power _ _ _))

theorem startHeld_power (s : State) : (startHeld s).power = s.power :=
  each_keeps State.power _ (fun s m => startQueued_power s m _) _ s

/-! ### POWER-STATE (14 R423–R431) -/

section
variable {s : State} {k : MbSlot} {m : MbSt}

/-- With no entry under way POWER-STATE is begun at the head of the queue. -/
theorem exec_powerState_begins {u : State} (hready : CommandReady s k 0x0801 (exactly 16 (mbOf s k))) (hnone : s.power.entry = none)
    (h : powerRequest (mbBegin s k) k (mbOf s k) = u) : exec (.powerState k) s = .next (settled s u) := by
  have hrun : powerState s k = runCommand s k 0x0801 (exactly 16) powerRequest := by simp only [powerState, hnone]
  exact (congrArg (finish s) hrun).trans (finish_runCommand_of_eq hready h)

theorem mbBegin_entry (h : s.power.entry = none) : (mbBegin s k).power.entry = none := h

theorem powerRequest_run (hnone : s.power.entry = none) (ht : mbArg m 0 1 = 0) :
    powerRequest s k m = mbOk (exitToRun s true (mbArg m 8 8)) k [(1, 0)] := by
  simp only [powerRequest, ht, hnone, Nat.zero_lt_succ, dite_true, Option.isSome_none, Bool.false_eq_true, if_false, if_true]

/-- A request for a lower state begins the entry, or answers the status of the check that it fails. -/
theorem powerRequest_enters {t : Fin 4} (hnone : s.power.entry = none) (ht : mbArg m 0 1 = t.val) (hlow : t ≠ 0) :
    powerRequest s k m = if entryCheck s t.val (mbArg m 8 8) ≠ 0 then mbFail s k (entryCheck s t.val (mbArg m 8 8))
      else beginEntry s k t (mbArg m 8 8) := by
  have hpos : ¬t.val = 0 := fun h => hlow (Fin.ext h)
  simp only [powerRequest, ht, hnone, t.isLt, dite_true, Option.isSome_none, Bool.false_eq_true, if_false, if_neg hpos]

/-- The slot's entry, once begun, goes on to its next abort point. -/
theorem exec_powerState_goesOn {e : PwrEntry} {u : State} (hon : poweredUp s = true) (hentry : s.power.entry = some e) (hslot : e.slot = k)
    (hbegun : mbBegun (mbOf s k) = true) (h : entryStep s e = u) : exec (.powerState k) s = .next (settled s u) := by
  refine finish_of_eq hon ?_
  simp only [powerState, hentry, hslot, hbegun, and_self, if_true, h]

theorem entryStep_waits {e : PwrEntry} (hap : getF s pwrState 3 3 = 1) (hquiet : quiesced s e = false) : entryStep s e = s :=
  if_pos ⟨hap, by rw [hquiet]; rfl⟩

/-- With step 2 over and no wake the entry passes one abort point. -/
theorem entryStep_passes {e : PwrEntry} (hgo : getF s pwrState 3 3 = 1 → quiesced s e = true) (hwake : e.wake = none)
    (hap : getF s pwrState 3 3 < 5) : entryStep s e = setF s pwrState 3 3 (getF s pwrState 3 3 + 1) := by
  have hnot : ¬(getF s pwrState 3 3 = 1 ∧ (!quiesced s e) = true) := fun ⟨h, hq⟩ => by simp [hgo h] at hq
  simp only [entryStep, if_neg hnot, hwake, if_pos hap]

/-- A wake before the fifth abort point abandons the entry. -/
theorem entryStep_abandons {e : PwrEntry} {w : Fin 4} (hwake : e.wake = some w) (hlo : 2 ≤ getF s pwrState 3 3)
    (hap : getF s pwrState 3 3 < 5) : entryStep s e = abandonEntry s e (getF s pwrState 3 3 + 1) 0x0603 w.val := by
  have hnot : ¬(getF s pwrState 3 3 = 1 ∧ (!quiesced s e) = true) := fun ⟨h, _⟩ => by omega
  simp only [entryStep, if_neg hnot, hwake, if_pos hap]

/-- Past the fifth abort point the entry ends, with a wake or without. -/
theorem entryStep_ends {e : PwrEntry} (hap : 5 ≤ getF s pwrState 3 3) : entryStep s e = finishEntry s e := by
  have hnot : ¬(getF s pwrState 3 3 = 1 ∧ (!quiesced s e) = true) := fun ⟨h, _⟩ => by omega
  simp only [entryStep, if_neg hnot, if_neg (Nat.not_lt.mpr hap)]
  split <;> rfl

theorem abandonEntry_entry (s : State) (e : PwrEntry) (ap status source : Nat) :
    (abandonEntry s e ap status source).power.entry = none := by
  unfold abandonEntry
  dsimp only
  rw [(mbFail_only _ _ _).power, emit_power, satF_power, startHeld_power]
  rfl

end

/-- Settles O47. One command passes each abort point, and a wake after the fifth is dropped in TRIM, by log entry 102. -/
theorem powerCommandsComplete : Obligations.PowerCommandsComplete := by
  refine ⟨fun s k => ⟨fun hready hnone => ⟨fun ht => ?_, fun t ht hlow hlegal => ?_, fun t ht hlow hillegal => ?_⟩,
    fun e hon hentry hslot hbegun hwake => ⟨fun hap hquiet => ?_, fun hap hquiet => ?_, fun hlo hap => ?_, fun hap => ?_⟩,
    fun hready => finish_runCommand_of_eq hready rfl, fun hready => finish_runCommand_of_eq hready rfl⟩,
    fun s k e w hon hentry hslot hbegun hwake hlo hap => ⟨?_, abandonEntry_entry s e _ _ _⟩,
    fun s k e w hon hentry hslot hbegun hwake hap => ⟨fun hlow => ?_, fun htrim => ?_⟩⟩
  · exact exec_powerState_begins hready hnone (powerRequest_run (mbBegin_entry hnone) ht)
  · exact exec_powerState_begins hready hnone
      ((powerRequest_enters (mbBegin_entry hnone) ht hlow).trans (if_neg (not_not.mpr hlegal)))
  · exact exec_powerState_begins hready hnone ((powerRequest_enters (mbBegin_entry hnone) ht hlow).trans (if_pos hillegal))
  · exact exec_powerState_goesOn hon hentry hslot hbegun (entryStep_waits hap hquiet)
  · refine exec_powerState_goesOn hon hentry hslot hbegun ((entryStep_passes (fun _ => hquiet) hwake (by omega)).trans ?_)
    rw [hap]
  · exact exec_powerState_goesOn hon hentry hslot hbegun (entryStep_passes (fun h => by omega) hwake hap)
  · exact exec_powerState_goesOn hon hentry hslot hbegun (entryStep_ends hap)
  · exact exec_powerState_goesOn hon hentry hslot hbegun (entryStep_abandons hwake hlo hap)
  · exact exec_powerState_goesOn hon hentry hslot hbegun ((entryStep_ends hap).trans
      (if_pos ⟨hlow, Option.isSome_of_eq_some hwake⟩))
  · exact exec_powerState_goesOn hon hentry hslot hbegun ((entryStep_ends hap).trans (if_neg fun h => by omega))

/-! ### What outlives every rail (14 R416, R433–R435) -/

/-- Parts of the state that writes to the registers of the mangers leave alone. -/
def KeptByMangers {β : Type} (part : State → β) : Prop :=
  ∀ s (m : Mg) off lo len v, off < 2 ^ 32 → part (setF s (mangerReg m off) lo len v) = part s

/-- What flash keeps of such a part is what the base of the state holds. -/
theorem flashKept_part {β : Type} {part : State → β} (hpart : KeptByMangers part) (base : State) (lost : List Nat) (mode : Nat) :
    part (setF (setF (each lost (fun t g => setF t (ifcReg g) 0 2 2) base) (mangerReg 0 0x500000) 0 1 mode) (mangerReg 0 0x500000) 1 1 mode)
      = part base := by
  rw [hpart _ _ _ _ _ _ (by decide), hpart _ _ _ _ _ _ (by decide)]
  exact each_keeps part _ (fun s g => hpart s _ _ _ _ _ (by omega)) _ _

theorem flashKept_on (s : State) : (flashKept s).power.on = false :=
  flashKept_part (part := fun s => s.power.on) (fun s _ _ _ _ _ _ => congrArg Power.on (setF_power s _ _ _ _)) _ _ _

theorem flashKept_posted (s : State) : (flashKept s).host.posted = [] :=
  flashKept_part (part := fun s => s.host.posted) (fun s _ _ _ _ _ _ => congrArg HostPort.posted (setF_host s _ _ _ _)) _ _ _

theorem flashKept_table (s : State) : (flashKept s).homes.table = [] :=
  flashKept_part (part := fun s => s.homes.table) (fun s _ _ _ _ _ _ => congrArg Homes.table (setF_homes s _ _ _ _)) _ _ _

theorem flashKept_repairs (s : State) : (flashKept s).svc.repairs = s.svc.repairs :=
  flashKept_part (part := fun s => s.svc.repairs) (fun s _ _ _ _ _ _ => congrArg Service.repairs (setF_svc s _ _ _ _)) _ _ _

theorem flashKept_svn (s : State) : (flashKept s).sec.svn = s.sec.svn :=
  flashKept_part (part := fun s => s.sec.svn) (fun s _ _ _ _ _ _ => congrArg Security.svn (setF_sec s _ _ _ _)) _ _ _

theorem getReg_of_filter {s t : State} {p : Nat → Bool} {a : Nat} (h : t.regs = s.regs.filter (fun e => p e.1)) (ha : p a = true) :
    getReg t a = getReg s a := by
  rw [getReg, getReg, mget, mget, h, mfind_filter s.regs p a, if_pos ha]

/-- The registers that flash and fuses keep. -/
def outlivesRails (a : Nat) : Bool :=
  decide (a = pwrRetain ∨ a = grmStart) || (List.finRange 32).any (fun st => inStall st 0x110000 0x110080 a)

/-- The retention latch outlives every rail. -/
theorem flashKept_latch (s : State) (lo len : Nat) : getF (flashKept s) pwrRetain lo len = getF s pwrRetain lo len := by
  have hlatch : KeptByMangers (fun s => getReg s pwrRetain) := fun s m off lo len v hoff =>
    getReg_setF_other s _ _ _ _ _ (by unfold pwrRetain aonReg mangerReg; omega)
  refine congrArg (fun w : Word => field w.toNat lo len) ((flashKept_part hlatch _ _ _).trans ?_)
  exact getReg_of_filter (p := outlivesRails) rfl (by simp only [outlivesRails, decide_true, true_or, Bool.true_or])

/-- A stop with a flag other than that of a brown-out. -/
theorem stopHard_flag {flagBit : Nat} (h : flagBit ≠ 0) (s : State) (cause : Fin 6) :
    stopHard s flagBit cause = onPower (flashKept (onSvc (setF s pwrRetain flagBit 1 1) (fun v => { v with orderly := false })))
      (fun p => { p with cause := cause, tested := false }) := by
  simp only [stopHard, if_neg h]

/-- Settles O49: an over-voltage keeps what flash, fuses and latch hold; a brown-out and a thermal trip are such stops. -/
theorem stopsLoseWhatIsVolatile : Obligations.StopsLoseWhatIsVolatile := by
  refine ⟨fun s mv hon hhigh => ?_, fun s ma hon hdorm hdraw => finishAon_met s _ _ ⟨hon, hdorm, hdraw⟩,
    fun s st hon hlive => finish_of_eq hon (if_neg hlive)⟩
  refine ⟨_, exec_overVoltage_high hon hhigh, ?_⟩
  simp only [getF_ended, ended_power, ended_host_posted, ended_homes, ended_svc, ended_sec, ended_pending, stopHard_flag one_ne_zero,
    onPower_power, onPower_host, onPower_homes, onPower_svc, onPower_sec, flashKept_on, flashKept_posted, flashKept_table,
    flashKept_repairs, flashKept_svn, onSvc_svc, onSvc_sec, setF_svc, setF_sec, and_true, true_and]
  calc getF (onPower (flashKept _) _) pwrRetain 1 1
      = getF (flashKept (onSvc (setF s pwrRetain 1 1 1) (fun v => { v with orderly := false }))) pwrRetain 1 1 :=
        getF_of_regs _ _ _ _ _ (onPower_regs _ _)
    _ = getF (setF s pwrRetain 1 1 1) pwrRetain 1 1 := (flashKept_latch _ 1 1).trans (getF_of_regs _ _ _ _ _ (onSvc_regs _ _))
    _ = 1 := getF_setF_same s pwrRetain 1 1 1 (by decide)

/-! ### The management bus and the scan port (15 R448–R453) -/

/-- What a request does where the bus is served. -/
theorem finishAon_onBus {s u : State} {f : State → State} (hup : busUp s = true) (h : f s = u) :
    finishAon s (onBus s f) = .next (ended s u) :=
  finishAon_of_eq ((if_pos hup).trans h)

theorem pldmRequest_input {s : State} {id : Nat} (h : id < 3) :
    pldmRequest s (.sensor id) = busAnswer { s with draws := s.draws + 1 } 0 (toBytes 2 (sensorReading s id)) :=
  if_pos (.inl h)

theorem moduleReset_other {s : State} {serial : BitVec 32} (h : serial.toNat ≠ serialNumber % 2 ^ 32) :
    moduleReset s serial = busAnswer s 1 [] :=
  if_pos h

theorem moduleReset_own {s : State} {serial : BitVec 32} (h : serial.toNat = serialNumber % 2 ^ 32) (hon : s.power.on = true) :
    moduleReset s serial = busAnswer (startFrom (powerFailStop s (lastInput s) 4) 4 (lastInput s)) 0 [] := by
  simp only [moduleReset, if_neg (not_not.mpr h), if_pos hon]

/-- The wake message to a module that is on: refused unless enabled. -/
theorem wakeMessage_on {s : State} (hup : busUp s = true) (hon : s.power.on = true) :
    wakeMessage s = if wakeEnabled s 0 then busAnswer (wakeBy s 0) 0 [] else busAnswer s 1 [] := by
  have hno : ¬((!s.power.on) = true ∧ s.power.cause = 3) := fun ⟨h, _⟩ => by simp [hon] at h
  simp only [wakeMessage, onBus, if_neg hno, if_pos hup, if_pos hon]

theorem tapInstruction_eq (s : State) (i : TapInstr) :
    tapInstruction s i = if tapSelect s i = .idcode
      then send (send (onPower s (fun p => { p with tapInstr := tapSelect s i })) (.tap (tapSelect s i))) (.tapIdcode idcode)
      else send (onPower s (fun p => { p with tapInstr := tapSelect s i })) (.tap (tapSelect s i)) := by
  simp only [tapInstruction, when, decide_eq_true_eq]

/-- Settles O50. The replies' bodies are log entry 104's, and MODULE-RESET's stop and cause log entry 103's. -/
theorem managementBusCompletes : Obligations.ManagementBusCompletes := by
  refine ⟨fun s hup => ⟨fun a => finishAon_onBus hup rfl, fun e => finishAon_onBus hup rfl, finishAon_onBus hup rfl,
    fun id hid => finishAon_onBus hup (pldmRequest_input hid), finishAon_onBus hup rfl,
    fun n hother => finishAon_onBus hup (moduleReset_other hother),
    fun n hown hon => finishAon_onBus hup (moduleReset_own hown hon), fun on => finishAon_onBus hup rfl,
    fun hon henabled => ⟨?_, fun hentry hlow => ?_⟩, fun hon hoff => ?_⟩,
    fun s i hon => finish_of_eq hon (tapInstruction_eq s i)⟩
  · exact finishAon_of_eq ((wakeMessage_on hup hon).trans (if_pos henabled))
  · rw [← wakeBy_no_entry 0 hentry hlow]
    exact finishAon_of_eq ((wakeMessage_on hup hon).trans (if_pos henabled))
  · exact finishAon_of_eq ((wakeMessage_on hup hon).trans (if_neg (Bool.eq_false_iff.mp hoff)))

end Sys2Proof.Machine
end

section
/-! SUPPORT. The statement of the SELF-TEST commands and of continuity (13 R407; 16 R463–R488). -/

namespace Sys2Proof.Machine

/-! ### The SELF-TEST commands (13 R407; 16 R483–R488) -/

section
variable {s : State} {k : MbSlot} {m : MbSt}

/-- A BIST that has not begun is begun at the head of the queue. -/
theorem exec_bist {u : State} (hready : CommandReady s k 0x0A01 (exactly 2 (mbOf s k))) (hfresh : mbBegun (mbOf s k) = false)
    (h : bist (mbBegin s k) k (mbOf s k) = u) : exec (.bist k) s = .next (settled s u) := by
  have hrun : bistStep s k = runCommand s k 0x0A01 (exactly 2) bist := by
    simp only [bistStep, hfresh, Bool.false_eq_true, false_and, if_false]
  exact (congrArg (finish s) hrun).trans (finish_runCommand_of_eq hready h)

theorem bist_loft (hidle : testing s (mbArg m 0 1) = false) (hlo : 0x30 ≤ mbArg m 0 1) (hhi : mbArg m 0 1 ≤ 0x3F)
    (hdie : isDie (mbArg m 0 1) = true) (hkind : mbArg m 1 1 = 1) : bist s k m = beginTest s (mbArg m 0 1) 1 k true false := by
  have hnot : ¬mbArg m 0 1 = 0xFF := by omega
  simp only [bist, startTest, hdie, hkind, hidle, hnot, if_pos hlo, Bool.not_true, Bool.false_eq_true, and_false, or_false,
    if_false, Nat.reduceLT, OfNat.one_ne_ofNat, ne_eq, not_false_eq_true, and_true, one_ne_zero]

theorem bist_shutdown (hidle : testing s (mbArg m 0 1) = false) (hall : mbArg m 0 1 = 0xFF) (hkind : mbArg m 1 1 = 3) :
    bist s k m = shutdownTest s k := by
  rw [hall] at hidle
  simp only [bist, startTest, hall, hkind, hidle, ne_eq, not_true_eq_false, and_false, Bool.false_eq_true, if_false, if_true, or_self,
    Nat.lt_irrefl, false_and, Nat.reduceEqDiff]

theorem bistResults_answers (hdie : isDie (mbArg m 0 1) = true) :
    bistResults s k m = mbOk s k ((((mget s.svc.results [] (mbArg m 0 1)).drop (mbArg m 2 2)).take 64).map (fun f => (16, resultEntry f))) := by
  simp only [bistResults, hdie, Bool.not_true, Bool.false_eq_true, false_and, if_false]

theorem fuseRepair_idle (hdie : isDie (mbArg m 0 1) = true) (hout : inService s (mbArg m 0 1) = false) :
    fuseRepair s k m = mbOk (burnDie s (mbArg m 0 1) (fun _ => true)).2 k [(2, (burnDie s (mbArg m 0 1) (fun _ => true)).1)] := by
  simp only [fuseRepair, hdie, hout, Bool.not_true, Bool.false_eq_true, false_and, if_false]

theorem fuseRepair_inService (hdie : isDie (mbArg m 0 1) = true) (hin : inService s (mbArg m 0 1) = true) (hnone : s.svc.tests = []) :
    fuseRepair s k m = mbFail s k 0x0A01 := by
  simp only [fuseRepair, hdie, hin, hnone, List.any_nil, Bool.not_true, Bool.not_false, Bool.false_eq_true, and_self, if_false, if_true]

theorem retire_stall (hdie : isDie (mbArg m 0 1) = true) (hunit : hasUnit (mbArg m 0 1) (mbArg m 2 2) = true) (hstall : mbArg m 0 1 < 0x20) :
    retire s k m = mbOk (blockFailed s (mbArg m 0 1) (mbArg m 2 2) 7).1 k [] := by
  simp only [retire, hdie, hunit, Bool.not_true, Bool.false_eq_true, if_false, Nat.not_le.mpr hstall, false_and]

end

/-! ### The end of a test (16 R482–R486) -/

section
variable {s : State}

theorem selfTestDone_running {die : Nat} {l : List Finding} {t : TestRun}
    (h : s.svc.tests.find? (fun t => t.die.toNat == die) = some t) :
    selfTestDone s die l = if t.kind = 3 then endShutdown s t else endTest (settleFindings s die l false) t := by
  simp only [selfTestDone, h]

theorem loftBlockTest_running {x : Nat} {l : List Finding} {t : TestRun}
    (h : s.svc.tests.find? (fun t => t.die.toNat == 0x30 + x) = some t) :
    loftBlockTest s x l = if 262144 ≤ t.blocks + 1
      then endTest (onSvc (settleFindings s (0x30 + x) l false)
        (fun v => { v with tests := v.tests.map (fun y => if y = t then { t with blocks := t.blocks + 1 } else y) })) { t with blocks := t.blocks + 1 }
      else onSvc (settleFindings s (0x30 + x) l false)
        (fun v => { v with tests := v.tests.map (fun y => if y = t then { t with blocks := t.blocks + 1 } else y) }) := by
  simp only [loftBlockTest, h]

/-! ### Losing a stall, and rotations (16 R463–R468) -/

theorem onSvc_congr {f g : Service → Service} (h : f s.svc = g s.svc) : onSvc s f = onSvc s g := by
  rw [onSvc, onSvc, h]

theorem addRepair_rotation (kind : Fin 11) (die loc : Nat) : (addRepair s kind die loc).svc.rotation = s.svc.rotation := by
  unfold addRepair
  split <;> rfl

/-- A stall in service leaves the state `u` in which its loss is recorded, onto the spare that the state before had, if any. -/
def stallLeaves (s u : State) (st : Stall) (p : Nat) : State :=
  let spare := mkStall (stallRow st) (outColumn s (stallRow st))
  onYard (if stallState s spare == .relay && !s.yard.relayed.contains spare then shiftLost u st p else loseContinuity u st)
    (fun y => { y with failed := y.failed ++ [st] })

/-- A stall in service is lost while no rotation is under way. -/
theorem stallLoss_inService {st : Stall} {cause p : Nat} (hlive : st ∉ s.yard.failed) (hin : stallState s st = .inService)
    (hlp : stallLp s st = some p) (hstill : s.svc.rotation = none) :
    stallLoss s st cause = stallLeaves s (onSvc (addRepair (emit s (srcStall st 0x3F) 0x0B81 (st.val + p <<< 8) cause) 9 st.val 0)
      (fun v => { v with rotation := none })) st p := by
  have hnone : (addRepair (emit s (srcStall st 0x3F) 0x0B81 (st.val + p <<< 8) cause) 9 st.val 0).svc.rotation = none :=
    (addRepair_rotation 9 st.val 0).trans hstill
  simp only [stallLoss, if_neg hlive, hin, hlp, Option.getD_some]
  exact congrArg (stallLeaves s · st p) (onSvc_congr (by simp only [hnone]))

theorem rotation_noRow (hset : getF s bstCfg 0 1 = 1) (hnone : nextRotation s = none) :
    rotation s = rotationDue s (max 1 (getF s bstRot 0 16)) := by
  simp only [rotation, hset, hnone, one_ne_zero, if_false]

theorem rotation_postponed {row : Fin 4} (hset : getF s bstCfg 0 1 = 1) (hnext : nextRotation s = some row) (hbusy : rowAtMark s row = false) :
    rotation s = rotationDue s 1 := by
  simp only [rotation, hset, hnext, hbusy, one_ne_zero, if_false, Bool.not_false, true_or, if_true]

/-- The turn of a row whose least tested stall is its spare in relay: nothing shifts. -/
theorem rotation_ofRelay {row : Fin 4} (hset : getF s bstCfg 0 1 = 1) (hnext : nextRotation s = some row) (hmark : rowAtMark s row = true)
    (hentry : s.power.entry = none) (hrun : pstate s = 0) (hcont : s.svc.contLost = false)
    (hrelay : stallState (leastTested s row).2 (leastTested s row).1 = .relay) :
    rotation s =
      let u := onSvc (leastTested s row).2 (fun v => { v with
        rotation := some { row := row, leaving := (leastTested s row).1 }, nextRow := row + 1 })
      rotationDue u (max 1 (getF u bstRot 0 16)) := by
  simp only [rotation, hset, hnext, hmark, hentry, hrun, hcont, hrelay, one_ne_zero, if_false, if_true, Bool.not_true, Bool.false_eq_true,
    Option.isSome_none, ne_eq, not_true_eq_false, or_self]

theorem rotationTestDone_passed {r : Rotation} {l : List Finding} (h : s.svc.rotation = some r) :
    rotationTestDone s true l =
      let u := onSvc s (fun v => { v with rotation := none, results := mdel v.results r.leaving.val })
      let w := heldRepairs (settleFindings u r.leaving.val l true) r.leaving.val true
      emit (tested (setF w pwrDom r.leaving.val 1 0) r.leaving.val) (srcGroom w) 0x0B86 (r.row.val + r.leaving.val <<< 8) 0 := by
  simp only [rotationTestDone, h, if_true]

/-! ### The audit of a unit (16 R478, R479) -/

/-- What an audit does where the two paths disagree: the record, and what the second read settles. -/
theorem unitAudit_disagrees {st : Stall} {site : Site} {seen again : StatusWord} (h : auditCase s st (unitOf s st site) seen ≠ .agree) :
    unitAudit s st site seen again =
      let low := match again with | some w => w.toNat % 2 ^ 32 | none => 0
      let u := (unstated s 0x51).2
      settleAudit (emit u (srcGroom u) 0x0B87 (site.val + st.val <<< 10) (low + ((unstated s 0x51).1 % 2 ^ 16) <<< 32))
        st site (auditCase u st (unitOf s st site) again) := by
  simp only [unitAudit, if_neg h]
  rfl

end

/-- Settles O51. The audit's free table state and its second read are log entry 110's, the places and conditions of a test log entry 111's,
and the cause of a replay log entry 107's. -/
theorem selfTestAndContinuityComplete : Obligations.SelfTestAndContinuityComplete := by
  refine ⟨⟨fun s k => ⟨fun hready hfresh hidle => ⟨?_, ?_⟩, fun hready hdie => ?_, fun hready hdie hout => ?_, fun hready hdie hin hnone => ?_,
      fun hready hdie hunit hstall => ?_⟩, fun s die l t hon hrun => ⟨fun hkind => ?_, fun hkind => ?_⟩, fun s x l t hon hrun => ?_⟩,
    fun s st cause p hon hlive hin hlp hstill => finish_of_eq hon (stallLoss_inService hlive hin hlp hstill),
    fun s row hon hset => ⟨fun hnone => finish_of_eq hon (rotation_noRow hset hnone),
      fun hnext hbusy => finish_of_eq hon (rotation_postponed hset hnext hbusy),
      fun hnext hmark hentry hrun hcont hrelay => finish_of_eq hon (rotation_ofRelay hset hnext hmark hentry hrun hcont hrelay)⟩,
    fun s r l hon hrotation => finish_of_eq hon (rotationTestDone_passed hrotation),
    fun s st site seen again hon => ⟨fun hagree => finish_of_eq hon (if_pos hagree), fun hdiff => ⟨finish_of_eq hon (unitAudit_disagrees hdiff),
      fun v => ⟨rfl, rfl, fun l => rfl, fun w hactive => ?_, rfl, rfl⟩⟩⟩⟩
  · exact fun hlo hhi hdie hkind => exec_bist hready hfresh (bist_loft hidle hlo hhi hdie hkind)
  · exact fun hall hkind => exec_bist hready hfresh (bist_shutdown hidle hall hkind)
  · exact finish_runCommand_of_eq hready (bistResults_answers hdie)
  · exact finish_runCommand_of_eq hready (fuseRepair_idle hdie hout)
  · exact finish_runCommand_of_eq hready (fuseRepair_inService hdie hin hnone)
  · exact finish_runCommand_of_eq hready (retire_stall hdie hunit hstall)
  · exact finish_of_eq hon (congrArg settlePosted ((selfTestDone_running hrun).trans (if_pos hkind)))
  · exact finish_of_eq hon (congrArg settlePosted ((selfTestDone_running hrun).trans (if_neg hkind)))
  · exact finish_of_eq hon (congrArg settlePosted (loftBlockTest_running hrun))
  · simp only [settleAudit, hactive]

end Sys2Proof.Machine
end

section
/-! SUPPORT. The statements of security: the security version, and the SECURITY, FIRMWARE and ATTEST commands, which the staging of an image
from register space refutes (00 R6; 17 R493–R506). -/

namespace Sys2Proof.Machine

/-! ### The security version (17 R496, R498) -/

/-- What the advance of the security version does: it rises to the running image's after 24 h, or nothing changes. -/
theorem svnAdvance_cases (s : State) : svnAdvance s = s ∨ ∃ n version, s.sec.svn < n ∧ s.sec.runSince + 86400000000000 ≤ s.time
    ∧ svnAdvance s = emit (onSec s (fun x => { x with svn := n })) (srcGroom s) 0x0782 n version := by
  unfold svnAdvance
  split
  · exact .inl rfl
  · dsimp only
    split
    next h => exact .inr ⟨_, _, h.1, h.2, rfl⟩
    · exact .inl rfl

/-- Settles O53: without power nothing changes, and with power the version rises or stays. -/
theorem svnNeverFalls : Obligations.SvnNeverFalls := by
  intro s t h
  have hkeeps (u : State) (hu : t = ended s u) (hsvn : u.sec.svn = s.sec.svn) : t.sec.svn = s.sec.svn := by rw [hu, ended_sec, hsvn]
  cases hon : poweredUp s with
  | false =>
    have hend : t = ended s s := by
      have hx : finish s (svnAdvance s) = .next t := h
      rw [finish_off s _ hon] at hx
      cases hx
      rfl
    have heq := hkeeps s hend rfl
    exact ⟨heq.ge, fun hne => absurd heq hne⟩
  | true =>
    have hend : t = ended s (svnAdvance s) := by
      have hx : finish s (svnAdvance s) = .next t := h
      rw [finish_on s _ hon] at hx
      cases hx
      rfl
    obtain hsame | ⟨n, version, hrises, hdue, hadvance⟩ := svnAdvance_cases s
    · have heq := hkeeps s (hend.trans (congrArg (ended s) hsame)) rfl
      exact ⟨heq.ge, fun hne => absurd heq hne⟩
    · have heq : t.sec.svn = n := by rw [hend, hadvance, ended_sec, emit_sec, onSec_sec]
      exact ⟨heq ▸ hrises.le, fun _ => ⟨hdue, rfl⟩⟩

/-! ### An image staged from register space (00 R6; 17 R495, R497) -/

/-- The command's slot: FW-STAGE of one byte at the first address of register space. -/
def regStageSlot : MbSt :=
  { owner := 1, cmd := BitVec.ofNat 64 (0x0B01 + 2 ^ 16 + 12 * 2 ^ 32), data := putFields [] [(0, 8, regSpace), (8, 4, 1)] }

/-- Slot 0 asks to stage it. -/
def regStage : State := onHost (putMb {} 0 regStageSlot) (fun h => { h with posted := [0] })

/-- The groom begins the command. -/
theorem regStage_ready : CommandReady regStage 0 0x0B01 (fun l => l == 12) := by
  unfold CommandReady; decide +kernel

/-- The codes of the records that wait in the event queue after a command. -/
def eventsAfter (x : Host.Outcome State Fault Refusal) : List Nat :=
  match x with
  | .next t => t.host.evq.map (fun e => e.code.toNat)
  | _ => []

/-- The read of register space is recorded, and so is the image that fails. -/
theorem regStage_events : eventsAfter (exec (.fwStage 0) regStage) = [0x0981, 0x0781] := by decide +kernel

def regStageBegun : State := mbBegin regStage 0

/-- The address and the length that the command gives, and what is read there: one zero, too short for an image. -/
theorem regStage_reads : mbArg (mbOf regStage 0) 0 8 = regSpace ∧ mbArg (mbOf regStage 0) 8 4 = 1 ∧ rangeCode regStageBegun regSpace 1 = 0
    ∧ poisonRange regStageBegun regSpace 1 = false ∧ imageCheck regStageBegun (readRange regStageBegun regSpace 1) = 0x0701 := by decide +kernel

/-- The state in which the statement has the command end: its one record is that of the image. -/
def regStageClaimed : State :=
  let v := onSec (putSlot (touchRange regStageBegun regSpace 1) (!regStageBegun.sec.running) none) (fun x => { x with staged := none })
  settled regStage (mbFail (emit v (srcGroom v) 0x0781 (flag (!regStageBegun.sec.running)) 0x0701) 0 0x0908)

theorem regStageClaimed_events : eventsAfter (.next regStageClaimed) = [0x0781] := by decide +kernel

/-- Refutes O52 in its clause on a staged image that fails: its range may lie in register space, whose read in that size is recorded with the
access event (00 R6); the clause has the state end with the image's own record alone. -/
theorem not_securityCommandsComplete : ¬ Obligations.SecurityCommandsComplete := by
  intro h
  obtain ⟨hcommands, -⟩ := h
  obtain ⟨-, -, -, hstage, -⟩ := hcommands regStage 0
  obtain ⟨haddr, hlen, hcode, hclean, hcheck⟩ := regStage_reads
  rw [haddr, hlen] at hstage
  obtain ⟨-, hfails⟩ := hstage regStage_ready (by decide) (by decide) hcode
  have hclaimed : exec (.fwStage 0) regStage = .next regStageClaimed := by
    rw [hfails hclean (by rw [← regStageBegun, hcheck]; decide), ← regStageBegun, hcheck]
    rfl
  have hevents := regStage_events
  rw [hclaimed, regStageClaimed_events] at hevents
  exact absurd hevents (by decide)

end Sys2Proof.Machine
end
